-- ==== Sys2Proof/Word.lean ====
section
/-! DEFINITION. The words of the block: bytes, register words, and the two parts the spec describes. -/

namespace Sys2Proof

/-- One byte. -/
abbrev Byte := BitVec 8

/-- A register's content: 32-bit registers use the low half. -/
abbrev RegWord := BitVec 64

/-- An FP32 bit pattern, an accumulator word. -/
abbrev F32 := BitVec 32

/-- The two parts of R2 and R3. -/
inductive Part where
  /-- the GX4-1536 -/
  | gx4
  /-- the GX2-768 -/
  | gx2
  deriving DecidableEq, Repr

/-- A die of the compute package (R16, R21). -/
inductive Die where
  | tier (t : Nat)
  | plinth
  deriving DecidableEq, Repr

end Sys2Proof
end

