-- ==== Sys2Proof/Syntax.lean ====
section
/-! DEFINITION. The commands of the block: one constructor for each row of spec/opcode_table.json, with
the operands that the row's rule needs. A command is a register access, a message, a pin edge, or an
event of the block's own engines that the spec tells as a row. What the outside world answers inside a
command (host memory, link errors, upsets of SRAM and DRAM) comes with the command as an `Env`. -/

namespace Sys2Proof

/-- Wrong symbols that have come up in a codeword of device memory before a command reads it (R175): the codeword, as its
physical byte key divided by 32; which upset of that codeword this is, so that it strikes once; and the symbols, d0 to d31 and
then p0 to p3, with what was added to each. -/
structure Upset where
  word : Nat
  serial : Nat
  errs : List (Nat × Nat)
  deriving DecidableEq, Repr

/-- A protected word of on-chip SRAM. -/
inductive Site where
  /-- a 64-bit word of a line of a cell's operand SRAM (R57) -/
  | operand (cell line word : Nat)
  /-- a 64-bit word of a row of a cell's accumulator memory (R62) -/
  | partials (cell row word : Nat)
  /-- a 64-bit word of a Host Memory Port channel's window, by its offset divided by 8 (R362) -/
  | window (ch word : Nat)
  /-- a line of a pool core's data cache or instruction cache, by its virtual address divided by 64 (R147, R148) -/
  | dcache (pool line : Nat)
  | icache (pool line : Nat)
  deriving DecidableEq, Repr

/-- A wrong result inside a Cistern adder (R222), at an element of the bucket: of the adder proper (stage 0), of the
normalising shift (1), of the significand cut by the rounding (2), or of the rounded significand (3). -/
structure AdderFault where
  elem : Nat
  stage : Nat
  out : Nat
  deriving DecidableEq, Repr

/-- What the world outside the block answers while one command runs: plain data. -/
structure Env where
  /-- host memory as reads of this command find it; an unlisted byte reads as zero -/
  host : List Host.Cell := []
  /-- host addresses, divided by 64, at which the link answers with an error or times out -/
  hostFail : List Nat := []
  /-- upsets of codewords of device memory (R175) -/
  ecc : List Upset := []
  /-- errors of on-chip SRAM words that this command meets, and whether each is uncorrectable -/
  sram : List (Site × Bool) := []
  adder : List AdderFault := []
  /-- an inbound request carries the T bit on the stream bound to its function (R401) -/
  tee : Bool := false
  deriving DecidableEq, Repr

/-- A 64-byte access that reaches the memory subsystem (R165, R171, R182): its requester class (R464), the die it comes from
(R21), the partition it is attributed to (64: the physical function), its partition virtual address, or a DPA when
`phys` is set, and for a write its bytes and byte enables. -/
structure Acc where
  cls : Nat
  die : Die
  part : Nat
  addr : Nat
  phys : Bool
  write : Bool
  data : List Byte
  mask : List Bool
  deriving DecidableEq, Repr


/-- A PTP message as the Clepsydra reads it (R285, R286): the message type of IEEE 1588 (0 Sync, 1
Delay_Req, 8 Follow_Up, 9 Delay_Resp, 11 Announce), the domain, sourcePortIdentity and sequence number,
the correctionField in 2^-16 ns, the timestamp it carries in nanoseconds, the two-step flag, the
requestingPortIdentity of a Delay_Resp, the transport (0 layer 2, 1 IPv4, 2 IPv6), the IP source address over UDP, and the
destination address of the transport: a MAC address, or an IP address over UDP. -/
structure PtpMsg where
  kind : Nat
  domain : Nat
  source : Nat
  seq : Nat
  corr : Int
  stamp : Nat
  twoStep : Bool
  reqSource : Nat
  xport : Nat
  srcIp : Nat
  dst : Nat
  deriving DecidableEq, Repr

/-- An Aqueduct packet (R234 to R236): what its IP and UDP headers say (`df` and `ident` of IPv4, `flow` the flow label of
IPv6, `ttl` also the hop limit), and the fields of its 48-byte header. `plain` is false for a fragment, IPv4 options or IPv6 extension headers; `csum` is the UDP
checksum: 0 zero, 1 valid, 2 wrong; `udpLen` the UDP length and `reserved` the OR of the reserved fields. -/
structure Pkt where
  v6 : Bool
  srcIp : Nat
  dstIp : Nat
  dscp : Nat
  ecn : Nat
  df : Bool
  ident : Nat
  flow : Nat
  ttl : Nat
  sport : Nat
  dport : Nat
  plain : Bool
  csum : Nat
  udpLen : Nat
  ver : Nat
  op : Nat
  flags : Nat
  part : Nat
  dstCtx : Nat
  srcCtx : Nat
  psn : Nat
  aux : Nat
  ts : Nat
  rkey : Nat
  len : Nat
  va : Nat
  reqid : Nat
  reserved : Nat
  payload : List Byte
  deriving DecidableEq, Repr

/-- The EEE TLV of IEEE 802.3 Clause 79 (R277): the sender's transmit wake time, the receive wake time that it asks for and
the fallback it would take, and the values of the other end that it echoes, µs (PRESUMED, log entry 40). -/
structure EeeTlv where
  tx : Nat
  rx : Nat
  fallback : Nat
  echoTx : Nat
  echoRx : Nat
  deriving DecidableEq, Repr

/-- What an Ethernet frame carries (R271). -/
inductive FrameBody where
  /-- EtherType 0x8808: opcode, the class-enable vector of a PFC frame, and the quanta (one for PAUSE, eight
  for PFC) -/
  | control (opcode enable : Nat) (quanta : List Nat)
  /-- EtherType 0x88CC: Chassis ID and Port ID as sent, TTL in seconds, and the EEE TLV where there is one -/
  | lldp (chassis port ttl : Nat) (eee : Option EeeTlv)
  | ptp (m : PtpMsg)
  | aqd (p : Pkt)
  /-- anything else -/
  | other (etherType : Nat)
  deriving DecidableEq, Repr

/-- An Ethernet frame: addresses, the PCP and VID of its tag, its octets from the destination address
through the FCS, whether its FCS is valid and whether every FEC codeword was correctable. -/
structure Frame where
  dst : Nat
  src : Nat
  tag : Option (Nat × Nat)
  octets : Nat
  fcs : Bool
  fec : Bool
  body : FrameBody
  deriving DecidableEq, Repr


/-- What a mode-register read of a Host Memory Port channel asks for (R348). -/
inductive HmpMode where
  | manufacturer | temperature | refreshManagement | oscillator
  | other (n : Nat)
  deriving DecidableEq, Repr

/-- A command of JESD209-6 to a Host Memory Port channel, other than reads and writes (R348). -/
inductive HmpCmd where
  | activate (sub bank row : Nat)
  | precharge (sub bank : Nat)
  | prechargeAll (sub : Nat)
  | refreshBank (bank : Nat)
  | refreshAll
  | modeRead (m : HmpMode)
  | modeWrite (n value : Nat)
  | setPoint (n : Nat)
  | powerDownEntry | powerDownExit
  | selfRefreshEntry | selfRefreshExit
  /-- the host controller completes its training -/
  | trained
  deriving DecidableEq, Repr


/-- A message of IDE_KM (R395): the stream (0 to 7 selective, 8 the link stream), the key set, the direction (0 receive,
1 transmit) and the sub-stream (0 posted, 1 non-posted, 2 completion). -/
inductive IdeKm where
  | query
  | keyProg (stream set dir sub : Nat)
  | setGo (stream set dir sub : Nat)
  | setStop (stream set dir sub : Nat)
  deriving DecidableEq, Repr

/-- A snoop of CXL.cache (R304). -/
inductive Snoop where
  | inv | data | cur
  deriving DecidableEq, Repr

/-- A snoop of the doorbell line of a ring, 16 being the event queue (R317). -/
structure LineSnoop where
  ring : Nat
  kind : Snoop
  deriving DecidableEq, Repr

/-- The features that R304 and R368 state for a configuration space, supported or absent. -/
inductive Capability where
  | aer | msix | ari | sriov | flr | doe | ide | tdisp | cxlIo | cxlCache | flitMode | tags14
  | aspm | l1Substates | l0p | ats | pri | pasid | atomicOps | tph | ltr | resizableBar | idOrdering | noSnoop | vfMigration
  | cxlMem | hdmDecoders | backInvalidation
  deriving DecidableEq, Repr

/-- The configuration registers whose content R304, R305, R328 and R368 state. -/
inductive CfgField where
  /-- a capability is announced -/
  | present (c : Capability)
  /-- the highest rate in units of 0.5 GT/s, and the widest link -/
  | maxRate | maxWidth
  /-- Max_Payload_Size supported and set, and Max_Read_Request_Size, in bytes -/
  | payloadSupported | payload | readRequest
  /-- 0 D0, 3 D3hot -/
  | powerState
  /-- entries of the MSI-X table; offsets of the table and of the pending bits in BAR0; MSI-X Enable; Function Mask -/
  | msixSize | msixTable | msixPba | msixEnable | msixMask
  /-- the size of a BAR, 0 absent, with 1 added for a 64-bit one and 2 for a prefetchable one; and of a BAR of the virtual
  functions in the SR-IOV capability -/
  | bar (n : Nat)
  | vfBar (n : Nat)
  /-- ARI Capable Hierarchy -/
  | ariHierarchy
  deriving DecidableEq, Repr

/-- A configuration request (R304, R305, R368, R484). -/
inductive CfgReq where
  /-- a read, and a write, of a register that the spec states -/
  | get (f : CfgField)
  | set (f : CfgField) (value : Nat)
  /-- a read of the SR-IOV fields of R368, in the order of that table: VF Enable, NumVFs, TotalVFs, InitialVFs, First VF
  Offset, VF Stride, Supported Page Sizes -/
  | sriov (k : Nat)
  | read (off : Nat)
  | write (off value : Nat)
  | vfEnable (on : Bool)
  /-- the control register of an IDE stream: enabled, and limited by the T bit (R395) -/
  | ideStream (stream : Nat) (enable tee : Bool)
  deriving DecidableEq, Repr

/-- An MCTP control message (R500, DSP0236). -/
inductive MctpReq where
  | setEndpointId (eid : Nat)
  | getEndpointId
  | getVersion
  | getMessageTypes
  | other (command : Nat)
  deriving DecidableEq, Repr

/-- What the Weir's own clock, converters, capacitor and seal pin give since its last command (R412, R414, R416, R423): ms
of Weir time, energy in mJ, hold-up energy in µJ, average power in 0.1 W, and the jumper. -/
structure WeirIn where
  ms : Nat := 0
  mj : Nat := 0
  uj : Nat := 26320
  dw : Nat := 0
  jumper : Bool := false
  deriving DecidableEq, Repr

/-- What a control window measures (R432, R437): the average input power in 0.1 W, and the readings in °C of the sensors
listed, `none` where a sensor gives no reading; every other sensor reads `ambient`. -/
structure WindowIn where
  dw : Nat
  ambient : Int
  temps : List (Nat × Option Int)
  deriving DecidableEq, Repr

/-- What the plinth reads of a tier's die (R456): its serial as the walk and as the plinth link give it, its set identity,
stepping and position fuse. -/
structure DieIn where
  serial : Nat
  portSerial : Nat
  set : Nat
  stepping : Nat
  position : Nat
  deriving DecidableEq, Repr

/-- What bring-up finds at a stage (R391, R449, R456, R482): milliseconds since the reset began, the two copies in boot
flash, the lanes with errors and the groups without a clock (link, direction, group), the identity of the dies, and
the channels that fail training. -/
structure BootIn where
  ms : Nat
  /-- what has been written into boot flash from outside since the last stage: offsets and bytes (R390, R483) -/
  flash : List (Nat × List Byte) := []
  badLanes : List ((Nat × Nat × Nat) × List Nat) := []
  unlocked : List (Nat × Nat × Nat) := []
  set : Nat := 0
  stepping : Nat := 1
  /-- hops of the discovery walk, and whether it came back on tier 0's direction-1 ring port -/
  hops : Nat := 4
  back : Bool := true
  dies : List DieIn := []
  badChannels : List Nat := []
  deriving DecidableEq, Repr

/-- The commands: one constructor for each row of spec/opcode_table.json. -/
inductive Instr where
  /-- A write to a register that has no behaviour of its own stores the written fields according to their type codes, including W1C and W1S bits. (R10) -/
  | registerWrite (fn off size value : Nat) (env : Env)
  /-- A register access of the wrong size or alignment returns zero, discards any write and sets TOP_E_ACCESS. (R9) -/
  | registerAccessError (fn off size : Nat) (write : Bool) (value : Nat)
  /-- A pool-core write to POOL_TQ_PUSH enters the staged descriptor into the tile queue, or discards it and sets POOL_E_ISSUE. (R151) -/
  | poolTqPush (p : Nat)
  /-- A cell starts an MMA and runs its passes of C += A·B into the slot. (R55) -/
  | mma (p : Nat) (env : Env)
  /-- A cell starts an OUT operation, which runs the output path on a slot with no passes. (R69) -/
  | out (p : Nat) (env : Env)
  /-- A cell loads its part of a slot from FP32 rows in memory and restores the pass count. (R69) -/
  | accLoad (p : Nat) (env : Env)
  /-- A cell stores a slot's partials unconverted as FP32 rows in memory. (R69) -/
  | accStore (p : Nat) (env : Env)
  /-- A cell sets a slot to +0 with a pass count of zero and a clear overflow flag. (R69) -/
  | clear (p : Nat) (env : Env)
  /-- A cell reads a table file into a table pair, checks it and either installs it or rejects it. (R86) -/
  | tableLoad (p : Nat) (env : Env)
  /-- A cell adds one gradient slot from memory into a tile slot, with the output path when FINISH is set. (R100) -/
  | tieSum (p : Nat) (env : Env)
  /-- A cell runs one attention operation (STEP, NORM, REPLAY_P or REPLAY_DS) on the S and O slots. (R117) -/
  | attRescale (p : Nat) (env : Env)
  /-- The output path runs on a slot: element-wise stage, table stage, conversion, statistics report and write-back. (R78) -/
  | outputPath (p : Nat) (guest : Bool) (env : Env)
  /-- When every cell of the group has finished and every write response has returned, the tile operation completes with its status. (R75) -/
  | tileOpComplete (p : Nat) (guest : Bool) (k : Nat) (env : Env)
  /-- A guest tile operation yields to the owner at the next pass or row boundary. (R77) -/
  | guestYield (p : Nat)
  /-- A guest tile operation starts or resumes on a cell once the owner has nothing for it. (R385) -/
  | guestTileIssue (p n : Nat) (env : Env)
  /-- Writing POOL_SG_ARM puts a shard guard in pending and reads its shard record. (R108) -/
  | poolSgArm (p n value : Nat)
  /-- Writing POOL_SG_DISARM returns a shard guard to idle. (R108) -/
  | poolSgDisarm (p n value : Nat)
  /-- The shard record read returns, and the guard passes or fails. (R108) -/
  | shardGuardCheck (p n : Nat) (env : Env)
  /-- The statistics merger applies one report to the issuing partition's statistics entry, opening, adding or discarding. (R123) -/
  | statsReport (n : Nat) (env : Env)
  /-- A write of STA_CLOSE_STEP starts a close sweep over the statistics table. (R124) -/
  | staCloseStep (fn value : Nat)
  /-- The close sweep ends and STA_CLOSE_BUSY clears. (R124) -/
  | staCloseSweepEnd (fn : Nat) (env : Env)
  /-- Writing STA_LEDGER_CHECK starts validation of every ledger entry. (R131) -/
  | staLedgerCheck (fn value : Nat)
  /-- Writing STA_LEDGER_INIT starts making every ledger entry cold. (R131) -/
  | staLedgerInit (fn value : Nat)
  /-- A ledger check or initialisation ends, writes STA_LEDGER_COLD and clears STA_LEDGER_BUSY. (R131) -/
  | ledgerCommandDone (fn : Nat) (env : Env)
  /-- The merger applies a sample outcome to the monitor table entry. (R140) -/
  | tamOutcome (env : Env)
  /-- POOL_CORE_RUN going from 0 to 1 invalidates the caches and starts the core at POOL_CORE_PC_VA. (R149) -/
  | poolCoreRun (p : Nat)
  /-- POOL_CORE_RUN going from 1 to 0 stops the core at the next instruction boundary. (R149) -/
  | poolCoreStop (p : Nat)
  /-- After the data cache has been written back, POOL_CORE_HALTED is set. (R149) -/
  | poolCoreStopDone (p : Nat) (env : Env)
  /-- The pool core executes one RV64GC instruction. (R144) -/
  | poolCoreInstruction (p : Nat) (env : Env)
  /-- mtime reaching mtimecmp makes the machine timer interrupt pending. (R146) -/
  | mtimeCompare (p : Nat)
  /-- A write to POOL_WO_POP takes the head work order out of the inbox. (R153) -/
  | poolWoPop (p : Nat)
  /-- A write to POOL_WO_DONE completes the oldest popped work order with a status. (R153) -/
  | poolWoDone (p status : Nat) (env : Env)
  /-- A read of POOL_TQ_CPL_INFO that covers its status bytes removes the oldest completion. (R506) -/
  | poolTqCplInfoRead (p : Nat)
  /-- Writing PTE_LOAD starts reading a Parterre image in order to bring it into force. (R159) -/
  | pteLoad
  /-- Writing PTE_CHECK_ONLY starts reading a Parterre image in order to check it only. (R159) -/
  | pteCheckOnly (load : Bool)
  /-- The image has been read, and the controller applies its checks in order and accepts or rejects it. (R159) -/
  | parterreImageCheck (env : Env)
  /-- A 64-byte access arrives at a channel controller after translation and routing. (R171) -/
  | memAccess (a : Acc) (env : Env)
  /-- In each grant slot the channel controller grants the ready partition with the smallest tag. (R181) -/
  | memGrantSlot (ch : Nat) (env : Env)
  /-- The patrol scrubber reads a codeword of the channel on its schedule. (R178) -/
  | patrolRead (ch : Nat) (env : Env)
  /-- The refresh interval expires and per-bank refresh is issued. (R179) -/
  | refresh (ch : Nat)
  /-- Every 16 ms each controller reads its packages' temperature. (R179) -/
  | memTempRead (ch celsius : Nat)
  /-- Every 100 ms periodic write-timing compensation runs from the package's oscillator. (R166) -/
  | writeTimingCompensation (ch : Nat)
  /-- After 2 µs without an access the channel enters power-down. (R166) -/
  | powerDownEntry (ch : Nat)
  /-- A PCIe completion for a host-bus-leaf read arrives and gives the access its response. (R177) -/
  | hostBusCompletion (id : Nat) (ok : Bool) (data : List Byte)
  /-- Writing MEM_TLB_GO starts a translation invalidation of the selected scope. (R174) -/
  | memTlbGo (value : Nat)
  /-- No cache holds a covered translation and every access that used one has its response, so MEM_TLB_BUSY clears. (R174) -/
  | tlbInvalidationDone
  /-- The Update Engine moves a bucket from WAIT_GATE to UPDATING once its release conditions hold, checks the epoch and starts the pass. (R191) -/
  | updateStart (tier : Nat) (env : Env)
  /-- The bucket's pass ends with every write response, and the bucket completes with a status and is handed to the Cascade for the gather. (R193) -/
  | updateDone (part g tag : Nat) (env : Env)
  /-- Writing UPD_MIR_ENABLE arms mirror streaming, or clears it and abandons any copy. (R194) -/
  | updMirEnable (fn value : Nat)
  /-- Writing CAS_GRP_ARM starts reading the group and bucket descriptors. (R209) -/
  | casGrpArm (vf g : Nat)
  /-- The descriptors have been read and are checked, and the group is armed or rejected. (R209) -/
  | casGrpArmResult (vf g : Nat) (env : Env)
  /-- Writing CAS_GRP_REMAP re-reads a rank entry and resends, replays or cancels work involving that rank. (R230) -/
  | casGrpRemap (vf g value : Nat) (env : Env)
  /-- Writing CAS_GRP_ABORT makes the group idle, discarding buckets and completing posts ABORTED. (R231) -/
  | casGrpAbort (vf g : Nat) (env : Env)
  /-- The owner receives a contribution fragment and folds it, holds it, defers it or discards it. (R216) -/
  | contrib (env : Env)
  /-- A contribution that comes into turn is folded from its hold slot or from the owner's own gradient. (R216) -/
  | holdSlotFold (part g tag : Nat) (env : Env)
  /-- A rank receiving DEFER stops sending that contribution. (R217) -/
  | defer (env : Env)
  /-- A rank receiving CALL resends its whole contribution from fragment 0. (R217) -/
  | call (env : Env)
  /-- A rank receiving REPLAY resends its whole contribution from fragment 0. (R223) -/
  | replay (env : Env)
  /-- A rank receives gather fragments, writes them and, when done, writes the shard record, acknowledges and completes its post. (R219) -/
  | gather (env : Env)
  /-- The owner counts a GATHER_ACK and retires the epoch when every rank has acknowledged. (R219) -/
  | gatherAck (env : Env)
  /-- The owner serves or holds a backward re-gather request and adds to the gate debt. (R227) -/
  | regatherReq (env : Env)
  /-- The requester writes re-gathered data and its shard record, then sends REGATHER_ACK. (R227) -/
  | regatherData (env : Env)
  /-- A REGATHER_ACK repays one unit of gate debt. (R227) -/
  | regatherAck (env : Env)
  /-- A bucket in COLLECT beyond CAS_GD_LATE_US raises LATE_RANK. (R229) -/
  | lateRankTimeout (part g tag : Nat)
  /-- The ALLOC flow command allocates an aligned run of contexts or fails with NO_CONTEXT. (R238) -/
  | alloc (vf run : Nat)
  /-- The CONNECT command opens an allocated context from its set-up record. (R239) -/
  | connect (vf : Nat) (env : Env)
  /-- The CLOSE command aborts a context's operations, retires its tracker entries and frees it. (R240) -/
  | close (vf : Nat) (env : Env)
  /-- The QUERY command writes the context's 256-byte snapshot to memory. (R241) -/
  | query (vf : Nat) (env : Env)
  /-- The REGISTER command takes a free region slot and returns a new key. (R248) -/
  | register (vf perm : Nat)
  /-- The REVOKE command moves a region to REVOKING and refuses further arrivals under its key. (R249) -/
  | revoke (vf : Nat)
  /-- The region QUERY command returns the state of the key's slot in AQD_RGN_STATE. (R263) -/
  | regionQuery (vf : Nat)
  /-- RGE_INFLIGHT reaching 0 moves a region to QUARANTINE and completes REVOKE. (R249) -/
  | regionQuarantine (slot : Nat)
  /-- When older tracker entries have retired, a quarantined slot increments its generation and joins the free list. (R249) -/
  | regionFree (slot : Nat)
  /-- AQD_RGN_EN going from 0 to 1 starts initialising the region table. (R247) -/
  | aqdRgnEn (value : Nat)
  /-- Region-table initialisation ends and AQD_RGN_INIT_BUSY clears. (R247) -/
  | regionTableInitDone
  /-- A received WRITE packet is placed, refused with NAK or discarded as a duplicate. (R250) -/
  | writePacket (env : Env)
  /-- A received READ_REQ is served by reading the region, or refused. (R250) -/
  | readReq (env : Env)
  /-- The responder's memory read returns, and it sends READ_RESP or READ_RESP with ERR. (R256) -/
  | responderReadData (ctx : Nat) (env : Env)
  /-- The requester places READ_RESP data, or completes the read with the carried error status. (R256) -/
  | readResp (env : Env)
  /-- An ACK retires tracker entries, completes operations and may trigger a fast retransmission. (R254) -/
  | ack (env : Env)
  /-- An acted-on NAK completes the operation with its status and sends NOPs in place of its PSNs. (R256) -/
  | nak (env : Env)
  /-- A received NOP settles its PSN without touching memory. (R237) -/
  | nop (env : Env)
  /-- A received CASCADE packet is handed to the partition's Cascade. (R250) -/
  | cascadePacket (env : Env)
  /-- A received PROBE is answered with a PROBE_REPLY carrying t2 and t3. (R259) -/
  | probe
  /-- A received PROBE_REPLY gives a delay sample that adjusts the flow's rate. (R260) -/
  | probeReply
  /-- A placed packet's memory responses return and it is settled, releasing any held flagged write. (R246) -/
  | packetSettled (ctx psn : Nat) (env : Env)
  /-- 2 µs after the oldest unacknowledged settlement, an ACK is sent. (R253) -/
  | ackTimer (ctx : Nat)
  /-- The retransmission timer expires, and the flow retransmits, backs off and halves its rate, or fails. (R255) -/
  | retxTimeout (ctx : Nat) (env : Env)
  /-- Every AQD_CC_PROBE_NS a flow with PSNs outstanding sends a PROBE. (R259) -/
  | probeTimer (ctx : Nat)
  /-- A received frame is filtered and dispatched to pause, LLDP, the Clepsydra or Aqueduct, or discarded. (R271) -/
  | frameReceive (lp : Nat) (f : Frame) (quarter : Nat)
  /-- A received PAUSE or PFC frame sets, replaces or releases the transmit hold. (R273) -/
  | pauseFrame
  /-- The quanta of a received pause elapse and transmission resumes. (R273) -/
  | pauseHoldExpire (lp prio : Nat)
  /-- Half the quanta elapse and the device's XOFF is repeated, or XON is sent once occupancy is low. (R274) -/
  | xoffRepeat (lp prio : Nat)
  /-- A hold lasting MAC_PAUSE_WD is broken and a holdoff begins. (R275) -/
  | pauseWatchdog (lp prio : Nat) (own : Bool)
  /-- The holdoff ends and pause is honoured or sent again. (R275) -/
  | pauseHoldoffEnd (lp prio : Nat) (own : Bool)
  /-- The LLDP agent sends an LLDPDU every 30 s, or after the link comes up. (R276) -/
  | lldpTransmit (lp : Nat)
  /-- A received LLDPDU's EEE TLV resolves the wake times. (R277) -/
  | lldpReceive
  /-- After MAC_LPI_IDLE of idle, the port enters transmit LPI. (R278) -/
  | lpiEntry (lp : Nat)
  /-- A logical port's link comes up and the port-state event is raised. (R269) -/
  | linkUp (lp : Nat)
  /-- A logical port's link goes down, the port-state event is raised and MAC_E_LINK is set. (R269) -/
  | linkDown (lp : Nat)
  /-- A write to MAC_PORT_CFG is applied or refused with MAC_E_CFG. (R268) -/
  | macPortCfgWrite (n value : Nat)
  /-- A filter write with the wrong group bit is refused with MAC_E_CFG. (R270) -/
  | macFilterWrite (lp e value : Nat)
  /-- An accepted PTP Sync gives an offset sample to the discipline loop. (R286) -/
  | sync
  /-- A Follow_Up supplies the precise origin time for a two-step Sync. (R285) -/
  | followUp
  /-- A Delay_Resp completes a path-delay exchange. (R286) -/
  | delayResp
  /-- The first accepted Announce selects the source port identity. (R285) -/
  | announce
  /-- Every 2^−CLP_DREQ_LOG2 s a Delay_Req is sent. (R285) -/
  | delayReqTimer
  /-- A rising edge of CLK_PPS_IN gives an offset sample. (R287) -/
  | ppsEdge (quarter : Nat)
  /-- No Sync or edge within the loss time moves the Clepsydra to HOLDOVER. (R290) -/
  | sourceLoss
  /-- No CLK_10M_IN edge for 1 µs falls back to the oscillator and loses source 3. (R290) -/
  | clk10mLoss
  /-- Writing CLP_SRC selects a time source and moves the state to FREE_RUN or ACQUIRE. (R289) -/
  | clpSrcWrite (value : Nat)
  /-- A write of CLP_SET steps cluster time, or holds a low word. (R291) -/
  | clpSet (off size value : Nat)
  /-- A read of CLP_TIME latches the fraction into that function's CLP_TIME_FRAC. (R284) -/
  | clpTimeRead (fn : Nat)
  /-- At each integer second CLK_PPS_OUT rises for 100 µs. (R292) -/
  | ppsOutPulse
  /-- Writing CLP_BAR_ARM arms a barrier, taking two entries, or refuses it. (R298) -/
  | clpBarArm (vf b value : Nat)
  /-- Writing CLP_BAR_CANCEL releases an armed barrier at once. (R300) -/
  | clpBarCancel (vf b value : Nat)
  /-- Writing CLP_SNAP_ARM arms a snapshot, freeze or thaw at CLP_SNAP_TIME. (R301) -/
  | clpSnapArm (value : Nat)
  /-- A not-before entry fires and the held work order is delivered. (R295) -/
  | notBeforeRelease (k : Nat) (env : Env)
  /-- A barrier's release entry fires and the ramp is scheduled. (R298) -/
  | barrierRelease (vf b : Nat)
  /-- At A + 40 × g the held cells of ramp group g may start. (R299) -/
  | rampGroupStart (vf b g : Nat)
  /-- At A plus the ramp period the barrier becomes idle and returns its entries. (R299) -/
  | rampEnd (vf b : Nat)
  /-- A slotted group's entry fires, opening slot q and advancing to q + 1. (R296) -/
  | cascadeSlotOpen (k : Nat) (env : Env)
  /-- A snapshot copies every counter to its shadow. (R474) -/
  | counterSnapshot
  /-- A freeze stops every counter. (R474) -/
  | counterFreeze
  /-- A thaw restarts every counter. (R474) -/
  | counterThaw
  /-- A snoop takes the doorbell line, and the device answers it and re-issues RdShared. (R317) -/
  | doorbellSnoop (fn : Nat) (snoop : LineSnoop)
  /-- The doorbell line's data returns and the ring acts on its tail and head. (R317) -/
  | doorbellLineRead (fn ring : Nat) (low high : List Byte) (ok : Bool)
  /-- A write to QUE_DB acts as the doorbell of an MMIO-mode ring. (R318) -/
  | queDb (fn ring value : Nat)
  /-- A write to QUE_EQ_DB gives the event queue's head. (R318) -/
  | queEqDb (fn value : Nat)
  /-- A descriptor read returns and is found visible or not. (R310) -/
  | descriptorReadData (fn ring idx : Nat) (bytes : List Byte) (ok : Bool)
  /-- The descriptor at the dispatch index is dispatched, or completed without dispatch, once nothing holds it. (R311) -/
  | descriptorDispatch (fn ring : Nat) (env : Env)
  /-- A re-read of a descriptor that was not visible is issued; after eight failures the ring goes STALE. (R320) -/
  | descriptorReread (fn ring : Nat)
  /-- Setting QUE_RING_EN enables a ring, or fails and sets QUE_E_RING. (R319) -/
  | queRingEnable (fn ring value : Nat) (env : Env)
  /-- Clearing QUE_RING_EN stops fetching and completes read descriptors ABORTED. (R319) -/
  | queRingDisable (fn ring value : Nat) (env : Env)
  /-- The vector's QUE_MOD_USEC expires and its message is sent. (R329) -/
  | msixModerationTimer (fn vec : Nat)
  /-- Unmasking a vector with its pending bit set sends its message. (R328) -/
  | msixUnmask (fn vec : Nat)
  /-- A peer write to BAR2 is checked against QUE_P2P and written through the partition's tables, or discarded. (R331) -/
  | p2pWrite (vf off rid : Nat) (bytes : List Byte) (env : Env)
  /-- A read of BAR2 completes as an Unsupported Request. (R331) -/
  | p2pRead (vf off : Nat) (tee : Bool)
  /-- Writing DMA_GO to an idle channel starts a transfer, or completes it MALFORMED. (R336) -/
  | dmaGo (p ch : Nat) (env : Env)
  /-- Writing DMA_ABORT to a busy channel stops issuing after the current burst. (R344) -/
  | dmaAbort (p ch : Nat) (env : Env)
  /-- The slice serves a channel one burst of reads and writes, or a load tile. (R338) -/
  | dmaBurst (p ch : Nat) (env : Env)
  /-- A transfer's responses have all returned, and it writes its status record, sets DMA_LAST_STATUS and signals. (R342) -/
  | dmaComplete (p ch : Nat) (env : Env)
  /-- The HMP channel accepts a JESD209-6 command such as activate, refresh or a mode-register access. (R348) -/
  | hmpLpddrCommand (c : Nat) (k : HmpCmd)
  /-- A host write lands in the window and marks its unit dirty, or is discarded. (R356) -/
  | hmpHostWrite (c sub bank col : Nat) (bytes : List Byte) (mask : List Bool)
  /-- A host read returns window bytes or the 0xA5 pattern at the programmed latency. (R361) -/
  | hmpHostRead (c sub bank col : Nat) (env : Env)
  /-- A read of HMP_WIN_FENCE reports the drain of covered units and raises their priority. (R358) -/
  | hmpWinFence (c : Nat)
  /-- A write to HMP_WIN_FILL starts a fill pass or sets HMP_FILL_PENDING. (R359) -/
  | hmpWinFill (c : Nat)
  /-- The device reads a dirty unit and writes it to device memory. (R356) -/
  | hmpDrain (c unit : Nat) (env : Env)
  /-- A drain write's response returns; a failure drops the unit and raises the window-error event. (R357) -/
  | hmpDrainDone (c unit : Nat)
  /-- A page's fill reads return; its fill bit is set, or the window-error event is raised, and the pass moves on or completes. (R359) -/
  | hmpFillPage (c : Nat) (env : Env)
  /-- A write to HMP_MAP drains the page under its old entry and applies the new one, or is refused. (R354) -/
  | hmpMapWrite (c pg value : Nat) (env : Env)
  /-- Setting HMP_EN presents the channel afresh, or is refused while draining. (R364) -/
  | hmpEnable (c value : Nat)
  /-- Clearing HMP_EN takes the channel off the interface and drains what remains. (R364) -/
  | hmpDisable (c value : Nat)
  /-- Writing PRT_RST_GO triggers a partition reset of PRT_RST_PART. (R373) -/
  | prtRstGo (value : Nat) (env : Env)
  /-- A Function Level Reset of a VF triggers a partition reset. (R373) -/
  | vfFlr (v : Nat) (env : Env)
  /-- Clearing VF Enable triggers partition resets of every partition with a VF. (R373) -/
  | vfEnableClear (env : Env)
  /-- A write of NumVFs is stored, clamped or ignored. (R368) -/
  | numvfsWrite (value : Nat)
  /-- A partition reset moves to its next step once the previous one has ended. (R375) -/
  | partitionResetStep (n : Nat) (env : Env)
  /-- At each 100 µs window the device reads its sensors and sets admission, operating point and thermal limit. (R433) -/
  | controlWindow (w : WindowIn) (env : Env)
  /-- PWR_BRAKE_N falling clamps A to PWR_BRAKE_A and adds PWR_BRAKE_W to the limit. (R434) -/
  | pwrBrakeFall
  /-- PWR_BRAKE_N rising removes PWR_BRAKE_W from the limit. (R434) -/
  | pwrBrakeRise
  /-- AIRFLOW_FAIL_N held low for 1 µs stops the tiers, puts memory in self-refresh and removes the compute rails. (R442) -/
  | airflowLoss (env : Env)
  /-- AIRFLOW_FAIL_N rising lets a waiting module or warm reset run. (R443) -/
  | airflowRestore (env : Env)
  /-- A slice failing its check lane is discarded and a replay is requested. (R450) -/
  | sliceCheckFail (l d g : Nat)
  /-- Reaching LNK_REPLAY_LIMIT replays in 1 ms takes the group out of rotation for a lane check. (R451) -/
  | laneCheckStart (l d g : Nat)
  /-- The lane check ends, and spares are assigned or the group is retired. (R452) -/
  | laneCheckEnd (l d g : Nat) (lanes : List Nat)
  /-- A group's forwarded clock losing lock retires the group at once. (R451) -/
  | forwardedClockLoss (l d g : Nat)
  /-- The SPDM responder answers GET_VERSION. (R394) -/
  | getVersion (t : Nat)
  /-- The SPDM responder answers GET_CAPABILITIES. (R394) -/
  | getCapabilities (t : Nat)
  /-- The SPDM responder answers NEGOTIATE_ALGORITHMS. (R394) -/
  | negotiateAlgorithms (t : Nat)
  /-- The SPDM responder returns its certificate-chain digests. (R394) -/
  | getDigests (t : Nat)
  /-- The SPDM responder returns the slot 0 certificate chain. (R392) -/
  | getCertificate (t slot off len : Nat)
  /-- The SPDM responder answers a CHALLENGE signed with the Alias key. (R394) -/
  | challenge (t slot : Nat) (nonce : List Byte)
  /-- The SPDM responder returns its measurement blocks. (R393) -/
  | getMeasurements (t op : Nat) (nonce : List Byte)
  /-- The SPDM responder opens a session, or refuses one beyond eight. (R394) -/
  | keyExchange (t slot : Nat) (nonce : List Byte)
  /-- The SPDM responder completes session establishment. (R394) -/
  | finish (t id : Nat)
  /-- The SPDM responder answers a session HEARTBEAT. (R394) -/
  | heartbeat (t id : Nat)
  /-- The SPDM responder updates session keys. (R394) -/
  | keyUpdate (t id op : Nat)
  /-- The SPDM responder ends a session. (R394) -/
  | endSession (t id : Nat)
  /-- The SPDM responder accepts one chunk of a large request. (R394) -/
  | chunkSend (t seq : Nat) (bytes : List Byte)
  /-- The SPDM responder returns one chunk of a large response. (R394) -/
  | chunkGet (t seq : Nat)
  /-- The SPDM responder handles a vendor-defined request carrying IDE_KM. (R394) -/
  | vendorDefinedRequest (t id : Nat) (km : IdeKm)
  /-- The device answers GET_TDISP_VERSION. (R395) -/
  | getTdispVersion (part : Nat)
  /-- The device answers GET_TDISP_CAPABILITIES. (R395) -/
  | getTdispCapabilities (part : Nat)
  /-- LOCK_INTERFACE_REQUEST is refused, or it runs the lock sequence and locks the TDI. (R398) -/
  | lockInterfaceRequest (part stream : Nat) (env : Env)
  /-- The device returns the TDI's interface report. (R399) -/
  | getDeviceInterfaceReport (part : Nat)
  /-- The device returns the TDI's state. (R396) -/
  | getDeviceInterfaceState (part : Nat)
  /-- START_INTERFACE_REQUEST moves a locked TDI to RUN. (R396) -/
  | startInterfaceRequest (part : Nat)
  /-- STOP_INTERFACE_REQUEST runs a partition reset and unlocks the TDI. (R396) -/
  | stopInterfaceRequest (part : Nat) (env : Env)
  /-- An IDE integrity failure makes the stream insecure and puts bound TDIs in ERROR. (R395) -/
  | ideIntegrityFailure (stream : Nat) (env : Env)
  /-- A write of SEC_SVN_BURN blows security-version fuses up to the target. (R391) -/
  | secSvnBurn (value : Nat)
  /-- A key-release blob is opened and installed in a key slot, or fails AUTH. (R407) -/
  | keyInstall (part : Nat) (env : Env)
  /-- Encrypted weight segments are decrypted into the partition's memory. (R408) -/
  | ingest (part : Nat) (env : Env)
  /-- A security operation ends and SEC_OP_STATUS is written. (R409) -/
  | secOpComplete (part : Nat)
  /-- The Weir OPEN command writes an OPEN record and starts a session. (R420) -/
  | weirOpen (w : WeirIn)
  /-- The Weir CLOSE command writes a CLOSE record ending the session. (R420) -/
  | weirClose (w : WeirIn)
  /-- The Weir READ command loads a record into WEIR_RECORD. (R422) -/
  | weirRead (w : WeirIn)
  /-- The Weir ACK command frees records up to a sequence number. (R422) -/
  | weirAck (w : WeirIn)
  /-- The Weir READ_KEY command loads the public key into WEIR_RECORD. (R419) -/
  | readKey (w : WeirIn)
  /-- The Weir FW_LOAD command verifies and accepts a firmware image under the seal. (R416) -/
  | fwLoad (w : WeirIn) (env : Env)
  /-- The Weir CAL_LOAD command verifies and accepts a calibration block under the seal. (R416) -/
  | calLoad (w : WeirIn) (env : Env)
  /-- Each WEIR_INTERVAL_MIN of Weir time an INTERVAL record is created for an open session. (R420) -/
  | intervalRecord (part : Nat) (w : WeirIn)
  /-- Every 1 ms the Weir retries a deferred commit, oldest first. (R423) -/
  | commitRetry (w : WeirIn)
  /-- A commit finishes its write and readback, or enters the fault state. (R424) -/
  | commitDone (ok : Bool) (w : WeirIn)
  /-- The Weir receives the owner of every pool and timestamps it for occupancy. (R413) -/
  | ownerMessage (w : WeirIn)
  /-- The Weir link goes down and every pool counts as unassigned. (R413) -/
  | weirLinkDown (w : WeirIn)
  /-- The Weir link comes up and the owners are resent. (R413) -/
  | weirLinkUp (w : WeirIn)
  /-- The standby rail below 10.8 V makes the Weir commit POWER_LOSS and halt. (R425) -/
  | standbyLoss (w : WeirIn)
  /-- The Weir restores its totals and creates a POWER_UP record. (R425) -/
  | weirPowerUp (w : WeirIn)
  /-- Writing PMC_SNAP_NOW takes a snapshot at once. (R474) -/
  | pmcSnapNow
  /-- Writing PMC_FREEZE_NOW freezes the counters at once. (R474) -/
  | pmcFreezeNow
  /-- Writing PMC_THAW_NOW thaws the counters at once. (R474) -/
  | pmcThawNow
  /-- Writing PMC_CLEAR zeroes every counter and shadow. (R473) -/
  | pmcClear
  /-- Setting PMC_TAG_EN restarts the tag counts and starts tagging. (R478) -/
  | pmcTagEn (value : Nat)
  /-- The standby rail comes good and starts the Weir and the management endpoint. (R482) -/
  | standbyPowerUp
  /-- The 54 V input comes within limits and starts cold bring-up. (R482) -/
  | p54vGood
  /-- Bring-up moves to its next stage when the previous stage ends, or stops in a failure state. (R482) -/
  | bringupStageAdvance (b : BootIn) (env : Env)
  /-- MOD_RESET_N held low for 1 ms starts a cold reset. (R486) -/
  | modResetN (env : Env)
  /-- PERST_N held low for 100 µs starts a warm reset. (R486) -/
  | perstN (env : Env)
  /-- Writing TOP_RST_COLD starts a cold reset. (R486) -/
  | topRstCold (value : Nat) (env : Env)
  /-- Writing TOP_RST_WARM starts a warm reset through QUIESCE. (R488) -/
  | topRstWarm (value : Nat) (env : Env)
  /-- Writing TOP_RST_MODULE starts a module reset through QUIESCE. (R488) -/
  | topRstModule (value : Nat) (env : Env)
  /-- A Function Level Reset of the physical function starts a module reset. (R486) -/
  | pfFlr (env : Env)
  /-- A PCIe hot reset or link loss clears VF Enable and disables the physical function's rings. (R490) -/
  | linkReset (env : Env)
  /-- QUIESCE ends and a warm or module reset continues its bring-up. (R488) -/
  | quiesceEnd
  /-- P54V below 44 V for 50 µs removes every rail except standby. (R495) -/
  | p54vLoss
  /-- A configuration request is answered, or receives Request Retry Status before firmware runs. (R484) -/
  | configRequest (fn : Nat) (req : CfgReq) (env : Env)
  /-- The management endpoint answers an MCTP control message, including endpoint ID assignment. (R500) -/
  | mctpControlMessage (req : MctpReq)
  /-- The PLDM endpoint answers GetTID. (R501) -/
  | getTid
  /-- The PLDM endpoint accepts SetTID. (R501) -/
  | setTid (tid : Nat)
  /-- The PLDM endpoint answers GetPLDMVersion. (R501) -/
  | getPldmVersion (type : Nat)
  /-- The PLDM endpoint answers GetPLDMTypes. (R501) -/
  | getPldmTypes
  /-- The PLDM endpoint answers GetPLDMCommands. (R501) -/
  | getPldmCommands (type : Nat)
  /-- The PLDM endpoint answers GetPDRRepositoryInfo. (R501) -/
  | getPdrRepositoryInfo
  /-- The PLDM endpoint returns a PDR. (R501) -/
  | getPdr (record : Nat)
  /-- The PLDM endpoint returns a numeric sensor reading. (R501) -/
  | getSensorReading (sensor : Nat)
  /-- The PLDM endpoint returns state sensor readings. (R501) -/
  | getStateSensorReadings
  /-- The PLDM endpoint records the event receiver. (R501) -/
  | setEventReceiver (receiver : Option Nat)
  /-- A character on UART_RX reaches the firmware console when SEC_DEBUG is 1. (R501) -/
  | uartRx (c : Nat)
  /-- A read that the device sent over PCIe times out, and its access is answered UE with no data. (R177) -/
  | pcieCompletionTimeout (id : Nat)
  /-- A logical port's transmit shaper grants the next ready frame, paced to its flow's rate, and the frame leaves with any egress timestamp capture. (R261) -/
  | frameTransmit (lp quarter : Nat) (env : Env)
  /-- A frame leaves a port's receive buffer for its consumer, and occupancy falling below 64 KiB sends XON. (R274) -/
  | rxBufferDrain (lp : Nat)
  /-- The link partner's LLDP TTL lapses without a new LLDPDU, and the port may no longer enter LPI. (R277) -/
  | lldpTtlExpiry (lp : Nat)
  /-- 100 µs after a CLK_PPS_OUT pulse rose, the pin falls. (R292) -/
  | ppsOutPulseEnd
  /-- Edges of CLK_10M_IN return under source 3, and the time clock locks to them again. (R284) -/
  | clk10mReturn
  /-- PERST_N rises, and the PCIe link begins training within 20 ms of the later of that rise and the plinth leaving reset. (R484) -/
  | perstNRise
  /-- PCIe link training completes, the data link comes up, and QUE_CXL_CACHE reports whether CXL.cache was negotiated. (R306) -/
  | pcieLinkUp (cxl : Bool)
  deriving DecidableEq, Repr

end Sys2Proof
end

