-- ==== Sys2Proof/Decode.lean ====
section
/-! DEFINITION. The command that a word spells by the bits of spec/opcode_table.json. The table gives no row any bits: a
command reaches the block as a register access, a message, a pin edge or an event, and no word spells one. -/

namespace Sys2Proof

/-- The command that the low `nbits` of `w` spell: none, since no row of the table has bits. -/
def decodeTableWord (_nbits _w : Nat) : Option Instr := none

end Sys2Proof
end

