-- ==== Sys2Proof/Machine/Bits.lean ====
section
/-! DEFINITION. Bit fields, byte orders, sign extension, saturation, the check codes and the hash
functions that several chapters share. -/

namespace Sys2Proof.Machine

/-- Bits `[hi:lo]` of `w`. -/
def bits (w hi lo : Nat) : Nat := (w >>> lo) % 2 ^ (hi + 1 - lo)

/-- Bit `i` of `w`. -/
def bit (w i : Nat) : Bool := (w >>> i) % 2 = 1

/-- `w` with bits `[hi:lo]` replaced by `v`. -/
def setBits (w hi lo v : Nat) : Nat :=
  w - ((bits w hi lo) <<< lo) + ((v % 2 ^ (hi + 1 - lo)) <<< lo)

/-- One bit as a number. -/
def b2n (b : Bool) : Nat := if b then 1 else 0

/-- A field value placed at bit `lo`. -/
def at_ (lo v : Nat) : Nat := v <<< lo

/-- A little-endian byte string as a number (R7). -/
def leNat : List Byte → Nat
  | [] => 0
  | b :: bs => b.toNat + 256 * leNat bs

/-- The `n` low bytes of `v`, little-endian (R7). -/
def toLe : Nat → Nat → List Byte
  | 0, _ => []
  | n + 1, v => BitVec.ofNat 8 (v % 256) :: toLe n (v / 256)

/-- A big-endian byte string as a number (R7, wire fields). -/
def beNat (bs : List Byte) : Nat := leNat bs.reverse

/-- The `n` low bytes of `v`, big-endian (R7, wire fields). -/
def toBe (n v : Nat) : List Byte := (toLe n v).reverse

/-- `n` bytes of `bs` from offset `o`, absent bytes read as zero. -/
def slice (bs : List Byte) (o : Nat) : Nat → List Byte
  | 0 => []
  | n + 1 => bs.getD o 0 :: slice bs (o + 1) n

/-- A little-endian field of `n` bytes at offset `o`. -/
def leAt (bs : List Byte) (o n : Nat) : Nat := leNat (slice bs o n)

/-- A big-endian field of `n` bytes at offset `o`. -/
def beAt (bs : List Byte) (o n : Nat) : Nat := beNat (slice bs o n)

/-- Every byte of `[o, o + n)` is zero. -/
def zeroAt (bs : List Byte) (o n : Nat) : Bool := leAt bs o n = 0

/-- `a, a + 1, …`, `n` of them. -/
def upFrom (a : Nat) : Nat → List Nat
  | 0 => []
  | n + 1 => a :: upFrom (a + 1) n

/-- `n` zero bytes. -/
def zeros (n : Nat) : List Byte := List.replicate n 0

/-- Exactly `n` bytes: cut or filled with zeros. -/
def fit (n : Nat) (bs : List Byte) : List Byte := slice bs 0 n

/-- A count that stops at `max`. -/
def satTo (max v : Nat) : Nat := if max < v then max else v

/-- The value of an `n`-bit two's-complement field. -/
def signed (n v : Nat) : Int :=
  let w := v % 2 ^ n
  if 2 * w < 2 ^ n then (w : Int) else (w : Int) - (2 ^ n : Nat)

/-- An integer as an `n`-bit two's-complement field. -/
def unsign (n : Nat) (v : Int) : Nat := (v % ((2 ^ n : Nat) : Int)).toNat

/-- `a - b` on 16-bit free-running counts (R307). -/
def diff16 (a b : Nat) : Nat := (a + 65536 - b % 65536) % 65536

/-- Index `a` lies beyond index `b`: their 16-bit difference is positive (R307). -/
def beyond16 (a b : Nat) : Bool := 0 < signed 16 (diff16 a b)

/-- Ceiling division. -/
def cdiv (a b : Nat) : Nat := (a + b - 1) / b

/-- One bit of a reflected CRC with polynomial `poly`. -/
def crcBit (poly c : Nat) : Nat := if c % 2 = 1 then (c / 2) ^^^ poly else c / 2

/-- One byte of a reflected CRC. -/
def crcByte (poly c : Nat) (b : Byte) : Nat :=
  let x := c ^^^ b.toNat
  crcBit poly (crcBit poly (crcBit poly (crcBit poly
    (crcBit poly (crcBit poly (crcBit poly (crcBit poly x)))))))

/-- CRC-32 as R83 states it: reflected 0x04C1_1DB7, initial and final complement. -/
def crc32 (bs : List Byte) : Nat :=
  (bs.foldl (crcByte 0xEDB88320) 0xFFFFFFFF) ^^^ 0xFFFFFFFF

/-- CRC-64 of R107: ECMA-182 polynomial 0x42F0_E1EB_A9EA_3693 reflected, initial all ones and a final
complement. -/
def crc64 (bs : List Byte) : Nat :=
  (bs.foldl (crcByte 0xC96C5795D7870F42) 0xFFFFFFFFFFFFFFFF) ^^^ 0xFFFFFFFFFFFFFFFF

/-- `2 ^ 64`. -/
def two64 : Nat := 0x10000000000000000

end Sys2Proof.Machine
end

