-- ==== Sys2Proof/Machine/Codeword.lean ====
section
/-! DEFINITION. The Reed–Solomon code of a codeword half: its field, its check bytes, and what the decoder makes of a pattern of
wrong symbols (R175). -/

namespace Sys2Proof.Machine

/-- Product in GF(2^8) generated by x^8 + x^4 + x^3 + x^2 + 1 (R175). -/
def gfMul (a b : Nat) : Nat :=
  ((upFrom 0 8).foldl (fun (p : Nat × Nat) i =>
    ((if bit b i then p.1 ^^^ p.2 else p.1), (if bit p.2 7 then (2 * p.2) % 256 ^^^ 0x1D else 2 * p.2))) (0, a)).1

/-- α^n. -/
def gfPow : Nat → Nat
  | 0 => 1
  | n + 1 => gfMul (gfPow n) 2

/-- The generator polynomial (x − 1)(x − α)(x − α²)(x − α³) without its leading term, highest coefficient first. -/
def rsGen : List Nat :=
  ([1, 2, 4, 8] : List Nat).foldl (fun g r =>
    (upFrom 0 (g.length + 1)).map fun i => g.getD i 0 ^^^ gfMul r (if i = 0 then 0 else g.getD (i - 1) 0)) [1]

/-- Check bytes p0 to p3 of 32 data bytes (R175, R350). -/
def checkBytes (d : List Byte) : List Byte :=
  (d.foldl (fun (p : List Nat) x =>
    let f := x.toNat ^^^ p.getD 0 0
    (upFrom 0 4).map fun i => p.getD (i + 1) 0 ^^^ gfMul f (rsGen.getD (i + 1) 0)) [0, 0, 0, 0]).map (BitVec.ofNat 8)

/-- Wrong symbols of a codeword: a symbol, numbered d0 to d31 and then p0 to p3, and what is added to it. -/
abbrev Flaws := List (Nat × Nat)

/-- The syndrome of a pattern at α^i: symbol `n` is the coefficient of x^(35 − n). -/
def syndrome (e : Flaws) (i : Nat) : Nat := e.foldl (fun a x => a ^^^ gfMul x.2 (gfPow (i * (35 - x.1)))) 0

/-- What the decoder makes of a codeword. -/
inductive Decoded where
  /-- a codeword -/
  | valid
  /-- one symbol away from a codeword: the symbol, and what the decoder adds to it -/
  | fixed (sym val : Nat)
  /-- further away: uncorrectable -/
  | bad
  deriving DecidableEq, Repr

/-- The decoder: it corrects what one symbol explains, and reports the rest (R175). -/
def decodeFlaws (e : Flaws) : Decoded :=
  let v := syndrome e 0
  if (upFrom 0 4).all fun i => syndrome e i = 0 then .valid
  else match (upFrom 0 36).find? fun n =>
      v ≠ 0 && (upFrom 1 3).all fun i => syndrome e i = gfMul v (gfPow (i * (35 - n))) with
    | some n => .fixed n v
    | none => .bad

/-- What a pattern adds to symbol `n`. -/
def flawAt (e : Flaws) (n : Nat) : Nat := e.foldl (fun a x => if x.1 = n then a ^^^ x.2 else a) 0

/-- Data bytes with a pattern added. -/
def addFlaws (d : List Byte) (e : Flaws) : List Byte :=
  (upFrom 0 32).map fun n => d.getD n 0 ^^^ BitVec.ofNat 8 (flawAt e n)

end Sys2Proof.Machine
end

