-- ==== Sys2Proof/Config.lean ====
section
/-! DEFINITION. What an implementation or a published standard fixes and this spec does not: free values
and uninterpreted functions, all without a body, so that no proof can lean on a value of theirs; and the
quantities of R3 that follow the part. -/

namespace Sys2Proof.Config

/-- A free value: the `n`-th value the spec leaves open, as a number (log entry 3). -/
opaque freeValue : Nat → Nat

/-- A free byte of the `n`-th open value (log entry 3). -/
opaque freeByte : Nat → Nat → Byte

/-- R144: the identity registers of a pool core, by CSR number and pool, which no chapter gives. -/
opaque coreInfo : Nat → Nat → Nat

/-- R144: whether a trap of this cause writes mtval, which the RISC-V standard leaves to the implementation. -/
opaque trapValue : Nat → Bool

/-- R144: the vector length that vset takes for an AVL above VLMAX and below twice it, which the RISC-V standard leaves to
the implementation between half the AVL and VLMAX. -/
opaque vlChoice : Nat → Nat → Nat

/-- R165: banks of a channel, which the package's mode registers give. -/
opaque banks : Nat

/-- R180: the activate count at which the package asks for refresh management. -/
opaque rfmThreshold : Nat

/-- R285: the Clepsydra's own portIdentity, which the station's manufacturer assigns. -/
opaque ptpIdentity : Nat

/-- R247: RGE_NEXT of the last entry of the region table's free list, as its initialisation leaves it. -/
opaque lastNext : Nat

/-- R277: the PHY type's minimum wake time, µs. -/
opaque minTw : Nat → Nat

/-- R403: what a half written under one XTS key (0: none) gives an access under another, by the two keys, the
byte key of the half and its bytes. -/
opaque xtsMix : Nat → Nat → Nat → List Byte → List Byte

/-- R403, R175: the bytes that a half encrypted under an XTS key holds once a pattern of wrong symbols of its ciphertext stands,
by the key, the byte key of the half, its bytes and the pattern. -/
opaque xtsGarble : Nat → Nat → List Byte → List (Nat × Nat) → List Byte

/-- R177: whether a requester of this class has a path to PCIe; the spec says it of the DMA engine only. -/
opaque pciePath : Nat → Bool

/-- SHA-384. -/
opaque sha384 : List Byte → List Byte

/-- ECDSA P-384 verification: public key, digest, signature. -/
opaque ecdsaOk : List Byte → List Byte → List Byte → Bool

/-- R392: HMAC-SHA-384 of a message under a key. -/
opaque hmacSha384 : List Byte → List Byte → List Byte

/-- R392: the P-384 private key that DICE derives from a secret, and the public key, x then y, of a private key. -/
opaque deriveP384 : List Byte → List Byte
opaque p384Public : List Byte → List Byte

/-- ECDSA P-384 signing: private key, message. -/
opaque ecdsaSign : List Byte → List Byte → List Byte

/-- R392: what is signed in an X.509 Alias certificate: the Alias public key and, in the TCG DiceTcbInfo extension, the body
digest, IMG_SVN and D. -/
opaque aliasTbs : List Byte → List Byte → Nat → Bool → List Byte

/-- R392: an X.509 certificate, from what is signed and the signature. -/
opaque x509 : List Byte → List Byte → List Byte

/-- R392: the certificates that boot flash keeps since the module was made, for the DeviceID public key: Dunakel root, Dunakel
intermediate, DeviceID. -/
opaque makerCerts : List Byte → List Byte

/-- R393: the boot ROM version, raw. -/
opaque romVersion : List Byte

/-- R416: the Weir's fused root digest. R419: its public key, and a signature under its key. -/
opaque weirRoot : List Byte
opaque weirKey : List Byte
opaque weirSign : List Byte → List Byte

/-- R398: the table digest, from the bytes of the table pages and the virtual address, size and PT_W of the leaves. -/
opaque tableDigest : List (List Byte) → List (Nat × Nat × Bool) → List Byte

/-- R398: the public half of the partition key pair of key `n`, 96 bytes. -/
opaque partPub : Nat → List Byte

/-- R407: what opening a key-release blob under the partition key `n` gives: the model key, or none when the point is not
on the curve or the tag fails. -/
opaque openBlob : Nat → List Byte → Option (List Byte)

/-- R408: AES-256-GCM under a key: nonce, associated data, ciphertext and tag; none when the tag fails. -/
opaque gcmOpen : List Byte → List Byte → List Byte → List Byte → List Byte → Option (List Byte)

/-- R194: address of a mirror slot within the region that its key names, by partition and slot; host software agrees it
with the twin. -/
opaque mirrorBase : Nat → Nat → Nat

/-- The number that an event carries for a response of R177, by its place in that table; the spec gives none. -/
opaque respCode : Nat → Nat

/-- R348: what the temperature and refresh-management mode registers read, whose layouts JESD209-6 gives. -/
opaque nominalRefresh : Nat
opaque noRefreshManagement : Nat

/-- Number of tiers (R3). -/
def tiers : Part → Nat
  | .gx4 => 4
  | .gx2 => 2

/-- Number of basins (R3, R16). -/
def basins (p : Part) : Nat := 4 * tiers p

/-- Number of pools (R3, R16). -/
def pools (p : Part) : Nat := 16 * tiers p

/-- Number of cells (R3, R16). -/
def cells (p : Part) : Nat := 256 * tiers p

/-- Number of partitions, and of virtual functions (R3, R367, R368). -/
def parts (p : Part) : Nat := 16 * tiers p

/-- Number of LPDDR6 channels (R3, R165). -/
def channels (p : Part) : Nat := 32 * tiers p

/-- Ramp groups after a barrier (R3). -/
def rampGroups (p : Part) : Nat := 4 * tiers p

/-- Number of die-to-die links (R21). -/
def links : Part → Nat
  | .gx4 => 8
  | .gx2 => 3

/-- Power envelope in watts (R3). -/
def envelope : Part → Nat
  | .gx4 => 1500
  | .gx2 => 850

/-- Lowest power cap, and the thermal-limit floor, in watts (R3). -/
def capFloor : Part → Nat
  | .gx4 => 400
  | .gx2 => 250

/-- TOP_PART_CODE (R4). -/
def partCode : Part → Nat
  | .gx4 => 0x4734
  | .gx2 => 0x4732

/-- FAR_SIZE of R169: the bytes of the far view. -/
def farSize : Part → Nat
  | .gx4 => 0x18000000000
  | .gx2 => 0xC000000000

end Sys2Proof.Config
end

