-- ==== Sys2Proof/Machine/Regs.lean ====
section
/-! DEFINITION. The register map of the block: every register of the spec by its own name, with its
offset, width, instances, the functions that reach it, and its fields with their type codes and
reset values, as the register tables of spec/00 to spec/23 give them. -/

namespace Sys2Proof.Machine

/-- The type codes of R10. -/
inductive FldTy where
  /-- read-only -/
  | ro
  /-- read-write -/
  | rw
  /-- write one to clear -/
  | w1c
  /-- write one to set -/
  | w1s
  /-- write-only: reads return zero -/
  | wo
  /-- read-only sticky: cleared only through its W1C partner or by cold reset -/
  | roSt
  deriving DecidableEq, Repr

/-- Through which space a register is reached, and how many copies of it there are. -/
inductive RegScope where
  /-- one register, read alike through every function -/
  | all
  /-- every function has its own copy or its own view -/
  | each
  /-- only a virtual function has it, each its own copy; zero in the physical function's space -/
  | vf
  /-- only the physical function reaches it -/
  | pf
  /-- in the register page of each pool (R146) -/
  | pool
  /-- in the block of each DMA channel (R335) -/
  | dma
  /-- once in the DMA page of each pool (R335) -/
  | dmaPage
  deriving DecidableEq, Repr

/-- Every register of the spec. -/
inductive Reg where
  | topPartId | topHier | topFail | topBoot | topErrSum | topRstCtrl | topErrSts | topErrFirst
  | queCap | queCapLink | queErrSts | queErrFirst | queRingSq | queRingCq | queRingDbl
  | queRingCtrl | queRingIdx | queEqBase | queEqDbl | queEqCtrl | queEqIdx | queEqLost | queMod
  | queP2p | queDb | queEqDb | msixAddr | msixData | msixCtrl | msixPba | dmaErrSts | dmaErrFirst
  | prtRstCtrl | prtErrSts | prtErrFirst | prtState | prtStatus | prtAdmit | celSrCtrl | celCaps
  | celErrSts | celErrFirst | celRotFreq | staCtrl | staTableBase | staTableLen | staCloseStep
  | staLedgerCtrl | staLedgerStep | staStatus | staErrSts | staErrFirst | tamCtrl | tamSeed
  | tamTableBase | tamTableLen | tamErrSts | tamErrFirst | pteImageAddr | pteCtrl | pteStatus
  | pteSerialInForce | pteErrSts | pteErrFirst | memTlbInvVa | memTlbInvCtrl | memPatrolCtrl
  | memErrSts | memErrFirst | memPtRoot | memEccCount | updMirCtrl | updMirFlow | updMirKey0
  | updMirKey1 | updMirNext | updMirStatus | updMirBuckets | updErrSts | updErrFirst | casGrpAddr
  | casGrpCtrl | casCisUse | casErrSts | casErrFirst | aqdFlowAddr | aqdFlowCmd | aqdFlowCtx
  | aqdRgnVa | aqdRgnLen | aqdRgnCmd | aqdRgnKey | aqdErrSts | aqdErrFirst | aqdCcCtrl | aqdCcRate
  | aqdCcProbe | aqdRtoCtrl | aqdUdpPort | aqdRgnBase | aqdRgnSlots | aqdTrkFree | macPortCfg
  | macErrSts | macErrFirst | macFilter | macFcCtrl | macFcWd | macLpiCtrl | macLpiSts | macTsMiss
  | clpTime | clpTimeFrac | clpCtrl | clpLoop | clpSet | clpStatus | clpErrSts | clpErrFirst
  | clpOffset | clpFreq | clpPortLat | clpPtpSrcip | clpBarTime | clpBarPools | clpBarCtrl
  | clpSnapTime | clpSnapCtrl | hmpChCtrl | hmpChSts | hmpChDrain | hmpErrSts | hmpErrFirst
  | hmpMap | secBoot | secSvnBurn | secErrSts | secErrFirst | secConf | secOpAddr | secOpCtrl
  | weirStatus | weirCmd | weirArg | weirLog | weirLogRead | weirEnergy | weirPower | weirCfg
  | weirErrSts | weirErrFirst | weirRecord | pwrCtrl | pwrCap | pwrStatus | pwrPower | pwrTemp
  | pwrTherm | pwrErrSts | pwrErrFirst | lnkCtrl | lnkIdent | lnkErrSts | lnkErrFirst | lnkState
  | pmcCtrl | pmcSnapStamp | pmcTagCtrl | pmcTagSeed | pmcTagBus | pmcTagIdx | pmcTagLost | pmcSel
  | pmcGen | pmcGenSh | pmcPort | pmcPortSh | pmcCell | pmcCellSh | poolId | poolCoreCtrl
  | poolCorePc | poolIrqSts | poolIrqEn | poolErrSts | poolErrFirst | poolSgAddr | poolSgRange
  | poolSgCtrl | dmaChSrc | dmaChDst | dmaChFill | dmaChScl | dmaChCells | dmaChStsVa | dmaChTag
  | dmaChCnt0 | dmaChCnt1 | dmaChCnt2 | dmaChSs0 | dmaChSs1 | dmaChSs2 | dmaChDs0 | dmaChDs1
  | dmaChDs2 | dmaChSclStep | dmaChCfg | dmaChCtrl | dmaSlicePend
  deriving DecidableEq, Repr

/-- One field of a register: its bits, its type code and its reset value. -/
structure FldSpec where
  hi : Nat
  lo : Nat
  ty : FldTy
  reset : Nat
  deriving DecidableEq, Repr

/-- One register of the map. Instance `i * n2 + j` lies at `off + i * s1 + j * s2`. -/
structure RegSpec where
  scope : RegScope
  off : Nat
  bytes : Nat
  n1 : Nat
  s1 : Nat
  n2 : Nat
  s2 : Nat
  flds : List FldSpec
  deriving DecidableEq, Repr

/-- A named field: the register it lies in and its bits. -/
structure Fld where
  reg : Reg
  hi : Nat
  lo : Nat
  deriving DecidableEq, Repr

/-- A field row. -/
def fs (hi lo : Nat) (ty : FldTy) (reset : Nat) : FldSpec := ⟨hi, lo, ty, reset⟩

/-- A register row: scope, offset, bytes, then count and stride of its two instance dimensions. -/
def rs (scope : RegScope) (off bytes n1 s1 n2 s2 : Nat) (flds : List FldSpec) : RegSpec :=
  ⟨scope, off, bytes, n1, s1, n2, s2, flds⟩

/-- The register map: one row per register table of the spec. -/
def regSpec : Reg → RegSpec
  | .topPartId => rs .all 0x0 4 1 0x0 1 0x0
      [fs 31 16 .ro 0x4734, fs 15 8 .ro 0x1, fs 7 4 .ro 0x4]
  | .topHier => rs .all 0x4 4 1 0x0 1 0x0
      [fs 31 24 .ro 0x40, fs 23 16 .ro 0x20, fs 15 8 .ro 0x10, fs 7 4 .ro 0x4, fs 3 0 .ro 0x4]
  | .topFail => rs .pf 0x8 4 1 0x0 1 0x0
      [fs 31 31 .ro 0x0, fs 15 8 .roSt 0x0, fs 3 0 .roSt 0x0]
  | .topBoot => rs .pf 0xC 4 1 0x0 1 0x0
      [fs 31 28 .ro 0x0, fs 27 24 .ro 0x0, fs 15 0 .ro 0x0]
  | .topErrSum => rs .each 0x10 4 1 0x0 1 0x0
      [fs 19 0 .ro 0x0]
  | .topRstCtrl => rs .pf 0x14 4 1 0x0 1 0x0
      [fs 2 2 .wo 0x0, fs 1 1 .wo 0x0, fs 0 0 .wo 0x0]
  | .topErrSts => rs .each 0x30 4 1 0x0 1 0x0
      [fs 1 1 .w1c 0x0, fs 0 0 .w1c 0x0]
  | .topErrFirst => rs .each 0x38 8 1 0x0 1 0x0
      [fs 63 32 .roSt 0x0, fs 31 24 .roSt 0x0, fs 15 15 .roSt 0x0, fs 3 0 .roSt 0x0]
  | .queCap => rs .all 0x10000 4 1 0x0 1 0x0
      [fs 11 8 .ro 0xF, fs 4 0 .ro 0x10]
  | .queCapLink => rs .all 0x10004 4 1 0x0 1 0x0
      [fs 0 0 .ro 0x0]
  | .queErrSts => rs .each 0x10030 4 1 0x0 1 0x0
      [fs 2 2 .w1c 0x0, fs 1 1 .w1c 0x0, fs 0 0 .w1c 0x0]
  | .queErrFirst => rs .each 0x10038 8 1 0x0 1 0x0
      [fs 63 48 .roSt 0x0, fs 47 32 .roSt 0x0, fs 20 16 .roSt 0x0, fs 15 15 .roSt 0x0, fs 3 0 .roSt 0x0]
  | .queRingSq => rs .each 0x10100 8 16 0x40 1 0x0
      [fs 63 12 .rw 0x0]
  | .queRingCq => rs .each 0x10108 8 16 0x40 1 0x0
      [fs 63 12 .rw 0x0]
  | .queRingDbl => rs .each 0x10110 8 16 0x40 1 0x0
      [fs 63 6 .rw 0x0]
  | .queRingCtrl => rs .each 0x10118 4 16 0x40 1 0x0
      [fs 31 30 .ro 0x0, fs 27 24 .rw 0x6, fs 21 16 .rw 0x0, fs 8 8 .rw 0x0, fs 0 0 .rw 0x0]
  | .queRingIdx => rs .each 0x1011C 4 16 0x40 1 0x0
      [fs 31 16 .ro 0x0, fs 15 0 .ro 0x0]
  | .queEqBase => rs .each 0x10500 8 1 0x0 1 0x0
      [fs 63 12 .rw 0x0]
  | .queEqDbl => rs .each 0x10508 8 1 0x0 1 0x0
      [fs 63 6 .rw 0x0]
  | .queEqCtrl => rs .each 0x10510 4 1 0x0 1 0x0
      [fs 31 30 .ro 0x0, fs 27 24 .rw 0x6, fs 21 16 .rw 0x0, fs 8 8 .rw 0x0, fs 0 0 .rw 0x0]
  | .queEqIdx => rs .each 0x10514 4 1 0x0 1 0x0
      [fs 31 16 .ro 0x0, fs 15 0 .ro 0x0]
  | .queEqLost => rs .each 0x10518 4 1 0x0 1 0x0
      [fs 31 0 .rw 0x0]
  | .queMod => rs .each 0x10600 4 64 0x4 1 0x0
      [fs 31 16 .rw 0x0, fs 7 0 .rw 0x1]
  | .queP2p => rs .vf 0x10700 8 16 0x8 1 0x0
      [fs 63 48 .rw 0x0, fs 47 20 .rw 0x0, fs 1 1 .rw 0x0, fs 0 0 .rw 0x0]
  | .queDb => rs .each 0x11000 4 16 0x4 1 0x0
      [fs 31 16 .wo 0x0, fs 15 0 .wo 0x0]
  | .queEqDb => rs .each 0x11040 4 1 0x0 1 0x0
      [fs 31 16 .wo 0x0, fs 15 0 .wo 0x0]
  | .msixAddr => rs .each 0x12000 8 64 0x10 1 0x0
      [fs 63 0 .rw 0x0]
  | .msixData => rs .each 0x12008 4 64 0x10 1 0x0
      [fs 31 0 .rw 0x0]
  | .msixCtrl => rs .each 0x1200C 4 64 0x10 1 0x0
      [fs 0 0 .rw 0x1]
  | .msixPba => rs .each 0x12800 8 1 0x0 1 0x0
      [fs 63 0 .ro 0x0]
  | .dmaErrSts => rs .each 0x20030 4 1 0x0 1 0x0
      [fs 3 3 .w1c 0x0, fs 2 2 .w1c 0x0, fs 1 1 .w1c 0x0, fs 0 0 .w1c 0x0]
  | .dmaErrFirst => rs .each 0x20038 8 1 0x0 1 0x0
      [fs 39 32 .roSt 0x0, fs 26 24 .roSt 0x0, fs 21 16 .roSt 0x0, fs 15 15 .roSt 0x0, fs 3 0 .roSt 0x0]
  | .prtRstCtrl => rs .pf 0x30000 4 1 0x0 1 0x0
      [fs 16 16 .wo 0x0, fs 5 0 .rw 0x0]
  | .prtErrSts => rs .each 0x30030 4 1 0x0 1 0x0
      [fs 2 2 .w1c 0x0, fs 1 1 .w1c 0x0, fs 0 0 .w1c 0x0]
  | .prtErrFirst => rs .each 0x30038 8 1 0x0 1 0x0
      [fs 25 24 .roSt 0x0, fs 21 16 .roSt 0x0, fs 15 15 .roSt 0x0, fs 3 0 .roSt 0x0]
  | .prtState => rs .pf 0x30100 4 64 0x4 1 0x0
      [fs 31 16 .ro 0x0, fs 9 8 .ro 0x0, fs 2 0 .ro 0x0]
  | .prtStatus => rs .vf 0x30200 4 1 0x0 1 0x0
      [fs 2 0 .ro 0x0]
  | .prtAdmit => rs .pf 0x30300 4 64 0x4 1 0x0
      [fs 4 0 .ro 0x10]
  | .celSrCtrl => rs .each 0x40000 4 1 0x0 1 0x0
      [fs 16 16 .rw 0x0, fs 15 0 .rw 0x100]
  | .celCaps => rs .all 0x40004 4 1 0x0 1 0x0
      [fs 27 24 .ro 0x2, fs 23 20 .ro 0x4, fs 19 16 .ro 0x8, fs 15 0 .ro 0x600]
  | .celErrSts => rs .each 0x40008 4 1 0x0 1 0x0
      [fs 6 6 .w1c 0x0, fs 5 5 .w1c 0x0, fs 4 4 .w1c 0x0, fs 3 3 .w1c 0x0, fs 2 2 .w1c 0x0, fs 1 1 .w1c 0x0, fs 0 0 .w1c 0x0]
  | .celErrFirst => rs .each 0x40010 8 1 0x0 1 0x0
      [fs 63 32 .roSt 0x0, fs 31 24 .roSt 0x0, fs 19 16 .roSt 0x0, fs 15 15 .roSt 0x0, fs 12 10 .roSt 0x0, fs 9 0 .roSt 0x0]
  | .celRotFreq => rs .each 0x40100 4 64 0x4 1 0x0
      [fs 31 0 .rw 0x0]
  | .staCtrl => rs .each 0x50000 4 1 0x0 1 0x0
      [fs 31 16 .rw 0x40, fs 15 0 .rw 0x10]
  | .staTableBase => rs .each 0x50008 8 1 0x0 1 0x0
      [fs 47 6 .rw 0x0]
  | .staTableLen => rs .each 0x50010 4 1 0x0 1 0x0
      [fs 16 0 .rw 0x0]
  | .staCloseStep => rs .each 0x50014 4 1 0x0 1 0x0
      [fs 31 0 .wo 0x0]
  | .staLedgerCtrl => rs .each 0x50018 4 1 0x0 1 0x0
      [fs 9 9 .wo 0x0, fs 8 8 .wo 0x0, fs 1 0 .rw 0x1]
  | .staLedgerStep => rs .each 0x5001C 4 1 0x0 1 0x0
      [fs 31 0 .rw 0x0]
  | .staStatus => rs .each 0x50020 4 1 0x0 1 0x0
      [fs 31 31 .ro 0x0, fs 30 30 .ro 0x0, fs 16 0 .ro 0x0]
  | .staErrSts => rs .each 0x50030 4 1 0x0 1 0x0
      [fs 3 3 .w1c 0x0, fs 2 2 .w1c 0x0, fs 1 1 .w1c 0x0, fs 0 0 .w1c 0x0]
  | .staErrFirst => rs .each 0x50038 8 1 0x0 1 0x0
      [fs 63 32 .roSt 0x0, fs 31 16 .roSt 0x0, fs 15 15 .roSt 0x0, fs 3 0 .roSt 0x0]
  | .tamCtrl => rs .each 0x51000 4 1 0x0 1 0x0
      [fs 29 24 .rw 0x4, fs 19 16 .rw 0xC, fs 12 8 .rw 0xA, fs 0 0 .rw 0x0]
  | .tamSeed => rs .each 0x51004 4 1 0x0 1 0x0
      [fs 31 0 .rw 0x0]
  | .tamTableBase => rs .each 0x51008 8 1 0x0 1 0x0
      [fs 47 5 .rw 0x0]
  | .tamTableLen => rs .each 0x51010 4 1 0x0 1 0x0
      [fs 16 0 .rw 0x0]
  | .tamErrSts => rs .each 0x51030 4 1 0x0 1 0x0
      [fs 2 2 .w1c 0x0, fs 1 1 .w1c 0x0, fs 0 0 .w1c 0x0]
  | .tamErrFirst => rs .each 0x51038 8 1 0x0 1 0x0
      [fs 63 32 .roSt 0x0, fs 31 16 .roSt 0x0, fs 15 15 .roSt 0x0, fs 3 0 .roSt 0x0]
  | .pteImageAddr => rs .pf 0x60000 8 1 0x0 1 0x0
      [fs 63 6 .rw 0x0]
  | .pteCtrl => rs .pf 0x60008 4 1 0x0 1 0x0
      [fs 1 1 .wo 0x0, fs 0 0 .wo 0x0]
  | .pteStatus => rs .pf 0x6000C 4 1 0x0 1 0x0
      [fs 31 31 .ro 0x0, fs 30 30 .ro 0x0, fs 15 8 .ro 0x0, fs 7 0 .ro 0x0]
  | .pteSerialInForce => rs .pf 0x60010 4 1 0x0 1 0x0
      [fs 31 0 .ro 0x0]
  | .pteErrSts => rs .pf 0x60030 4 1 0x0 1 0x0
      [fs 1 1 .w1c 0x0, fs 0 0 .w1c 0x0]
  | .pteErrFirst => rs .pf 0x60038 8 1 0x0 1 0x0
      [fs 63 32 .roSt 0x0, fs 31 24 .roSt 0x0, fs 23 16 .roSt 0x0, fs 15 15 .roSt 0x0, fs 3 0 .roSt 0x0]
  | .memTlbInvVa => rs .pf 0x70010 8 1 0x0 1 0x0
      [fs 47 12 .rw 0x0]
  | .memTlbInvCtrl => rs .pf 0x70018 4 1 0x0 1 0x0
      [fs 31 31 .ro 0x0, fs 16 16 .wo 0x0, fs 9 8 .rw 0x0, fs 5 0 .rw 0x0]
  | .memPatrolCtrl => rs .pf 0x70020 4 1 0x0 1 0x0
      [fs 16 16 .rw 0x0, fs 15 0 .rw 0x18]
  | .memErrSts => rs .pf 0x70030 4 1 0x0 1 0x0
      [fs 5 5 .w1c 0x0, fs 4 4 .w1c 0x0, fs 3 3 .w1c 0x0, fs 2 2 .w1c 0x0, fs 1 1 .w1c 0x0, fs 0 0 .w1c 0x0]
  | .memErrFirst => rs .pf 0x70038 8 1 0x0 1 0x0
      [fs 63 22 .roSt 0x0, fs 21 16 .roSt 0x0, fs 15 15 .roSt 0x0, fs 14 8 .roSt 0x0, fs 7 7 .roSt 0x0, fs 3 0 .roSt 0x0]
  | .memPtRoot => rs .pf 0x70100 8 64 0x8 1 0x0
      [fs 41 12 .rw 0x0, fs 0 0 .rw 0x0]
  | .memEccCount => rs .pf 0x71000 4 128 0x4 1 0x0
      [fs 31 24 .rw 0x0, fs 23 0 .rw 0x0]
  | .updMirCtrl => rs .each 0x80000 4 1 0x0 1 0x0
      [fs 31 16 .rw 0x4, fs 15 8 .rw 0x20, fs 0 0 .rw 0x0]
  | .updMirFlow => rs .each 0x80004 4 1 0x0 1 0x0
      [fs 15 0 .rw 0x0]
  | .updMirKey0 => rs .each 0x80008 4 1 0x0 1 0x0
      [fs 31 0 .rw 0x0]
  | .updMirKey1 => rs .each 0x8000C 4 1 0x0 1 0x0
      [fs 31 0 .rw 0x0]
  | .updMirNext => rs .each 0x80010 4 1 0x0 1 0x0
      [fs 15 0 .rw 0x0]
  | .updMirStatus => rs .each 0x80014 4 1 0x0 1 0x0
      [fs 31 31 .ro 0x0, fs 30 30 .ro 0x0, fs 29 29 .ro 0x0, fs 28 28 .ro 0x0, fs 15 0 .ro 0x0]
  | .updMirBuckets => rs .each 0x80018 4 1 0x0 1 0x0
      [fs 23 0 .rw 0x0]
  | .updErrSts => rs .each 0x80030 4 1 0x0 1 0x0
      [fs 5 5 .w1c 0x0, fs 4 4 .w1c 0x0, fs 3 3 .w1c 0x0, fs 2 2 .w1c 0x0, fs 1 1 .w1c 0x0, fs 0 0 .w1c 0x0]
  | .updErrFirst => rs .each 0x80038 8 1 0x0 1 0x0
      [fs 63 48 .roSt 0x0, fs 47 20 .roSt 0x0, fs 15 15 .roSt 0x0, fs 14 4 .roSt 0x0, fs 3 0 .roSt 0x0]
  | .casGrpAddr => rs .vf 0x90000 8 16 0x10 1 0x0
      [fs 47 6 .rw 0x0]
  | .casGrpCtrl => rs .vf 0x90008 4 16 0x10 1 0x0
      [fs 31 30 .ro 0x0, fs 23 16 .ro 0x0, fs 15 8 .rw 0x0, fs 2 2 .wo 0x0, fs 1 1 .wo 0x0, fs 0 0 .wo 0x0]
  | .casCisUse => rs .each 0x90100 8 1 0x0 1 0x0
      [fs 63 48 .ro 0x0, fs 47 32 .ro 0x0, fs 31 16 .ro 0x0, fs 15 0 .ro 0x0]
  | .casErrSts => rs .each 0x90130 4 1 0x0 1 0x0
      [fs 7 7 .w1c 0x0, fs 6 6 .w1c 0x0, fs 5 5 .w1c 0x0, fs 4 4 .w1c 0x0, fs 3 3 .w1c 0x0, fs 2 2 .w1c 0x0, fs 1 1 .w1c 0x0, fs 0 0 .w1c 0x0]
  | .casErrFirst => rs .each 0x90138 8 1 0x0 1 0x0
      [fs 63 48 .roSt 0x0, fs 47 36 .roSt 0x0, fs 35 32 .roSt 0x0, fs 31 24 .roSt 0x0, fs 23 16 .roSt 0x0, fs 15 15 .roSt 0x0, fs 3 0 .roSt 0x0]
  | .aqdFlowAddr => rs .vf 0xA0000 8 1 0x0 1 0x0
      [fs 47 6 .rw 0x0]
  | .aqdFlowCmd => rs .vf 0xA0008 4 1 0x0 1 0x0
      [fs 31 31 .ro 0x0, fs 23 20 .ro 0x0, fs 17 16 .rw 0x0, fs 2 0 .wo 0x0]
  | .aqdFlowCtx => rs .vf 0xA000C 4 1 0x0 1 0x0
      [fs 15 0 .rw 0x0]
  | .aqdRgnVa => rs .vf 0xA0010 8 1 0x0 1 0x0
      [fs 47 12 .rw 0x0]
  | .aqdRgnLen => rs .vf 0xA0018 8 1 0x0 1 0x0
      [fs 47 12 .rw 0x0]
  | .aqdRgnCmd => rs .vf 0xA0020 4 1 0x0 1 0x0
      [fs 31 31 .ro 0x0, fs 23 20 .ro 0x0, fs 17 16 .ro 0x0, fs 9 8 .rw 0x0, fs 2 0 .wo 0x0]
  | .aqdRgnKey => rs .vf 0xA0024 4 1 0x0 1 0x0
      [fs 31 0 .rw 0x0]
  | .aqdErrSts => rs .each 0xA0030 4 1 0x0 1 0x0
      [fs 6 6 .w1c 0x0, fs 5 5 .w1c 0x0, fs 4 4 .w1c 0x0, fs 3 3 .w1c 0x0, fs 2 2 .w1c 0x0, fs 1 1 .w1c 0x0, fs 0 0 .w1c 0x0]
  | .aqdErrFirst => rs .each 0xA0038 8 1 0x0 1 0x0
      [fs 63 48 .roSt 0x0, fs 47 16 .roSt 0x0, fs 15 15 .roSt 0x0, fs 9 4 .roSt 0x0, fs 3 0 .roSt 0x0]
  | .aqdCcCtrl => rs .each 0xA0040 4 1 0x0 1 0x0
      [fs 31 16 .rw 0x2EE0, fs 15 8 .rw 0x80, fs 7 0 .rw 0x80]
  | .aqdCcRate => rs .each 0xA0044 4 1 0x0 1 0x0
      [fs 31 16 .rw 0x7D0, fs 15 0 .rw 0xC8]
  | .aqdCcProbe => rs .each 0xA0048 4 1 0x0 1 0x0
      [fs 31 16 .rw 0x32, fs 15 0 .rw 0x1F40]
  | .aqdRtoCtrl => rs .each 0xA004C 4 1 0x0 1 0x0
      [fs 31 24 .rw 0x8, fs 23 12 .rw 0x640, fs 11 0 .rw 0x64]
  | .aqdUdpPort => rs .pf 0xA0100 4 1 0x0 1 0x0
      [fs 15 0 .rw 0xD290]
  | .aqdRgnBase => rs .pf 0xA0108 8 1 0x0 1 0x0
      [fs 41 12 .rw 0x0, fs 1 1 .ro 0x0, fs 0 0 .rw 0x0]
  | .aqdRgnSlots => rs .pf 0xA0110 4 1 0x0 1 0x0
      [fs 24 0 .rw 0x0]
  | .aqdTrkFree => rs .pf 0xA0114 4 1 0x0 1 0x0
      [fs 20 0 .ro 0x100000]
  | .macPortCfg => rs .pf 0xB0000 4 8 0x4 1 0x0
      [fs 15 12 .rw 0x0, fs 11 8 .rw 0x0, fs 7 4 .rw 0x0, fs 1 1 .rw 0x0, fs 0 0 .rw 0x0]
  | .macErrSts => rs .pf 0xB0030 4 1 0x0 1 0x0
      [fs 4 4 .w1c 0x0, fs 3 3 .w1c 0x0, fs 2 2 .w1c 0x0, fs 1 1 .w1c 0x0, fs 0 0 .w1c 0x0]
  | .macErrFirst => rs .pf 0xB0038 8 1 0x0 1 0x0
      [fs 63 32 .roSt 0x0, fs 31 24 .roSt 0x0, fs 19 16 .roSt 0x0, fs 15 15 .roSt 0x0, fs 3 0 .roSt 0x0]
  | .macFilter => rs .pf 0xB1000 8 16 0x100 16 0x8
      [fs 63 63 .rw 0x0, fs 47 0 .rw 0x0]
  | .macFcCtrl => rs .pf 0xB2000 4 16 0x10 1 0x0
      [fs 31 24 .rw 0x0, fs 17 16 .rw 0x0, fs 15 0 .rw 0xFFFF]
  | .macFcWd => rs .pf 0xB2004 4 16 0x10 1 0x0
      [fs 31 16 .rw 0x64, fs 15 0 .rw 0x7D0]
  | .macLpiCtrl => rs .pf 0xB2008 4 16 0x10 1 0x0
      [fs 31 16 .rw 0x64, fs 1 1 .ro 0x0, fs 0 0 .rw 0x0]
  | .macLpiSts => rs .pf 0xB200C 4 16 0x10 1 0x0
      [fs 31 16 .ro 0x0, fs 15 0 .ro 0x0]
  | .macTsMiss => rs .pf 0xB3000 4 16 0x4 1 0x0
      [fs 31 16 .rw 0x0, fs 15 0 .rw 0x0]
  | .clpTime => rs .all 0xC0000 8 1 0x0 1 0x0
      [fs 63 0 .ro 0x0]
  | .clpTimeFrac => rs .each 0xC0008 4 1 0x0 1 0x0
      [fs 15 0 .ro 0x0]
  | .clpCtrl => rs .pf 0xC0010 4 1 0x0 1 0x0
      [fs 23 20 .rw 0x0, fs 18 18 .rw 0x0, fs 17 16 .rw 0x0, fs 15 8 .rw 0x0, fs 7 4 .rw 0x0, fs 2 0 .rw 0x0]
  | .clpLoop => rs .pf 0xC0014 4 1 0x0 1 0x0
      [fs 31 16 .rw 0x2710, fs 15 8 .rw 0x64, fs 7 4 .rw 0x1, fs 3 0 .rw 0x4]
  | .clpSet => rs .pf 0xC0018 8 1 0x0 1 0x0
      [fs 63 0 .wo 0x0]
  | .clpStatus => rs .each 0xC0020 4 1 0x0 1 0x0
      [fs 31 30 .ro 0x0, fs 26 16 .ro 0x0]
  | .clpErrSts => rs .each 0xC0030 4 1 0x0 1 0x0
      [fs 4 4 .w1c 0x0, fs 3 3 .w1c 0x0, fs 2 2 .w1c 0x0, fs 1 1 .w1c 0x0]
  | .clpErrFirst => rs .each 0xC0038 8 1 0x0 1 0x0
      [fs 63 56 .roSt 0x0, fs 55 48 .roSt 0x0, fs 47 16 .roSt 0x0, fs 15 15 .roSt 0x0, fs 3 0 .roSt 0x0]
  | .clpOffset => rs .pf 0xC0040 8 1 0x0 1 0x0
      [fs 63 0 .ro 0x0]
  | .clpFreq => rs .pf 0xC0048 4 1 0x0 1 0x0
      [fs 31 0 .ro 0x0]
  | .clpPortLat => rs .pf 0xC0100 4 16 0x4 1 0x0
      [fs 31 16 .rw 0x0, fs 15 0 .rw 0x0]
  | .clpPtpSrcip => rs .pf 0xC0140 4 4 0x4 1 0x0
      [fs 31 0 .rw 0x0]
  | .clpBarTime => rs .vf 0xC0200 8 4 0x20 1 0x0
      [fs 63 0 .rw 0x0]
  | .clpBarPools => rs .vf 0xC0208 8 4 0x20 1 0x0
      [fs 63 0 .rw 0x0]
  | .clpBarCtrl => rs .vf 0xC0210 4 4 0x20 1 0x0
      [fs 31 30 .ro 0x0, fs 23 16 .ro 0x0, fs 1 1 .wo 0x0, fs 0 0 .wo 0x0]
  | .clpSnapTime => rs .pf 0xC0300 8 1 0x0 1 0x0
      [fs 63 0 .rw 0x0]
  | .clpSnapCtrl => rs .pf 0xC0308 4 1 0x0 1 0x0
      [fs 31 31 .ro 0x0, fs 23 16 .ro 0x0, fs 2 1 .rw 0x0, fs 0 0 .wo 0x0]
  | .hmpChCtrl => rs .pf 0xD0000 4 2 0x10 1 0x0
      [fs 15 8 .rw 0x0, fs 0 0 .rw 0x0]
  | .hmpChSts => rs .pf 0xD0004 4 2 0x10 1 0x0
      [fs 31 16 .ro 0x0, fs 15 15 .ro 0x1, fs 14 14 .ro 0x0, fs 9 9 .ro 0x0, fs 8 8 .ro 0x0]
  | .hmpChDrain => rs .pf 0xD0008 4 2 0x10 1 0x0
      [fs 31 0 .ro 0x0]
  | .hmpErrSts => rs .pf 0xD0030 4 1 0x0 1 0x0
      [fs 7 7 .w1c 0x0, fs 6 6 .w1c 0x0, fs 5 5 .w1c 0x0, fs 4 4 .w1c 0x0, fs 3 3 .w1c 0x0, fs 2 2 .w1c 0x0, fs 1 1 .w1c 0x0]
  | .hmpErrFirst => rs .pf 0xD0038 8 1 0x0 1 0x0
      [fs 63 36 .roSt 0x0, fs 35 24 .roSt 0x0, fs 21 16 .roSt 0x0, fs 15 15 .roSt 0x0, fs 4 4 .roSt 0x0, fs 3 0 .roSt 0x0]
  | .hmpMap => rs .pf 0x180000 8 2 0x8000 4096 0x8
      [fs 47 12 .rw 0x0, fs 11 6 .rw 0x0, fs 3 2 .rw 0x0]
  | .secBoot => rs .pf 0xE0000 4 1 0x0 1 0x0
      [fs 31 24 .ro 0x0, fs 23 16 .ro 0x0, fs 11 8 .ro 0x0, fs 5 4 .ro 0x0, fs 3 3 .ro 0x0, fs 0 0 .ro 0x0]
  | .secSvnBurn => rs .pf 0xE0004 4 1 0x0 1 0x0
      [fs 7 0 .wo 0x0]
  | .secErrSts => rs .each 0xE0030 4 1 0x0 1 0x0
      [fs 4 4 .w1c 0x0, fs 3 3 .w1c 0x0, fs 2 2 .w1c 0x0, fs 1 1 .w1c 0x0, fs 0 0 .w1c 0x0]
  | .secErrFirst => rs .each 0xE0038 8 1 0x0 1 0x0
      [fs 31 24 .roSt 0x0, fs 21 16 .roSt 0x0, fs 15 15 .roSt 0x0, fs 6 4 .roSt 0x0, fs 3 0 .roSt 0x0]
  | .secConf => rs .pf 0xE0100 4 64 0x4 1 0x0
      [fs 31 30 .ro 0x0, fs 10 8 .ro 0x0, fs 0 0 .rw 0x0]
  | .secOpAddr => rs .vf 0xE0200 8 1 0x0 1 0x0
      [fs 47 6 .rw 0x0]
  | .secOpCtrl => rs .vf 0xE0208 4 1 0x0 1 0x0
      [fs 31 31 .ro 0x0, fs 23 16 .ro 0x0, fs 0 0 .wo 0x0]
  | .weirStatus => rs .pf 0xF0000 4 1 0x0 1 0x0
      [fs 31 31 .ro 0x0, fs 30 30 .ro 0x0, fs 29 29 .ro 0x0, fs 28 28 .ro 0x0, fs 19 16 .ro 0x0, fs 15 0 .ro 0x0]
  | .weirCmd => rs .pf 0xF0004 4 1 0x0 1 0x0
      [fs 23 16 .ro 0x0, fs 13 8 .rw 0x0, fs 3 0 .wo 0x0]
  | .weirArg => rs .pf 0xF0008 8 1 0x0 1 0x0
      [fs 63 0 .rw 0x0]
  | .weirLog => rs .pf 0xF0010 8 1 0x0 1 0x0
      [fs 63 32 .ro 0x0, fs 31 0 .ro 0x0]
  | .weirLogRead => rs .pf 0xF0018 4 1 0x0 1 0x0
      [fs 31 0 .ro 0x0]
  | .weirEnergy => rs .pf 0xF0020 8 1 0x0 1 0x0
      [fs 63 0 .ro 0x0]
  | .weirPower => rs .pf 0xF0028 4 1 0x0 1 0x0
      [fs 31 16 .ro 0x0, fs 15 0 .ro 0x0]
  | .weirCfg => rs .pf 0xF002C 4 1 0x0 1 0x0
      [fs 15 0 .rw 0x3C]
  | .weirErrSts => rs .pf 0xF0030 4 1 0x0 1 0x0
      [fs 5 5 .w1c 0x0, fs 4 4 .w1c 0x0, fs 3 3 .w1c 0x0, fs 2 2 .w1c 0x0, fs 1 1 .w1c 0x0, fs 0 0 .w1c 0x0]
  | .weirErrFirst => rs .pf 0xF0038 8 1 0x0 1 0x0
      [fs 63 32 .roSt 0x0, fs 31 24 .roSt 0x0, fs 21 16 .roSt 0x0, fs 15 15 .roSt 0x0, fs 3 0 .roSt 0x0]
  | .weirRecord => rs .pf 0xF0100 4 40 0x4 1 0x0
      [fs 31 0 .ro 0x0]
  | .pwrCtrl => rs .pf 0x140000 4 1 0x0 1 0x0
      [fs 6 4 .rw 0x6, fs 1 1 .rw 0x0, fs 0 0 .rw 0x0]
  | .pwrCap => rs .pf 0x140004 4 1 0x0 1 0x0
      [fs 31 28 .rw 0x4, fs 26 16 .rw 0x258, fs 10 0 .rw 0x5DC]
  | .pwrStatus => rs .pf 0x140008 4 1 0x0 1 0x0
      [fs 31 31 .ro 0x0, fs 30 30 .ro 0x0, fs 29 29 .ro 0x0, fs 28 28 .ro 0x0, fs 21 20 .ro 0x0, fs 12 8 .ro 0x10, fs 2 0 .ro 0x6]
  | .pwrPower => rs .pf 0x14000C 4 1 0x0 1 0x0
      [fs 31 16 .ro 0x5DC, fs 15 0 .ro 0x0]
  | .pwrTemp => rs .pf 0x140010 4 1 0x0 1 0x0
      [fs 31 24 .ro 0x0, fs 23 16 .ro 0x0, fs 15 8 .ro 0x0, fs 7 0 .ro 0x0]
  | .pwrTherm => rs .pf 0x140014 4 1 0x0 1 0x0
      [fs 23 16 .rw 0x64, fs 15 8 .rw 0x5A, fs 7 0 .rw 0x5F]
  | .pwrErrSts => rs .pf 0x140030 4 1 0x0 1 0x0
      [fs 5 5 .w1c 0x0, fs 4 4 .w1c 0x0, fs 3 3 .w1c 0x0, fs 2 2 .w1c 0x0, fs 1 1 .w1c 0x0, fs 0 0 .w1c 0x0]
  | .pwrErrFirst => rs .pf 0x140038 8 1 0x0 1 0x0
      [fs 63 48 .roSt 0x0, fs 47 40 .roSt 0x0, fs 39 32 .roSt 0x0, fs 15 15 .roSt 0x0, fs 3 0 .roSt 0x0]
  | .lnkCtrl => rs .pf 0x150000 4 1 0x0 1 0x0
      [fs 31 16 .rw 0x10]
  | .lnkIdent => rs .pf 0x150008 8 1 0x0 1 0x0
      [fs 63 32 .ro 0x0, fs 19 16 .ro 0x0, fs 15 8 .ro 0x0, fs 0 0 .ro 0x0]
  | .lnkErrSts => rs .pf 0x150030 4 1 0x0 1 0x0
      [fs 4 4 .w1c 0x0, fs 3 3 .w1c 0x0, fs 2 2 .w1c 0x0, fs 1 1 .w1c 0x0, fs 0 0 .w1c 0x0]
  | .lnkErrFirst => rs .pf 0x150038 8 1 0x0 1 0x0
      [fs 45 40 .roSt 0x0, fs 39 36 .roSt 0x0, fs 35 35 .roSt 0x0, fs 34 32 .roSt 0x0, fs 15 15 .roSt 0x0, fs 3 0 .roSt 0x0]
  | .lnkState => rs .pf 0x150200 8 8 0x10 2 0x8
      [fs 63 48 .ro 0x0, fs 47 16 .ro 0x0, fs 7 4 .ro 0x0, fs 1 0 .ro 0x0]
  | .pmcCtrl => rs .pf 0x160000 4 1 0x0 1 0x0
      [fs 31 16 .ro 0x0, fs 5 5 .ro 0x0, fs 4 4 .wo 0x0, fs 3 3 .wo 0x0, fs 2 2 .wo 0x0, fs 1 1 .wo 0x0]
  | .pmcSnapStamp => rs .pf 0x160008 8 1 0x0 1 0x0
      [fs 63 0 .ro 0x0]
  | .pmcTagCtrl => rs .pf 0x160010 4 1 0x0 1 0x0
      [fs 19 16 .rw 0x0, fs 12 8 .rw 0xA, fs 0 0 .rw 0x0]
  | .pmcTagSeed => rs .pf 0x160014 4 1 0x0 1 0x0
      [fs 31 0 .rw 0x0]
  | .pmcTagBus => rs .pf 0x160018 8 1 0x0 1 0x0
      [fs 63 12 .rw 0x0]
  | .pmcTagIdx => rs .pf 0x160020 4 1 0x0 1 0x0
      [fs 31 16 .ro 0x0, fs 15 0 .rw 0x0]
  | .pmcTagLost => rs .pf 0x160024 4 1 0x0 1 0x0
      [fs 31 0 .rw 0x0]
  | .pmcSel => rs .pf 0x160100 8 64 0x8 1 0x0
      [fs 37 32 .rw 0x0, fs 31 31 .rw 0x0, fs 30 30 .rw 0x0, fs 27 16 .rw 0x0, fs 15 0 .rw 0x0]
  | .pmcGen => rs .pf 0x160400 8 64 0x8 1 0x0
      [fs 63 0 .rw 0x0]
  | .pmcGenSh => rs .pf 0x160600 8 64 0x8 1 0x0
      [fs 63 0 .ro 0x0]
  | .pmcPort => rs .pf 0x161000 8 16 0x40 4 0x8
      [fs 63 0 .rw 0x0]
  | .pmcPortSh => rs .pf 0x161400 8 16 0x40 4 0x8
      [fs 63 0 .ro 0x0]
  | .pmcCell => rs .pf 0x168000 8 1024 0x20 4 0x8
      [fs 63 0 .rw 0x0]
  | .pmcCellSh => rs .pf 0x170000 8 1024 0x20 4 0x8
      [fs 63 0 .ro 0x0]
  | .poolId => rs .pool 0x0 4 1 0x0 1 0x0
      [fs 27 26 .ro 0x0, fs 25 25 .ro 0x0, fs 24 24 .ro 0x0, fs 23 23 .ro 0x0, fs 21 16 .ro 0x0, fs 15 15 .ro 0x0, fs 13 8 .ro 0x0, fs 5 0 .ro 0x0]
  | .poolCoreCtrl => rs .pool 0x8 4 1 0x0 1 0x0
      [fs 1 1 .ro 0x1, fs 0 0 .rw 0x0]
  | .poolCorePc => rs .pool 0x10 8 1 0x0 1 0x0
      [fs 47 1 .rw 0x0]
  | .poolIrqSts => rs .pool 0x20 4 1 0x0 1 0x0
      [fs 3 3 .w1c 0x0, fs 2 2 .ro 0x0, fs 1 1 .ro 0x0, fs 0 0 .ro 0x0]
  | .poolIrqEn => rs .pool 0x24 4 1 0x0 1 0x0
      [fs 3 3 .rw 0x0, fs 2 2 .rw 0x0, fs 1 1 .rw 0x0, fs 0 0 .rw 0x0]
  | .poolErrSts => rs .pool 0x30 4 1 0x0 1 0x0
      [fs 5 5 .w1c 0x0, fs 4 4 .w1c 0x0, fs 3 3 .w1c 0x0, fs 2 2 .w1c 0x0, fs 1 1 .w1c 0x0, fs 0 0 .w1c 0x0]
  | .poolErrFirst => rs .pool 0x38 8 1 0x0 1 0x0
      [fs 63 16 .roSt 0x0, fs 15 15 .roSt 0x0, fs 3 0 .roSt 0x0]
  | .poolSgAddr => rs .pool 0x100 8 4 0x10 1 0x0
      [fs 47 5 .rw 0x0]
  | .poolSgRange => rs .pool 0x108 4 4 0x10 1 0x0
      [fs 31 16 .rw 0x0, fs 15 0 .rw 0x0]
  | .poolSgCtrl => rs .pool 0x10C 4 4 0x10 1 0x0
      [fs 19 18 .ro 0x0, fs 17 17 .wo 0x0, fs 16 16 .wo 0x0, fs 15 0 .rw 0x0]
  | .dmaChSrc => rs .dma 0x0 8 1 0x0 1 0x0
      [fs 47 0 .rw 0x0]
  | .dmaChDst => rs .dma 0x8 8 1 0x0 1 0x0
      [fs 63 48 .rw 0x0, fs 47 32 .rw 0x0, fs 31 0 .rw 0x0]
  | .dmaChFill => rs .dma 0x10 8 1 0x0 1 0x0
      [fs 63 0 .rw 0x0]
  | .dmaChScl => rs .dma 0x18 8 1 0x0 1 0x0
      [fs 47 0 .rw 0x0]
  | .dmaChCells => rs .dma 0x20 8 1 0x0 1 0x0
      [fs 63 0 .rw 0x0]
  | .dmaChStsVa => rs .dma 0x28 8 1 0x0 1 0x0
      [fs 47 0 .rw 0x0]
  | .dmaChTag => rs .dma 0x30 8 1 0x0 1 0x0
      [fs 63 0 .rw 0x0]
  | .dmaChCnt0 => rs .dma 0x38 4 1 0x0 1 0x0
      [fs 23 0 .rw 0x0]
  | .dmaChCnt1 => rs .dma 0x3C 4 1 0x0 1 0x0
      [fs 23 0 .rw 0x0]
  | .dmaChCnt2 => rs .dma 0x40 4 1 0x0 1 0x0
      [fs 23 0 .rw 0x0]
  | .dmaChSs0 => rs .dma 0x44 4 1 0x0 1 0x0
      [fs 31 0 .rw 0x0]
  | .dmaChSs1 => rs .dma 0x48 4 1 0x0 1 0x0
      [fs 31 0 .rw 0x0]
  | .dmaChSs2 => rs .dma 0x4C 4 1 0x0 1 0x0
      [fs 31 0 .rw 0x0]
  | .dmaChDs0 => rs .dma 0x50 4 1 0x0 1 0x0
      [fs 31 0 .rw 0x0]
  | .dmaChDs1 => rs .dma 0x54 4 1 0x0 1 0x0
      [fs 31 0 .rw 0x0]
  | .dmaChDs2 => rs .dma 0x58 4 1 0x0 1 0x0
      [fs 31 0 .rw 0x0]
  | .dmaChSclStep => rs .dma 0x5C 4 1 0x0 1 0x0
      [fs 31 0 .rw 0x0]
  | .dmaChCfg => rs .dma 0x60 4 1 0x0 1 0x0
      [fs 29 24 .rw 0x0, fs 20 20 .rw 0x0, fs 19 12 .rw 0x0, fs 11 8 .rw 0x0, fs 7 4 .rw 0x0, fs 3 2 .rw 0x0, fs 1 0 .rw 0x0]
  | .dmaChCtrl => rs .dma 0x64 4 1 0x0 1 0x0
      [fs 31 31 .ro 0x0, fs 23 16 .ro 0x0, fs 1 1 .wo 0x0, fs 0 0 .wo 0x0]
  | .dmaSlicePend => rs .dmaPage 0x400 4 1 0x0 1 0x0
      [fs 7 0 .w1c 0x0]

/-- The registers of a function's BAR0 space, in offset order. -/
def barRegs : List Reg :=
  ([
    .topPartId, .topHier, .topFail, .topBoot, .topErrSum, .topRstCtrl, .topErrSts, .topErrFirst,
    .queCap, .queCapLink, .queErrSts, .queErrFirst, .queRingSq, .queRingCq, .queRingDbl,
    .queRingCtrl, .queRingIdx, .queEqBase, .queEqDbl, .queEqCtrl, .queEqIdx, .queEqLost, .queMod,
    .queP2p, .queDb, .queEqDb, .msixAddr, .msixData, .msixCtrl, .msixPba, .dmaErrSts, .dmaErrFirst,
    .prtRstCtrl, .prtErrSts, .prtErrFirst, .prtState, .prtStatus, .prtAdmit, .celSrCtrl, .celCaps] : List Reg)
  ++ ([
    .celErrSts, .celErrFirst, .celRotFreq, .staCtrl, .staTableBase, .staTableLen, .staCloseStep,
    .staLedgerCtrl, .staLedgerStep, .staStatus, .staErrSts, .staErrFirst, .tamCtrl, .tamSeed,
    .tamTableBase, .tamTableLen, .tamErrSts, .tamErrFirst, .pteImageAddr, .pteCtrl, .pteStatus,
    .pteSerialInForce, .pteErrSts, .pteErrFirst, .memTlbInvVa, .memTlbInvCtrl, .memPatrolCtrl,
    .memErrSts, .memErrFirst, .memPtRoot, .memEccCount, .updMirCtrl, .updMirFlow, .updMirKey0,
    .updMirKey1, .updMirNext, .updMirStatus, .updMirBuckets, .updErrSts, .updErrFirst] : List Reg)
  ++ ([
    .casGrpAddr, .casGrpCtrl, .casCisUse, .casErrSts, .casErrFirst, .aqdFlowAddr, .aqdFlowCmd,
    .aqdFlowCtx, .aqdRgnVa, .aqdRgnLen, .aqdRgnCmd, .aqdRgnKey, .aqdErrSts, .aqdErrFirst,
    .aqdCcCtrl, .aqdCcRate, .aqdCcProbe, .aqdRtoCtrl, .aqdUdpPort, .aqdRgnBase, .aqdRgnSlots,
    .aqdTrkFree, .macPortCfg, .macErrSts, .macErrFirst, .macFilter, .macFcCtrl, .macFcWd,
    .macLpiCtrl, .macLpiSts, .macTsMiss, .clpTime, .clpTimeFrac, .clpCtrl, .clpLoop, .clpSet,
    .clpStatus, .clpErrSts, .clpErrFirst, .clpOffset] : List Reg)
  ++ ([
    .clpFreq, .clpPortLat, .clpPtpSrcip, .clpBarTime, .clpBarPools, .clpBarCtrl, .clpSnapTime,
    .clpSnapCtrl, .hmpChCtrl, .hmpChSts, .hmpChDrain, .hmpErrSts, .hmpErrFirst, .hmpMap, .secBoot,
    .secSvnBurn, .secErrSts, .secErrFirst, .secConf, .secOpAddr, .secOpCtrl, .weirStatus, .weirCmd,
    .weirArg, .weirLog, .weirLogRead, .weirEnergy, .weirPower, .weirCfg, .weirErrSts,
    .weirErrFirst, .weirRecord, .pwrCtrl, .pwrCap, .pwrStatus, .pwrPower, .pwrTemp, .pwrTherm,
    .pwrErrSts, .pwrErrFirst] : List Reg)
  ++ ([
    .lnkCtrl, .lnkIdent, .lnkErrSts, .lnkErrFirst, .lnkState, .pmcCtrl, .pmcSnapStamp, .pmcTagCtrl,
    .pmcTagSeed, .pmcTagBus, .pmcTagIdx, .pmcTagLost, .pmcSel, .pmcGen, .pmcGenSh, .pmcPort,
    .pmcPortSh, .pmcCell, .pmcCellSh] : List Reg)

/-- The registers of a pool's register page. -/
def poolRegs : List Reg :=
  ([
    .poolId, .poolCoreCtrl, .poolCorePc, .poolIrqSts, .poolIrqEn, .poolErrSts, .poolErrFirst,
    .poolSgAddr, .poolSgRange, .poolSgCtrl] : List Reg)

/-- The registers of a DMA channel's block. -/
def dmaRegs : List Reg :=
  ([
    .dmaChSrc, .dmaChDst, .dmaChFill, .dmaChScl, .dmaChCells, .dmaChStsVa, .dmaChTag, .dmaChCnt0,
    .dmaChCnt1, .dmaChCnt2, .dmaChSs0, .dmaChSs1, .dmaChSs2, .dmaChDs0, .dmaChDs1, .dmaChDs2,
    .dmaChSclStep, .dmaChCfg, .dmaChCtrl] : List Reg)

namespace F

def TOP_PART_CODE : Fld := ⟨.topPartId, 31, 16⟩
def TOP_STEPPING : Fld := ⟨.topPartId, 15, 8⟩
def TOP_TIER_COUNT : Fld := ⟨.topPartId, 7, 4⟩
def TOP_GRID_ROWS : Fld := ⟨.topHier, 31, 24⟩
def TOP_GRID_COLS : Fld := ⟨.topHier, 23, 16⟩
def TOP_CELLS_PER_POOL : Fld := ⟨.topHier, 15, 8⟩
def TOP_POOLS_PER_BASIN : Fld := ⟨.topHier, 7, 4⟩
def TOP_BASINS_PER_TIER : Fld := ⟨.topHier, 3, 0⟩
def TOP_FAILED : Fld := ⟨.topFail, 31, 31⟩
def TOP_FAIL_INFO : Fld := ⟨.topFail, 15, 8⟩
def TOP_FAIL_CAUSE : Fld := ⟨.topFail, 3, 0⟩
def TOP_STAGE : Fld := ⟨.topBoot, 31, 28⟩
def TOP_LAST_RESET : Fld := ⟨.topBoot, 27, 24⟩
def TOP_BOOT_MS : Fld := ⟨.topBoot, 15, 0⟩
def TOP_ERR_BLOCK : Fld := ⟨.topErrSum, 19, 0⟩
def TOP_RST_COLD : Fld := ⟨.topRstCtrl, 2, 2⟩
def TOP_RST_WARM : Fld := ⟨.topRstCtrl, 1, 1⟩
def TOP_RST_MODULE : Fld := ⟨.topRstCtrl, 0, 0⟩
def TOP_E_FAILED : Fld := ⟨.topErrSts, 1, 1⟩
def TOP_E_ACCESS : Fld := ⟨.topErrSts, 0, 0⟩
def TOP_EF_OFFSET : Fld := ⟨.topErrFirst, 63, 32⟩
def TOP_EF_SIZE : Fld := ⟨.topErrFirst, 31, 24⟩
def TOP_EF_VALID : Fld := ⟨.topErrFirst, 15, 15⟩
def TOP_EF_CAUSE : Fld := ⟨.topErrFirst, 3, 0⟩
def QUE_MAX_LOG2 : Fld := ⟨.queCap, 11, 8⟩
def QUE_RINGS : Fld := ⟨.queCap, 4, 0⟩
def QUE_CXL_CACHE : Fld := ⟨.queCapLink, 0, 0⟩
def QUE_E_P2P : Fld := ⟨.queErrSts, 2, 2⟩
def QUE_E_RING : Fld := ⟨.queErrSts, 1, 1⟩
def QUE_E_STALE : Fld := ⟨.queErrSts, 0, 0⟩
def QUE_EF_INDEX : Fld := ⟨.queErrFirst, 63, 48⟩
def QUE_EF_STAMP : Fld := ⟨.queErrFirst, 47, 32⟩
def QUE_EF_RING : Fld := ⟨.queErrFirst, 20, 16⟩
def QUE_EF_VALID : Fld := ⟨.queErrFirst, 15, 15⟩
def QUE_EF_CAUSE : Fld := ⟨.queErrFirst, 3, 0⟩
def QUE_RING_BUS : Fld := ⟨.queRingSq, 63, 12⟩
def QUE_RING_CQ_BUS : Fld := ⟨.queRingCq, 63, 12⟩
def QUE_DBL_BUS : Fld := ⟨.queRingDbl, 63, 6⟩
def QUE_RING_STATE : Fld := ⟨.queRingCtrl, 31, 30⟩
def QUE_RING_LOG2 : Fld := ⟨.queRingCtrl, 27, 24⟩
def QUE_RING_VEC : Fld := ⟨.queRingCtrl, 21, 16⟩
def QUE_RING_DBMMIO : Fld := ⟨.queRingCtrl, 8, 8⟩
def QUE_RING_EN : Fld := ⟨.queRingCtrl, 0, 0⟩
def QUE_RING_HEAD : Fld := ⟨.queRingIdx, 31, 16⟩
def QUE_RING_TAIL : Fld := ⟨.queRingIdx, 15, 0⟩
def QUE_EQ_BUS : Fld := ⟨.queEqBase, 63, 12⟩
def QUE_EQ_DBL_BUS : Fld := ⟨.queEqDbl, 63, 6⟩
def QUE_EQ_STATE : Fld := ⟨.queEqCtrl, 31, 30⟩
def QUE_EQ_LOG2 : Fld := ⟨.queEqCtrl, 27, 24⟩
def QUE_EQ_VEC : Fld := ⟨.queEqCtrl, 21, 16⟩
def QUE_EQ_DBMMIO : Fld := ⟨.queEqCtrl, 8, 8⟩
def QUE_EQ_EN : Fld := ⟨.queEqCtrl, 0, 0⟩
def QUE_EQ_TAIL : Fld := ⟨.queEqIdx, 31, 16⟩
def QUE_EQ_HEAD : Fld := ⟨.queEqIdx, 15, 0⟩
def QUE_EQ_LOST : Fld := ⟨.queEqLost, 31, 0⟩
def QUE_MOD_USEC : Fld := ⟨.queMod, 31, 16⟩
def QUE_MOD_COUNT : Fld := ⟨.queMod, 7, 0⟩
def QUE_P2P_RID : Fld := ⟨.queP2p, 63, 48⟩
def QUE_P2P_VA : Fld := ⟨.queP2p, 47, 20⟩
def QUE_P2P_ANY : Fld := ⟨.queP2p, 1, 1⟩
def QUE_P2P_V : Fld := ⟨.queP2p, 0, 0⟩
def QUE_DB_HEAD : Fld := ⟨.queDb, 31, 16⟩
def QUE_DB_TAIL : Fld := ⟨.queDb, 15, 0⟩
def QUE_EQ_DB_HEAD : Fld := ⟨.queEqDb, 31, 16⟩
def QUE_EQ_DB_TAIL : Fld := ⟨.queEqDb, 15, 0⟩
def MSIX_ADDR : Fld := ⟨.msixAddr, 63, 0⟩
def MSIX_DATA : Fld := ⟨.msixData, 31, 0⟩
def MSIX_MASK : Fld := ⟨.msixCtrl, 0, 0⟩
def MSIX_PBA : Fld := ⟨.msixPba, 63, 0⟩
def DMA_E_STATUS : Fld := ⟨.dmaErrSts, 3, 3⟩
def DMA_E_ACCESS : Fld := ⟨.dmaErrSts, 2, 2⟩
def DMA_E_MALFORMED : Fld := ⟨.dmaErrSts, 1, 1⟩
def DMA_E_CHAN : Fld := ⟨.dmaErrSts, 0, 0⟩
def DMA_EF_STATUS : Fld := ⟨.dmaErrFirst, 39, 32⟩
def DMA_EF_CHANNEL : Fld := ⟨.dmaErrFirst, 26, 24⟩
def DMA_EF_POOL : Fld := ⟨.dmaErrFirst, 21, 16⟩
def DMA_EF_VALID : Fld := ⟨.dmaErrFirst, 15, 15⟩
def DMA_EF_CAUSE : Fld := ⟨.dmaErrFirst, 3, 0⟩
def PRT_RST_GO : Fld := ⟨.prtRstCtrl, 16, 16⟩
def PRT_RST_PART : Fld := ⟨.prtRstCtrl, 5, 0⟩
def PRT_E_SCRUB : Fld := ⟨.prtErrSts, 2, 2⟩
def PRT_E_DISABLED : Fld := ⟨.prtErrSts, 1, 1⟩
def PRT_E_IGNORED : Fld := ⟨.prtErrSts, 0, 0⟩
def PRT_EF_TRIGGER : Fld := ⟨.prtErrFirst, 25, 24⟩
def PRT_EF_PART : Fld := ⟨.prtErrFirst, 21, 16⟩
def PRT_EF_VALID : Fld := ⟨.prtErrFirst, 15, 15⟩
def PRT_EF_CAUSE : Fld := ⟨.prtErrFirst, 3, 0⟩
def PRT_RESETS : Fld := ⟨.prtState, 31, 16⟩
def PRT_TRIGGER : Fld := ⟨.prtState, 9, 8⟩
def PRT_PHASE : Fld := ⟨.prtState, 2, 0⟩
def PRT_PHASE_STATUS : Fld := ⟨.prtStatus, 2, 0⟩
def PRT_ADMIT_K : Fld := ⟨.prtAdmit, 4, 0⟩
def CEL_SR_DISABLE : Fld := ⟨.celSrCtrl, 16, 16⟩
def CEL_SR_THRESHOLD : Fld := ⟨.celSrCtrl, 15, 0⟩
def CEL_GUEST_SLOTS : Fld := ⟨.celCaps, 27, 24⟩
def CEL_TBL_PAIRS : Fld := ⟨.celCaps, 23, 20⟩
def CEL_SLOTS : Fld := ⟨.celCaps, 19, 16⟩
def CEL_OPND_LINES : Fld := ⟨.celCaps, 15, 0⟩
def CEL_E_READ : Fld := ⟨.celErrSts, 6, 6⟩
def CEL_E_WRITE : Fld := ⟨.celErrSts, 5, 5⟩
def CEL_E_TABLE : Fld := ⟨.celErrSts, 4, 4⟩
def CEL_E_UE : Fld := ⟨.celErrSts, 3, 3⟩
def CEL_E_CE : Fld := ⟨.celErrSts, 2, 2⟩
def CEL_E_OVF : Fld := ⟨.celErrSts, 1, 1⟩
def CEL_E_DESC : Fld := ⟨.celErrSts, 0, 0⟩
def CEL_EF_STEP : Fld := ⟨.celErrFirst, 63, 32⟩
def CEL_EF_OPCODE : Fld := ⟨.celErrFirst, 31, 24⟩
def CEL_EF_CAUSE : Fld := ⟨.celErrFirst, 19, 16⟩
def CEL_EF_VALID : Fld := ⟨.celErrFirst, 15, 15⟩
def CEL_EF_SLOT : Fld := ⟨.celErrFirst, 12, 10⟩
def CEL_EF_CELL : Fld := ⟨.celErrFirst, 9, 0⟩
def CEL_ROT_W : Fld := ⟨.celRotFreq, 31, 0⟩
def STA_GRAD_SILENT_STEPS : Fld := ⟨.staCtrl, 31, 16⟩
def STA_SILENT_FRAC : Fld := ⟨.staCtrl, 15, 0⟩
def STA_TABLE_VA : Fld := ⟨.staTableBase, 47, 6⟩
def STA_TABLE_LEN : Fld := ⟨.staTableLen, 16, 0⟩
def STA_CLOSE_STEP : Fld := ⟨.staCloseStep, 31, 0⟩
def STA_LEDGER_INIT : Fld := ⟨.staLedgerCtrl, 9, 9⟩
def STA_LEDGER_CHECK : Fld := ⟨.staLedgerCtrl, 8, 8⟩
def STA_LEDGER_MARGIN : Fld := ⟨.staLedgerCtrl, 1, 0⟩
def STA_LEDGER_STEP : Fld := ⟨.staLedgerStep, 31, 0⟩
def STA_CLOSE_BUSY : Fld := ⟨.staStatus, 31, 31⟩
def STA_LEDGER_BUSY : Fld := ⟨.staStatus, 30, 30⟩
def STA_LEDGER_COLD : Fld := ⟨.staStatus, 16, 0⟩
def STA_E_BUSY : Fld := ⟨.staErrSts, 3, 3⟩
def STA_E_MEM : Fld := ⟨.staErrSts, 2, 2⟩
def STA_E_RANGE : Fld := ⟨.staErrSts, 1, 1⟩
def STA_E_LATE : Fld := ⟨.staErrSts, 0, 0⟩
def STA_EF_STEP : Fld := ⟨.staErrFirst, 63, 32⟩
def STA_EF_TENSOR : Fld := ⟨.staErrFirst, 31, 16⟩
def STA_EF_VALID : Fld := ⟨.staErrFirst, 15, 15⟩
def STA_EF_CAUSE : Fld := ⟨.staErrFirst, 3, 0⟩
def TAM_DRIFT_COUNT : Fld := ⟨.tamCtrl, 29, 24⟩
def TAM_DRIFT_BIN : Fld := ⟨.tamCtrl, 19, 16⟩
def TAM_SAMPLE_RATE : Fld := ⟨.tamCtrl, 12, 8⟩
def TAM_ENABLE : Fld := ⟨.tamCtrl, 0, 0⟩
def TAM_SEED : Fld := ⟨.tamSeed, 31, 0⟩
def TAM_TABLE_VA : Fld := ⟨.tamTableBase, 47, 5⟩
def TAM_TABLE_LEN : Fld := ⟨.tamTableLen, 16, 0⟩
def TAM_E_DRIFT : Fld := ⟨.tamErrSts, 2, 2⟩
def TAM_E_MEM : Fld := ⟨.tamErrSts, 1, 1⟩
def TAM_E_RANGE : Fld := ⟨.tamErrSts, 0, 0⟩
def TAM_EF_STEP : Fld := ⟨.tamErrFirst, 63, 32⟩
def TAM_EF_TENSOR : Fld := ⟨.tamErrFirst, 31, 16⟩
def TAM_EF_VALID : Fld := ⟨.tamErrFirst, 15, 15⟩
def TAM_EF_CAUSE : Fld := ⟨.tamErrFirst, 3, 0⟩
def PTE_IMAGE_BUS : Fld := ⟨.pteImageAddr, 63, 6⟩
def PTE_CHECK_ONLY : Fld := ⟨.pteCtrl, 1, 1⟩
def PTE_LOAD : Fld := ⟨.pteCtrl, 0, 0⟩
def PTE_BUSY : Fld := ⟨.pteStatus, 31, 31⟩
def PTE_IN_FORCE : Fld := ⟨.pteStatus, 30, 30⟩
def PTE_FAIL_INDEX : Fld := ⟨.pteStatus, 15, 8⟩
def PTE_RESULT : Fld := ⟨.pteStatus, 7, 0⟩
def PTE_SERIAL_IN_FORCE : Fld := ⟨.pteSerialInForce, 31, 0⟩
def PTE_E_BUSY : Fld := ⟨.pteErrSts, 1, 1⟩
def PTE_E_REJECT : Fld := ⟨.pteErrSts, 0, 0⟩
def PTE_EF_SERIAL : Fld := ⟨.pteErrFirst, 63, 32⟩
def PTE_EF_RESULT : Fld := ⟨.pteErrFirst, 31, 24⟩
def PTE_EF_INDEX : Fld := ⟨.pteErrFirst, 23, 16⟩
def PTE_EF_VALID : Fld := ⟨.pteErrFirst, 15, 15⟩
def PTE_EF_CAUSE : Fld := ⟨.pteErrFirst, 3, 0⟩
def MEM_TLB_VA : Fld := ⟨.memTlbInvVa, 47, 12⟩
def MEM_TLB_BUSY : Fld := ⟨.memTlbInvCtrl, 31, 31⟩
def MEM_TLB_GO : Fld := ⟨.memTlbInvCtrl, 16, 16⟩
def MEM_TLB_SCOPE : Fld := ⟨.memTlbInvCtrl, 9, 8⟩
def MEM_TLB_PART : Fld := ⟨.memTlbInvCtrl, 5, 0⟩
def MEM_PATROL_DISABLE : Fld := ⟨.memPatrolCtrl, 16, 16⟩
def MEM_PATROL_HOURS : Fld := ⟨.memPatrolCtrl, 15, 0⟩
def MEM_E_CHANNEL : Fld := ⟨.memErrSts, 5, 5⟩
def MEM_E_RANGE : Fld := ⟨.memErrSts, 4, 4⟩
def MEM_E_XLATE : Fld := ⟨.memErrSts, 3, 3⟩
def MEM_E_PATROL_UE : Fld := ⟨.memErrSts, 2, 2⟩
def MEM_E_UE : Fld := ⟨.memErrSts, 1, 1⟩
def MEM_E_CE : Fld := ⟨.memErrSts, 0, 0⟩
def MEM_EF_DPA : Fld := ⟨.memErrFirst, 63, 22⟩
def MEM_EF_PART : Fld := ⟨.memErrFirst, 21, 16⟩
def MEM_EF_VALID : Fld := ⟨.memErrFirst, 15, 15⟩
def MEM_EF_CHANNEL : Fld := ⟨.memErrFirst, 14, 8⟩
def MEM_EF_PF : Fld := ⟨.memErrFirst, 7, 7⟩
def MEM_EF_CAUSE : Fld := ⟨.memErrFirst, 3, 0⟩
def MEM_PT_DPA : Fld := ⟨.memPtRoot, 41, 12⟩
def MEM_PT_EN : Fld := ⟨.memPtRoot, 0, 0⟩
def MEM_UE_COUNT : Fld := ⟨.memEccCount, 31, 24⟩
def MEM_CE_COUNT : Fld := ⟨.memEccCount, 23, 0⟩
def UPD_MIR_INTERVAL : Fld := ⟨.updMirCtrl, 31, 16⟩
def UPD_MIR_SHARE : Fld := ⟨.updMirCtrl, 15, 8⟩
def UPD_MIR_ENABLE : Fld := ⟨.updMirCtrl, 0, 0⟩
def UPD_MIR_CTX : Fld := ⟨.updMirFlow, 15, 0⟩
def UPD_MIR_KEY0 : Fld := ⟨.updMirKey0, 31, 0⟩
def UPD_MIR_KEY1 : Fld := ⟨.updMirKey1, 31, 0⟩
def UPD_MIR_NEXT : Fld := ⟨.updMirNext, 15, 0⟩
def UPD_MIR_BUSY : Fld := ⟨.updMirStatus, 31, 31⟩
def UPD_MIR_BROKEN : Fld := ⟨.updMirStatus, 30, 30⟩
def UPD_MIR_VALID : Fld := ⟨.updMirStatus, 29, 29⟩
def UPD_MIR_SLOT : Fld := ⟨.updMirStatus, 28, 28⟩
def UPD_MIR_EPOCH : Fld := ⟨.updMirStatus, 15, 0⟩
def UPD_MIR_BUCKETS : Fld := ⟨.updMirBuckets, 23, 0⟩
def UPD_E_MIRROR : Fld := ⟨.updErrSts, 5, 5⟩
def UPD_E_NONFINITE : Fld := ⟨.updErrSts, 4, 4⟩
def UPD_E_EPOCH : Fld := ⟨.updErrSts, 3, 3⟩
def UPD_E_WRITE : Fld := ⟨.updErrSts, 2, 2⟩
def UPD_E_READ : Fld := ⟨.updErrSts, 1, 1⟩
def UPD_E_RECORD : Fld := ⟨.updErrSts, 0, 0⟩
def UPD_EF_EPOCH : Fld := ⟨.updErrFirst, 63, 48⟩
def UPD_EF_ELEM : Fld := ⟨.updErrFirst, 47, 20⟩
def UPD_EF_VALID : Fld := ⟨.updErrFirst, 15, 15⟩
def UPD_EF_TIER : Fld := ⟨.updErrFirst, 14, 4⟩
def UPD_EF_CAUSE : Fld := ⟨.updErrFirst, 3, 0⟩
def CAS_GRP_VA : Fld := ⟨.casGrpAddr, 47, 6⟩
def CAS_GRP_STATE : Fld := ⟨.casGrpCtrl, 31, 30⟩
def CAS_GRP_RESULT : Fld := ⟨.casGrpCtrl, 23, 16⟩
def CAS_GRP_RANK : Fld := ⟨.casGrpCtrl, 15, 8⟩
def CAS_GRP_REMAP : Fld := ⟨.casGrpCtrl, 2, 2⟩
def CAS_GRP_ABORT : Fld := ⟨.casGrpCtrl, 1, 1⟩
def CAS_GRP_ARM : Fld := ⟨.casGrpCtrl, 0, 0⟩
def CAS_CIS_USE3 : Fld := ⟨.casCisUse, 63, 48⟩
def CAS_CIS_USE2 : Fld := ⟨.casCisUse, 47, 32⟩
def CAS_CIS_USE1 : Fld := ⟨.casCisUse, 31, 16⟩
def CAS_CIS_USE0 : Fld := ⟨.casCisUse, 15, 0⟩
def CAS_E_POST : Fld := ⟨.casErrSts, 7, 7⟩
def CAS_E_MEM : Fld := ⟨.casErrSts, 6, 6⟩
def CAS_E_STALE : Fld := ⟨.casErrSts, 5, 5⟩
def CAS_E_LATE : Fld := ⟨.casErrSts, 4, 4⟩
def CAS_E_FATAL : Fld := ⟨.casErrSts, 3, 3⟩
def CAS_E_RESIDUE : Fld := ⟨.casErrSts, 2, 2⟩
def CAS_E_MSG : Fld := ⟨.casErrSts, 1, 1⟩
def CAS_E_ARM : Fld := ⟨.casErrSts, 0, 0⟩
def CAS_EF_EPOCH : Fld := ⟨.casErrFirst, 63, 48⟩
def CAS_EF_TAG : Fld := ⟨.casErrFirst, 47, 36⟩
def CAS_EF_GROUP : Fld := ⟨.casErrFirst, 35, 32⟩
def CAS_EF_RANK : Fld := ⟨.casErrFirst, 31, 24⟩
def CAS_EF_PART : Fld := ⟨.casErrFirst, 23, 16⟩
def CAS_EF_VALID : Fld := ⟨.casErrFirst, 15, 15⟩
def CAS_EF_CAUSE : Fld := ⟨.casErrFirst, 3, 0⟩
def AQD_FLOW_VA : Fld := ⟨.aqdFlowAddr, 47, 6⟩
def AQD_FLOW_BUSY : Fld := ⟨.aqdFlowCmd, 31, 31⟩
def AQD_FLOW_STATUS : Fld := ⟨.aqdFlowCmd, 23, 20⟩
def AQD_FLOW_RUN : Fld := ⟨.aqdFlowCmd, 17, 16⟩
def AQD_FLOW_OP : Fld := ⟨.aqdFlowCmd, 2, 0⟩
def AQD_FLOW_CTX : Fld := ⟨.aqdFlowCtx, 15, 0⟩
def AQD_RGN_VA : Fld := ⟨.aqdRgnVa, 47, 12⟩
def AQD_RGN_LEN : Fld := ⟨.aqdRgnLen, 47, 12⟩
def AQD_RGN_BUSY : Fld := ⟨.aqdRgnCmd, 31, 31⟩
def AQD_RGN_STATUS : Fld := ⟨.aqdRgnCmd, 23, 20⟩
def AQD_RGN_STATE : Fld := ⟨.aqdRgnCmd, 17, 16⟩
def AQD_RGN_PERM : Fld := ⟨.aqdRgnCmd, 9, 8⟩
def AQD_RGN_OP : Fld := ⟨.aqdRgnCmd, 2, 0⟩
def AQD_RGN_KEY : Fld := ⟨.aqdRgnKey, 31, 0⟩
def AQD_E_STALE_NAK : Fld := ⟨.aqdErrSts, 6, 6⟩
def AQD_E_LOCAL : Fld := ⟨.aqdErrSts, 5, 5⟩
def AQD_E_TRACKER : Fld := ⟨.aqdErrSts, 4, 4⟩
def AQD_E_FLOW : Fld := ⟨.aqdErrSts, 3, 3⟩
def AQD_E_REFUSED : Fld := ⟨.aqdErrSts, 2, 2⟩
def AQD_E_RX : Fld := ⟨.aqdErrSts, 1, 1⟩
def AQD_E_CMD : Fld := ⟨.aqdErrSts, 0, 0⟩
def AQD_EF_CTX : Fld := ⟨.aqdErrFirst, 63, 48⟩
def AQD_EF_PSN : Fld := ⟨.aqdErrFirst, 47, 16⟩
def AQD_EF_VALID : Fld := ⟨.aqdErrFirst, 15, 15⟩
def AQD_EF_PART : Fld := ⟨.aqdErrFirst, 9, 4⟩
def AQD_EF_CAUSE : Fld := ⟨.aqdErrFirst, 3, 0⟩
def AQD_CC_TARGET : Fld := ⟨.aqdCcCtrl, 31, 16⟩
def AQD_CC_BETA : Fld := ⟨.aqdCcCtrl, 15, 8⟩
def AQD_CC_MAXDEC : Fld := ⟨.aqdCcCtrl, 7, 0⟩
def AQD_CC_AI : Fld := ⟨.aqdCcRate, 31, 16⟩
def AQD_CC_MIN : Fld := ⟨.aqdCcRate, 15, 0⟩
def AQD_CC_INIT : Fld := ⟨.aqdCcProbe, 31, 16⟩
def AQD_CC_PROBE_NS : Fld := ⟨.aqdCcProbe, 15, 0⟩
def AQD_RETRY_LIMIT : Fld := ⟨.aqdRtoCtrl, 31, 24⟩
def AQD_RTO_MAX : Fld := ⟨.aqdRtoCtrl, 23, 12⟩
def AQD_RTO : Fld := ⟨.aqdRtoCtrl, 11, 0⟩
def AQD_UDP_PORT : Fld := ⟨.aqdUdpPort, 15, 0⟩
def AQD_RGN_DPA : Fld := ⟨.aqdRgnBase, 41, 12⟩
def AQD_RGN_INIT_BUSY : Fld := ⟨.aqdRgnBase, 1, 1⟩
def AQD_RGN_EN : Fld := ⟨.aqdRgnBase, 0, 0⟩
def AQD_RGN_SLOTS : Fld := ⟨.aqdRgnSlots, 24, 0⟩
def AQD_TRK_FREE : Fld := ⟨.aqdTrkFree, 20, 0⟩
def MAC_RX_INV : Fld := ⟨.macPortCfg, 15, 12⟩
def MAC_TX_INV : Fld := ⟨.macPortCfg, 11, 8⟩
def MAC_PHY_TYPE : Fld := ⟨.macPortCfg, 7, 4⟩
def MAC_SPLIT : Fld := ⟨.macPortCfg, 1, 1⟩
def MAC_PORT_EN : Fld := ⟨.macPortCfg, 0, 0⟩
def MAC_E_CFG : Fld := ⟨.macErrSts, 4, 4⟩
def MAC_E_PAUSE : Fld := ⟨.macErrSts, 3, 3⟩
def MAC_E_RXDROP : Fld := ⟨.macErrSts, 2, 2⟩
def MAC_E_LINK : Fld := ⟨.macErrSts, 1, 1⟩
def MAC_E_OVERSIZE : Fld := ⟨.macErrSts, 0, 0⟩
def MAC_EF_HELD : Fld := ⟨.macErrFirst, 63, 32⟩
def MAC_EF_PRIO : Fld := ⟨.macErrFirst, 31, 24⟩
def MAC_EF_PORT : Fld := ⟨.macErrFirst, 19, 16⟩
def MAC_EF_VALID : Fld := ⟨.macErrFirst, 15, 15⟩
def MAC_EF_CAUSE : Fld := ⟨.macErrFirst, 3, 0⟩
def MAC_FLT_VALID : Fld := ⟨.macFilter, 63, 63⟩
def MAC_FLT_ADDR : Fld := ⟨.macFilter, 47, 0⟩
def MAC_PFC_PRIO : Fld := ⟨.macFcCtrl, 31, 24⟩
def MAC_FC_MODE : Fld := ⟨.macFcCtrl, 17, 16⟩
def MAC_FC_QUANTA : Fld := ⟨.macFcCtrl, 15, 0⟩
def MAC_PAUSE_HOLDOFF : Fld := ⟨.macFcWd, 31, 16⟩
def MAC_PAUSE_WD : Fld := ⟨.macFcWd, 15, 0⟩
def MAC_LPI_IDLE : Fld := ⟨.macLpiCtrl, 31, 16⟩
def MAC_LPI_ACTIVE : Fld := ⟨.macLpiCtrl, 1, 1⟩
def MAC_LPI_EN : Fld := ⟨.macLpiCtrl, 0, 0⟩
def MAC_TW_TX : Fld := ⟨.macLpiSts, 31, 16⟩
def MAC_TW_RX : Fld := ⟨.macLpiSts, 15, 0⟩
def MAC_TS_PTP_MISS : Fld := ⟨.macTsMiss, 31, 16⟩
def MAC_TS_PROBE_MISS : Fld := ⟨.macTsMiss, 15, 0⟩
def CLP_TIME : Fld := ⟨.clpTime, 63, 0⟩
def CLP_TIME_FRAC : Fld := ⟨.clpTimeFrac, 15, 0⟩
def CLP_DREQ_LOG2 : Fld := ⟨.clpCtrl, 23, 20⟩
def CLP_PPS_OUT_EN : Fld := ⟨.clpCtrl, 18, 18⟩
def CLP_PTP_XPORT : Fld := ⟨.clpCtrl, 17, 16⟩
def CLP_PTP_DOMAIN : Fld := ⟨.clpCtrl, 15, 8⟩
def CLP_PTP_PORT : Fld := ⟨.clpCtrl, 7, 4⟩
def CLP_SRC : Fld := ⟨.clpCtrl, 2, 0⟩
def CLP_STEP_NS : Fld := ⟨.clpLoop, 31, 16⟩
def CLP_LOCK_NS : Fld := ⟨.clpLoop, 15, 8⟩
def CLP_KP_SHIFT : Fld := ⟨.clpLoop, 7, 4⟩
def CLP_KI_SHIFT : Fld := ⟨.clpLoop, 3, 0⟩
def CLP_SET : Fld := ⟨.clpSet, 63, 0⟩
def CLP_STATE : Fld := ⟨.clpStatus, 31, 30⟩
def CLP_SEV_USED : Fld := ⟨.clpStatus, 26, 16⟩
def CLP_E_PTP : Fld := ⟨.clpErrSts, 4, 4⟩
def CLP_E_LOSS : Fld := ⟨.clpErrSts, 3, 3⟩
def CLP_E_STEP : Fld := ⟨.clpErrSts, 2, 2⟩
def CLP_E_NOENTRY : Fld := ⟨.clpErrSts, 1, 1⟩
def CLP_EF_KIND : Fld := ⟨.clpErrFirst, 63, 56⟩
def CLP_EF_OWNER : Fld := ⟨.clpErrFirst, 55, 48⟩
def CLP_EF_OFFSET : Fld := ⟨.clpErrFirst, 47, 16⟩
def CLP_EF_VALID : Fld := ⟨.clpErrFirst, 15, 15⟩
def CLP_EF_CAUSE : Fld := ⟨.clpErrFirst, 3, 0⟩
def CLP_OFFSET : Fld := ⟨.clpOffset, 63, 0⟩
def CLP_FREQ : Fld := ⟨.clpFreq, 31, 0⟩
def CLP_TX_LAT : Fld := ⟨.clpPortLat, 31, 16⟩
def CLP_RX_LAT : Fld := ⟨.clpPortLat, 15, 0⟩
def CLP_PTP_SRCIP : Fld := ⟨.clpPtpSrcip, 31, 0⟩
def CLP_BAR_TIME : Fld := ⟨.clpBarTime, 63, 0⟩
def CLP_BAR_POOLS : Fld := ⟨.clpBarPools, 63, 0⟩
def CLP_BAR_STATE : Fld := ⟨.clpBarCtrl, 31, 30⟩
def CLP_BAR_RESULT : Fld := ⟨.clpBarCtrl, 23, 16⟩
def CLP_BAR_CANCEL : Fld := ⟨.clpBarCtrl, 1, 1⟩
def CLP_BAR_ARM : Fld := ⟨.clpBarCtrl, 0, 0⟩
def CLP_SNAP_TIME : Fld := ⟨.clpSnapTime, 63, 0⟩
def CLP_SNAP_PENDING : Fld := ⟨.clpSnapCtrl, 31, 31⟩
def CLP_SNAP_RESULT : Fld := ⟨.clpSnapCtrl, 23, 16⟩
def CLP_SNAP_MODE : Fld := ⟨.clpSnapCtrl, 2, 1⟩
def CLP_SNAP_ARM : Fld := ⟨.clpSnapCtrl, 0, 0⟩
def HMP_MFR_ID : Fld := ⟨.hmpChCtrl, 15, 8⟩
def HMP_EN : Fld := ⟨.hmpChCtrl, 0, 0⟩
def HMP_CH_EPOCH : Fld := ⟨.hmpChSts, 31, 16⟩
def HMP_CH_FILL_DONE : Fld := ⟨.hmpChSts, 15, 15⟩
def HMP_CH_FILL_PENDING : Fld := ⟨.hmpChSts, 14, 14⟩
def HMP_CH_DRAINING : Fld := ⟨.hmpChSts, 9, 9⟩
def HMP_TRAINED : Fld := ⟨.hmpChSts, 8, 8⟩
def HMP_DRAIN_COUNT : Fld := ⟨.hmpChDrain, 31, 0⟩
def HMP_E_MAP : Fld := ⟨.hmpErrSts, 7, 7⟩
def HMP_E_SRAM_UE : Fld := ⟨.hmpErrSts, 6, 6⟩
def HMP_E_SRAM_CE : Fld := ⟨.hmpErrSts, 5, 5⟩
def HMP_E_FILL : Fld := ⟨.hmpErrSts, 4, 4⟩
def HMP_E_DRAIN : Fld := ⟨.hmpErrSts, 3, 3⟩
def HMP_E_UNFILLED : Fld := ⟨.hmpErrSts, 2, 2⟩
def HMP_E_APERTURE : Fld := ⟨.hmpErrSts, 1, 1⟩
def HMP_EF_OFFSET : Fld := ⟨.hmpErrFirst, 63, 36⟩
def HMP_EF_PAGE : Fld := ⟨.hmpErrFirst, 35, 24⟩
def HMP_EF_PART : Fld := ⟨.hmpErrFirst, 21, 16⟩
def HMP_EF_VALID : Fld := ⟨.hmpErrFirst, 15, 15⟩
def HMP_EF_CHANNEL : Fld := ⟨.hmpErrFirst, 4, 4⟩
def HMP_EF_CAUSE : Fld := ⟨.hmpErrFirst, 3, 0⟩
def HMP_MAP_VA : Fld := ⟨.hmpMap, 47, 12⟩
def HMP_MAP_PART : Fld := ⟨.hmpMap, 11, 6⟩
def HMP_MAP_MODE : Fld := ⟨.hmpMap, 3, 2⟩
def SEC_SVN_FUSE : Fld := ⟨.secBoot, 31, 24⟩
def SEC_SVN_IMG : Fld := ⟨.secBoot, 23, 16⟩
def SEC_BOOT_RESULT : Fld := ⟨.secBoot, 11, 8⟩
def SEC_BOOT_SLOT : Fld := ⟨.secBoot, 5, 4⟩
def SEC_DEBUG : Fld := ⟨.secBoot, 3, 3⟩
def SEC_BOOT_COPY : Fld := ⟨.secBoot, 0, 0⟩
def SEC_SVN_TARGET : Fld := ⟨.secSvnBurn, 7, 0⟩
def SEC_E_CMD : Fld := ⟨.secErrSts, 4, 4⟩
def SEC_E_OP : Fld := ⟨.secErrSts, 3, 3⟩
def SEC_E_SCRUB : Fld := ⟨.secErrSts, 2, 2⟩
def SEC_E_TEE : Fld := ⟨.secErrSts, 1, 1⟩
def SEC_E_IDE : Fld := ⟨.secErrSts, 0, 0⟩
def SEC_EF_STATUS : Fld := ⟨.secErrFirst, 31, 24⟩
def SEC_EF_PART : Fld := ⟨.secErrFirst, 21, 16⟩
def SEC_EF_VALID : Fld := ⟨.secErrFirst, 15, 15⟩
def SEC_EF_STREAM : Fld := ⟨.secErrFirst, 6, 4⟩
def SEC_EF_CAUSE : Fld := ⟨.secErrFirst, 3, 0⟩
def SEC_TDI_STATE : Fld := ⟨.secConf, 31, 30⟩
def SEC_STREAM : Fld := ⟨.secConf, 10, 8⟩
def SEC_NET_PLAIN : Fld := ⟨.secConf, 0, 0⟩
def SEC_OP_VA : Fld := ⟨.secOpAddr, 47, 6⟩
def SEC_OP_BUSY : Fld := ⟨.secOpCtrl, 31, 31⟩
def SEC_OP_STATUS : Fld := ⟨.secOpCtrl, 23, 16⟩
def SEC_OP_GO : Fld := ⟨.secOpCtrl, 0, 0⟩
def WEIR_BUSY : Fld := ⟨.weirStatus, 31, 31⟩
def WEIR_LINK : Fld := ⟨.weirStatus, 30, 30⟩
def WEIR_SEAL_FITTED : Fld := ⟨.weirStatus, 29, 29⟩
def WEIR_FAULT : Fld := ⟨.weirStatus, 28, 28⟩
def WEIR_PENDING : Fld := ⟨.weirStatus, 19, 16⟩
def WEIR_SEAL_COUNT : Fld := ⟨.weirStatus, 15, 0⟩
def WEIR_CMD_STATUS : Fld := ⟨.weirCmd, 23, 16⟩
def WEIR_CMD_PART : Fld := ⟨.weirCmd, 13, 8⟩
def WEIR_CMD_OP : Fld := ⟨.weirCmd, 3, 0⟩
def WEIR_ARG : Fld := ⟨.weirArg, 63, 0⟩
def WEIR_LOG_NEXT : Fld := ⟨.weirLog, 63, 32⟩
def WEIR_LOG_OLDEST : Fld := ⟨.weirLog, 31, 0⟩
def WEIR_LOG_READ : Fld := ⟨.weirLogRead, 31, 0⟩
def WEIR_ENERGY : Fld := ⟨.weirEnergy, 63, 0⟩
def WEIR_HOLDUP : Fld := ⟨.weirPower, 31, 16⟩
def WEIR_POWER_DW : Fld := ⟨.weirPower, 15, 0⟩
def WEIR_INTERVAL_MIN : Fld := ⟨.weirCfg, 15, 0⟩
def WEIR_E_NVM : Fld := ⟨.weirErrSts, 5, 5⟩
def WEIR_E_DROP : Fld := ⟨.weirErrSts, 4, 4⟩
def WEIR_E_LINK : Fld := ⟨.weirErrSts, 3, 3⟩
def WEIR_E_FULL : Fld := ⟨.weirErrSts, 2, 2⟩
def WEIR_E_DEFER : Fld := ⟨.weirErrSts, 1, 1⟩
def WEIR_E_CMD : Fld := ⟨.weirErrSts, 0, 0⟩
def WEIR_EF_SEQ : Fld := ⟨.weirErrFirst, 63, 32⟩
def WEIR_EF_STATUS : Fld := ⟨.weirErrFirst, 31, 24⟩
def WEIR_EF_PART : Fld := ⟨.weirErrFirst, 21, 16⟩
def WEIR_EF_VALID : Fld := ⟨.weirErrFirst, 15, 15⟩
def WEIR_EF_CAUSE : Fld := ⟨.weirErrFirst, 3, 0⟩
def WEIR_RECORD : Fld := ⟨.weirRecord, 31, 0⟩
def PWR_FIXED_OP : Fld := ⟨.pwrCtrl, 6, 4⟩
def PWR_BOOST_EN : Fld := ⟨.pwrCtrl, 1, 1⟩
def PWR_MODE : Fld := ⟨.pwrCtrl, 0, 0⟩
def PWR_BRAKE_A : Fld := ⟨.pwrCap, 31, 28⟩
def PWR_BRAKE_W : Fld := ⟨.pwrCap, 26, 16⟩
def PWR_CAP_W : Fld := ⟨.pwrCap, 10, 0⟩
def PWR_UNREACH_NOW : Fld := ⟨.pwrStatus, 31, 31⟩
def PWR_BRAKE_ON : Fld := ⟨.pwrStatus, 30, 30⟩
def PWR_AIRFLOW_STATE : Fld := ⟨.pwrStatus, 29, 29⟩
def PWR_TRIPPED : Fld := ⟨.pwrStatus, 28, 28⟩
def PWR_LIMITER : Fld := ⟨.pwrStatus, 21, 20⟩
def PWR_A : Fld := ⟨.pwrStatus, 12, 8⟩
def PWR_OP : Fld := ⟨.pwrStatus, 2, 0⟩
def PWR_LIMIT_W : Fld := ⟨.pwrPower, 31, 16⟩
def PWR_INPUT_DW : Fld := ⟨.pwrPower, 15, 0⟩
def PWR_T_TIER : Fld := ⟨.pwrTemp, 31, 24⟩
def PWR_T_PLINTH : Fld := ⟨.pwrTemp, 23, 16⟩
def PWR_T_MEM : Fld := ⟨.pwrTemp, 15, 8⟩
def PWR_T_VR : Fld := ⟨.pwrTemp, 7, 0⟩
def PWR_T_ALERT : Fld := ⟨.pwrTherm, 23, 16⟩
def PWR_T_MEM_CTL : Fld := ⟨.pwrTherm, 15, 8⟩
def PWR_T_CTL : Fld := ⟨.pwrTherm, 7, 0⟩
def PWR_E_SENSOR : Fld := ⟨.pwrErrSts, 5, 5⟩
def PWR_E_AIRFLOW : Fld := ⟨.pwrErrSts, 4, 4⟩
def PWR_E_TRIP : Fld := ⟨.pwrErrSts, 3, 3⟩
def PWR_E_THERM : Fld := ⟨.pwrErrSts, 2, 2⟩
def PWR_E_BRAKE : Fld := ⟨.pwrErrSts, 1, 1⟩
def PWR_E_UNREACH : Fld := ⟨.pwrErrSts, 0, 0⟩
def PWR_EF_INPUT_W : Fld := ⟨.pwrErrFirst, 63, 48⟩
def PWR_EF_TEMP : Fld := ⟨.pwrErrFirst, 47, 40⟩
def PWR_EF_SENSOR : Fld := ⟨.pwrErrFirst, 39, 32⟩
def PWR_EF_VALID : Fld := ⟨.pwrErrFirst, 15, 15⟩
def PWR_EF_CAUSE : Fld := ⟨.pwrErrFirst, 3, 0⟩
def LNK_REPLAY_LIMIT : Fld := ⟨.lnkCtrl, 31, 16⟩
def LNK_SET_ID : Fld := ⟨.lnkIdent, 63, 32⟩
def LNK_BAD_TIERS : Fld := ⟨.lnkIdent, 19, 16⟩
def LNK_ID_RESULT : Fld := ⟨.lnkIdent, 15, 8⟩
def LNK_DIAG : Fld := ⟨.lnkIdent, 0, 0⟩
def LNK_E_IDENT : Fld := ⟨.lnkErrSts, 4, 4⟩
def LNK_E_FENCE : Fld := ⟨.lnkErrSts, 3, 3⟩
def LNK_E_RETIRE : Fld := ⟨.lnkErrSts, 2, 2⟩
def LNK_E_SPARE : Fld := ⟨.lnkErrSts, 1, 1⟩
def LNK_E_REPLAY : Fld := ⟨.lnkErrSts, 0, 0⟩
def LNK_EF_LANE : Fld := ⟨.lnkErrFirst, 45, 40⟩
def LNK_EF_GROUP : Fld := ⟨.lnkErrFirst, 39, 36⟩
def LNK_EF_DIR : Fld := ⟨.lnkErrFirst, 35, 35⟩
def LNK_EF_LINK : Fld := ⟨.lnkErrFirst, 34, 32⟩
def LNK_EF_VALID : Fld := ⟨.lnkErrFirst, 15, 15⟩
def LNK_EF_CAUSE : Fld := ⟨.lnkErrFirst, 3, 0⟩
def LNK_GRP_RETIRED : Fld := ⟨.lnkState, 63, 48⟩
def LNK_SPARES_USED : Fld := ⟨.lnkState, 47, 16⟩
def LNK_GRP_LOST : Fld := ⟨.lnkState, 7, 4⟩
def LNK_LINK_STATE : Fld := ⟨.lnkState, 1, 0⟩
def PMC_SNAP_SEQ : Fld := ⟨.pmcCtrl, 31, 16⟩
def PMC_FROZEN : Fld := ⟨.pmcCtrl, 5, 5⟩
def PMC_CLEAR : Fld := ⟨.pmcCtrl, 4, 4⟩
def PMC_THAW_NOW : Fld := ⟨.pmcCtrl, 3, 3⟩
def PMC_FREEZE_NOW : Fld := ⟨.pmcCtrl, 2, 2⟩
def PMC_SNAP_NOW : Fld := ⟨.pmcCtrl, 1, 1⟩
def PMC_SNAP_STAMP : Fld := ⟨.pmcSnapStamp, 63, 0⟩
def PMC_TAG_LOG2 : Fld := ⟨.pmcTagCtrl, 19, 16⟩
def PMC_TAG_RATE : Fld := ⟨.pmcTagCtrl, 12, 8⟩
def PMC_TAG_EN : Fld := ⟨.pmcTagCtrl, 0, 0⟩
def PMC_TAG_SEED : Fld := ⟨.pmcTagSeed, 31, 0⟩
def PMC_TAG_BUS : Fld := ⟨.pmcTagBus, 63, 12⟩
def PMC_TAG_TAIL : Fld := ⟨.pmcTagIdx, 31, 16⟩
def PMC_TAG_HEAD : Fld := ⟨.pmcTagIdx, 15, 0⟩
def PMC_TAG_LOST : Fld := ⟨.pmcTagLost, 31, 0⟩
def PMC_PART : Fld := ⟨.pmcSel, 37, 32⟩
def PMC_EN : Fld := ⟨.pmcSel, 31, 31⟩
def PMC_PART_EN : Fld := ⟨.pmcSel, 30, 30⟩
def PMC_UNIT : Fld := ⟨.pmcSel, 27, 16⟩
def PMC_EVENT : Fld := ⟨.pmcSel, 15, 0⟩
def PMC_GEN : Fld := ⟨.pmcGen, 63, 0⟩
def PMC_GEN_SH : Fld := ⟨.pmcGenSh, 63, 0⟩
def PMC_PORT : Fld := ⟨.pmcPort, 63, 0⟩
def PMC_PORT_SH : Fld := ⟨.pmcPortSh, 63, 0⟩
def PMC_CELL : Fld := ⟨.pmcCell, 63, 0⟩
def PMC_CELL_SH : Fld := ⟨.pmcCellSh, 63, 0⟩
def POOL_RESERVE : Fld := ⟨.poolId, 27, 26⟩
def POOL_LEAD : Fld := ⟨.poolId, 25, 25⟩
def POOL_COMPOSED : Fld := ⟨.poolId, 24, 24⟩
def POOL_GUEST_VALID : Fld := ⟨.poolId, 23, 23⟩
def POOL_GUEST : Fld := ⟨.poolId, 21, 16⟩
def POOL_OWNER_VALID : Fld := ⟨.poolId, 15, 15⟩
def POOL_OWNER : Fld := ⟨.poolId, 13, 8⟩
def POOL_INDEX : Fld := ⟨.poolId, 5, 0⟩
def POOL_CORE_HALTED : Fld := ⟨.poolCoreCtrl, 1, 1⟩
def POOL_CORE_RUN : Fld := ⟨.poolCoreCtrl, 0, 0⟩
def POOL_CORE_PC_VA : Fld := ⟨.poolCorePc, 47, 1⟩
def POOL_IRQ_GUARD : Fld := ⟨.poolIrqSts, 3, 3⟩
def POOL_IRQ_DMA : Fld := ⟨.poolIrqSts, 2, 2⟩
def POOL_IRQ_CPL : Fld := ⟨.poolIrqSts, 1, 1⟩
def POOL_IRQ_WO : Fld := ⟨.poolIrqSts, 0, 0⟩
def POOL_IRQ_GUARD_EN : Fld := ⟨.poolIrqEn, 3, 3⟩
def POOL_IRQ_DMA_EN : Fld := ⟨.poolIrqEn, 2, 2⟩
def POOL_IRQ_CPL_EN : Fld := ⟨.poolIrqEn, 1, 1⟩
def POOL_IRQ_WO_EN : Fld := ⟨.poolIrqEn, 0, 0⟩
def POOL_E_WO : Fld := ⟨.poolErrSts, 5, 5⟩
def POOL_E_CACHE_UE : Fld := ⟨.poolErrSts, 4, 4⟩
def POOL_E_CACHE_CE : Fld := ⟨.poolErrSts, 3, 3⟩
def POOL_E_ACCESS : Fld := ⟨.poolErrSts, 2, 2⟩
def POOL_E_SHARD : Fld := ⟨.poolErrSts, 1, 1⟩
def POOL_E_ISSUE : Fld := ⟨.poolErrSts, 0, 0⟩
def POOL_EF_INFO : Fld := ⟨.poolErrFirst, 63, 16⟩
def POOL_EF_VALID : Fld := ⟨.poolErrFirst, 15, 15⟩
def POOL_EF_CAUSE : Fld := ⟨.poolErrFirst, 3, 0⟩
def POOL_SG_VA : Fld := ⟨.poolSgAddr, 47, 5⟩
def POOL_SG_TENSOR_HI : Fld := ⟨.poolSgRange, 31, 16⟩
def POOL_SG_TENSOR_LO : Fld := ⟨.poolSgRange, 15, 0⟩
def POOL_SG_STATE : Fld := ⟨.poolSgCtrl, 19, 18⟩
def POOL_SG_DISARM : Fld := ⟨.poolSgCtrl, 17, 17⟩
def POOL_SG_ARM : Fld := ⟨.poolSgCtrl, 16, 16⟩
def POOL_SG_EPOCH : Fld := ⟨.poolSgCtrl, 15, 0⟩
def DMA_CH_SRC : Fld := ⟨.dmaChSrc, 47, 0⟩
def DMA_DST_HI : Fld := ⟨.dmaChDst, 63, 48⟩
def DMA_DST_MID : Fld := ⟨.dmaChDst, 47, 32⟩
def DMA_DST_LO : Fld := ⟨.dmaChDst, 31, 0⟩
def DMA_CH_FILL : Fld := ⟨.dmaChFill, 63, 0⟩
def DMA_CH_SCL : Fld := ⟨.dmaChScl, 47, 0⟩
def DMA_CH_CELLS : Fld := ⟨.dmaChCells, 63, 0⟩
def DMA_CH_STS_VA : Fld := ⟨.dmaChStsVa, 47, 0⟩
def DMA_CH_TAG : Fld := ⟨.dmaChTag, 63, 0⟩
def DMA_CH_CNT0 : Fld := ⟨.dmaChCnt0, 23, 0⟩
def DMA_CH_CNT1 : Fld := ⟨.dmaChCnt1, 23, 0⟩
def DMA_CH_CNT2 : Fld := ⟨.dmaChCnt2, 23, 0⟩
def DMA_CH_SS0 : Fld := ⟨.dmaChSs0, 31, 0⟩
def DMA_CH_SS1 : Fld := ⟨.dmaChSs1, 31, 0⟩
def DMA_CH_SS2 : Fld := ⟨.dmaChSs2, 31, 0⟩
def DMA_CH_DS0 : Fld := ⟨.dmaChDs0, 31, 0⟩
def DMA_CH_DS1 : Fld := ⟨.dmaChDs1, 31, 0⟩
def DMA_CH_DS2 : Fld := ⟨.dmaChDs2, 31, 0⟩
def DMA_CH_SCL_STEP : Fld := ⟨.dmaChSclStep, 31, 0⟩
def DMA_VEC : Fld := ⟨.dmaChCfg, 29, 24⟩
def DMA_IRQ : Fld := ⟨.dmaChCfg, 20, 20⟩
def DMA_XCEIL : Fld := ⟨.dmaChCfg, 19, 12⟩
def DMA_DST_FMT : Fld := ⟨.dmaChCfg, 11, 8⟩
def DMA_SRC_FMT : Fld := ⟨.dmaChCfg, 7, 4⟩
def DMA_ESIZE : Fld := ⟨.dmaChCfg, 3, 2⟩
def DMA_MODE : Fld := ⟨.dmaChCfg, 1, 0⟩
def DMA_BUSY : Fld := ⟨.dmaChCtrl, 31, 31⟩
def DMA_LAST_STATUS : Fld := ⟨.dmaChCtrl, 23, 16⟩
def DMA_ABORT : Fld := ⟨.dmaChCtrl, 1, 1⟩
def DMA_GO : Fld := ⟨.dmaChCtrl, 0, 0⟩
def DMA_PEND : Fld := ⟨.dmaSlicePend, 7, 0⟩

end F

end Sys2Proof.Machine
end

