-- ==== Sys2Proof/Machine/Sparse.lean ====
section
/-! DEFINITION. Sparse tables in one canonical form: pairs of a key and a value, keys strictly rising,
and no pair whose value is the one an unlisted key reads as. Memory, the register file, the SRAMs and
every table of the block that the spec indexes by a number are held this way, so equal contents are
equal data. -/

namespace Sys2Proof.Machine

/-- The value at key `k`; `d` is what an unlisted key reads as. -/
def sget {α : Type} (d : α) : List (Nat × α) → Nat → α
  | [], _ => d
  | (k', v') :: m, k => if k = k' then v' else sget d m k

/-- Remove key `k`. -/
def sdrop {α : Type} (m : List (Nat × α)) (k : Nat) : List (Nat × α) := m.filter fun e => e.1 ≠ k

/-- Insert a pair before the first larger key. -/
def sins {α : Type} (k : Nat) (v : α) : List (Nat × α) → List (Nat × α)
  | [] => [(k, v)]
  | (k', v') :: m => if k < k' then (k, v) :: (k', v') :: m else (k', v') :: sins k v m

/-- Write `v` at key `k`; writing `d` removes the entry. -/
def sput {α : Type} [DecidableEq α] (d : α) (m : List (Nat × α)) (k : Nat) (v : α) : List (Nat × α) :=
  if v = d then sdrop m k else sins k v (sdrop m k)

/-- Every key of `m` lies above `lo` (when there is one), keys rise strictly, and no value is `d`. -/
def swfFrom {α : Type} [DecidableEq α] (d : α) : Option Nat → List (Nat × α) → Bool
  | _, [] => true
  | lo, (k, v) :: m =>
    (match lo with
      | none => true
      | some l => decide (l < k)) && decide (v ≠ d) && swfFrom d (some k) m

/-- The canonical form. -/
def swf {α : Type} [DecidableEq α] (d : α) (m : List (Nat × α)) : Bool := swfFrom d none m

/-- Keep only the pairs whose key satisfies `p`. -/
def sfilter {α : Type} (p : Nat → Bool) (m : List (Nat × α)) : List (Nat × α) :=
  m.filter fun e => p e.1

/-- Write a run of values at consecutive keys. -/
def sputRun {α : Type} [DecidableEq α] (d : α) (m : List (Nat × α)) (k : Nat) : List α → List (Nat × α)
  | [] => m
  | v :: vs => sputRun d (sput d m k v) (k + 1) vs

/-- Read `n` values at consecutive keys. -/
def sgetRun {α : Type} (d : α) (m : List (Nat × α)) (k : Nat) : Nat → List α
  | 0 => []
  | n + 1 => sget d m k :: sgetRun d m (k + 1) n

/-- The lowest key in `[lo, lo + n)` that reads as `d`, if any. -/
def sfree {α : Type} [DecidableEq α] (d : α) (m : List (Nat × α)) (lo : Nat) : Nat → Option Nat
  | 0 => none
  | n + 1 => if sget d m lo = d then some lo else sfree d m (lo + 1) n

end Sys2Proof.Machine
end

