-- ==== Sys2Proof/Machine/State.lean ====
section
/-! DEFINITION. The state of the block: every register, memory, queue, table, counter, mode and pin that
the spec gives it, as plain data, and the queue of waiting commands. -/

namespace Sys2Proof.Machine

/-- No command stops the block in this model: every event the spec describes has an effect, and one that
the state does not allow changes nothing (log entry 2). The type has one reason, kept for a state that no
command leads to. -/
inductive Fault where
  /-- Raised by nothing; safe. -/
  | none
  deriving DecidableEq, Repr

/-- Why a command has no meaning. -/
inductive Refusal where
  /-- A command whose meaning is not written yet, by its mnemonic; safe. -/
  | notModelled (mnemonic : String)
  deriving DecidableEq, Repr

/-- Responses of memory (R177). -/
inductive Resp where
  | okay | ue | xlate | perm | range
  deriving DecidableEq, Repr

/-- Requests of CXL.cache and the answer to a snoop (R304, R317). -/
inductive CxlOp where
  | rdShared | cleanEvict
  /-- the answer to a snoop: whether the device keeps the line, Shared -/
  | snoopAnswer (keeps : Bool)
  deriving DecidableEq, Repr

/-- Commands to an LPDDR6 channel that no access carries (R166, R179, R180). -/
inductive DramCmd where
  | refreshBank (bank : Nat)
  | refreshManagement (bank : Nat)
  | powerDownEntry | powerDownExit
  | selfRefreshEntry | selfRefreshExit
  | readTemperature | readOscillator | adjustWriteTiming
  deriving DecidableEq, Repr

/-- Output pins of the module connector (spec/24). -/
inductive Pin where
  | clkPpsOut | thermAlert | modPrsnt | modType
  deriving DecidableEq, Repr

/-- What the module puts on a pin: a level, its ground, or nothing (R496). -/
inductive PinLevel where
  | low | high | ground | open_
  deriving DecidableEq, Repr

/-- Errors that the TDISP responder answers with (R397). -/
inductive TdispErr where
  | invalidDeviceConfiguration
  | invalidInterfaceState
  deriving DecidableEq, Repr

/-- The TDISP messages that the device supports (R395). -/
inductive TdispMsg where
  | getVersion | getCapabilities | lockInterface | getInterfaceReport | getInterfaceState | startInterface | stopInterface
  deriving DecidableEq, Repr

/-- Capabilities that DSP0274 lets a responder announce. -/
inductive SpdmCap where
  | cert | chal | meas | encrypt | mac | keyExchange | heartbeat | keyUpdate | chunk | mutualAuth | encapsulated | psk
  | setCertificate | csr
  deriving DecidableEq, Repr

/-- The algorithms of R394. -/
inductive SpdmAlg where
  | ecdsaP384 | sha384 | secp384r1 | aes256Gcm
  deriving DecidableEq, Repr

/-- TDISP responses (R395). -/
inductive TdispResp where
  | version
  /-- the messages supported (R395) -/
  | capabilities (l : List TdispMsg)
  | locked
  /-- the interface report: its MMIO ranges (BAR, size, whether TEE-accessible) and its device-specific area -/
  | report (ranges : List (Nat × Nat × Bool)) (area : List Byte)
  | state (n : Nat)
  | started | stopped
  | error (e : TdispErr)
  deriving DecidableEq, Repr

/-- Errors that the SPDM responder answers with. -/
inductive SpdmErr where
  | unexpectedRequest | invalidRequest | invalidSession | sessionLimitExceeded
  | largeResponse (handle : Nat)
  deriving DecidableEq, Repr

/-- SPDM responses (R394); a measurement block is its index, whether it is a raw bit stream, and its content. -/
inductive SpdmResp where
  | version (l : List Nat)
  /-- the capabilities announced, and the size of a message (R394) -/
  | capabilities (l : List SpdmCap) (size : Nat)
  | algorithms (l : List SpdmAlg)
  | digests (mask : Nat) (digest : List Byte)
  | certificate (portion : List Byte) (remainder : Nat)
  | challengeAuth (digest sig : List Byte)
  | measurements (count : Nat) (blocks : List (Nat × Bool × List Byte)) (sig : List Byte)
  | keyExchange (session : Nat) (sig : List Byte)
  | finish | heartbeatAck
  | keyUpdateAck (op : Nat)
  | endSessionAck
  | chunkSendAck (seq : Nat)
  | chunk (seq : Nat) (last : Bool) (bytes : List Byte)
  /-- answers of IDE_KM: the streams, a key programmed or refused, a set started or stopped -/
  | ideQuery (streams : Nat)
  | ideKeyAck (ok : Bool)
  | ideGoStopAck (ok : Bool)
  | error (e : SpdmErr)
  deriving DecidableEq, Repr

/-- PLDM responses (R501). -/
inductive PldmResp where
  | tid (n : Nat)
  | done (ok : Bool)
  | version (type : Nat)
  | types (l : List Nat)
  | commands (l : List Nat)
  | repository (records : Nat)
  | pdr (record : Nat) (state : Bool) (sensor : Nat)
  /-- a numeric reading, `none` while it is unavailable -/
  | reading (value : Option Nat)
  | states (l : List (Option Nat))
  deriving DecidableEq, Repr

/-- What leaves the block: the model's record of its outputs, oldest first (log entry 1). -/
inductive Emission where
  /-- a posted write to a host bus address; `relaxed` is the Relaxed Ordering attribute (R322) -/
  | hostWrite (addr : Nat) (bytes : List Byte) (relaxed : Bool)
  /-- a posted write of the enabled bytes of the 64 at a host bus address; `relaxed` as above -/
  | hostPut (addr : Nat) (bytes : List Byte) (mask : List Bool) (relaxed : Bool)
  /-- a read request to a host bus address; `relaxed` as above -/
  | hostRead (addr len : Nat) (relaxed : Bool)
  /-- an MSI-X message of a function's vector: the address and the data of its table entry (R328) -/
  | msix (fn vec addr data : Nat)
  /-- a CXL.cache request or snoop answer for a ring's doorbell line (ring 16: the event queue), by the line's host bus
  address (R316, R317) -/
  | cxl (fn ring addr : Nat) (op : CxlOp)
  /-- the response to a memory access, with the data of a read -/
  | memResp (id : Nat) (resp : Resp) (data : List Byte)
  /-- a command to an LPDDR6 channel -/
  | dram (ch : Nat) (cmd : DramCmd)
  /-- a frame out of a logical port, and its egress capture in 2^-16 ns -/
  | frame (lp : Nat) (f : Frame) (cap : Option Nat)
  /-- a level on an output pin -/
  | pin (p : Pin) (level : Bool)
  /-- an Unsupported Request completion to the link -/
  | unsupported (fn off : Nat)
  /-- a burst returned to a host read through the Host Memory Port: data and check bytes (R350) -/
  | hmpData (ch : Nat) (bytes checks : List Byte)
  /-- a mode register read through the Host Memory Port -/
  | hmpMode (ch value : Nat)
  /-- an output that carries the T bit on an IDE stream (R401) -/
  | tbit (stream : Nat) (e : Emission)
  /-- data returned to a register read -/
  | regData (fn off : Nat) (value : Nat)
  /-- a response of the TDI of a partition -/
  | tdisp (part : Nat) (r : TdispResp)
  /-- an SPDM response on a transport: 0 DOE, 1 MCTP -/
  | spdm (transport : Nat) (r : SpdmResp)
  /-- a PLDM response, and a PlatformEventMessage of a state sensor to the event receiver -/
  | pldm (r : PldmResp)
  | platformEvent (receiver sensor value : Nat)
  /-- an MCTP control response: completion code and data -/
  | mctp (code : Nat) (data : List Nat)
  /-- the answer to a configuration request: none is Request Retry Status -/
  | config (fn : Nat) (value : Option Nat)
  /-- a character to the firmware console -/
  | console (c : Nat)
  deriving DecidableEq, Repr

/-- To whom a queued operation completes: the descriptor's ring, index and tag (R313), with the stage
times of a tagged work order (R479). -/
structure Ticket where
  fn : Nat
  ring : Nat
  idx : Nat
  tag : Nat
  irq : Bool
  tagged : Bool
  t0 : Nat
  t1 : Nat
  t2 : Nat
  t3 : Nat
  deriving DecidableEq, Repr
/-- A tile slot beside its partials (R63). -/
structure SlotSt where
  /-- pass count (R46) -/
  count : Nat := 0
  /-- overflow flag with its position, row and column in the logical tile -/
  ovf : Option (Nat × Nat) := none
  /-- long-sum mark -/
  long : Bool := false
  deriving DecidableEq, Repr

/-- A loaded table pair (R83, R84): the function part and, when present, the derivative part. -/
structure TablePair where
  emin : Int
  fnPinf : Nat
  fnNinf : Nat
  dvPinf : Nat
  dvNinf : Nat
  fn : List Byte
  dv : Option (List Byte)
  deriving DecidableEq, Repr

/-- The cells: operand SRAM, accumulator memory, slots, table pairs and generator contexts. -/
structure CellSt where
  /-- operand SRAM bytes, keyed by 196608 × cell + byte (R57) -/
  sram : List (Nat × Byte) := []
  /-- ownership tags of its lines, keyed by 1536 × cell + line: 0 invalid, else 1 + partition + 64 × guest
  (R406) -/
  sramOwn : List (Nat × Nat) := []
  /-- FP32 partials, keyed by 32 × (64 × (8 × cell + slot) + row) + column (R62) -/
  acc : List (Nat × Nat) := []
  /-- ownership tags of the rows, keyed by 64 × (8 × cell + slot) + row (R406) -/
  accOwn : List (Nat × Nat) := []
  /-- keyed by 8 × cell + slot -/
  slots : List (Nat × SlotSt) := []
  /-- keyed by 4 × cell + pair; an unlisted pair is empty -/
  pairs : List (Nat × Option TablePair) := []
  /-- generator contexts, keyed by 2 × cell + guest: state and step; an unlisted one is unseeded (R50) -/
  gens : List (Nat × Option (Nat × Nat)) := []
  /-- number of the next tile operation -/
  nextOp : Nat := 0
  deriving DecidableEq, Repr

/-- An open sample of the Tile Agreement Monitor (R135). -/
structure Sample where
  part : Nat
  slot : Nat
  /-- tensor of the chain's last operation -/
  tensor : Nat
  step : Nat
  /-- first row and column of the check block in the watched cell's part -/
  row : Nat
  col : Nat
  /-- a wide value came from a shadow -/
  wide : Bool
  deriving DecidableEq, Repr

/-- The check array and check buffer of one basin (R134, R135). -/
structure TamSt where
  /-- the watched cell, once the basin has a claiming pool -/
  watched : Option Nat := none
  /-- eligible chains counted -/
  n : Nat := 0
  sample : Option Sample := none
  /-- valid shadows, keyed by line: the 128 BF16 values -/
  shadow : List (Nat × List Nat) := []
  deriving DecidableEq, Repr

/-- A report of a cell's output path to the statistics merger (R81, R119). -/
structure Report where
  op : Nat
  part : Nat
  tensor : Nat
  step : Nat
  elems : Nat
  zeros : Nat
  flush : Nat
  sat : Nat
  nonfin : Nat
  amax : Nat
  deriving DecidableEq, Repr

/-- The outcome of a sample (R139): kind 0 to 15 its bin, 16 NONFINITE, 17 uncheckable, 18 abandoned; D / W
as FP32. -/
structure TamOutcome where
  part : Nat
  tensor : Nat
  step : Nat
  cell : Nat
  kind : Nat
  ratio : Nat
  deriving DecidableEq, Repr

/-- A close sweep or a ledger command that runs for the tables of a function (R124, R131, R141). -/
structure Sweep where
  /-- 0 close, 1 check, 2 initialisation -/
  kind : Nat
  step : Nat
  /-- partitions whose tables are still to be swept, the first one under way -/
  parts : List Nat
  /-- next entry of the first of them -/
  idx : Nat := 0
  /-- entries made cold so far: partition, count, lowest and highest tensor -/
  cold : List (Nat × Nat × Nat × Nat) := []
  deriving DecidableEq, Repr

/-- The statistics merger. -/
structure StaSt where
  reports : List Report := []
  outcomes : List TamOutcome := []
  /-- what runs, keyed by the function whose registers started it -/
  sweeps : List (Nat × Option Sweep) := []
  deriving DecidableEq, Repr

/-- A tile operation in a tile queue (R67, R151, R384). -/
structure TileOp where
  id : Nat
  part : Nat
  guest : Bool
  d : List Byte
  /-- 0 queued, 1 started and not at its last pass, 2 waiting for the output path, 3 finished -/
  phase : Nat := 0
  status : Nat := 0
  /-- cells of the group that have stopped with an error -/
  bad : List Nat := []
  /-- passes made by the cells of a guest operation that has started, and rows of its output path (R77) -/
  passes : Nat := 0
  outRow : Nat := 0
  /-- passes completed, by cell (R477) -/
  made : List (Nat × Nat) := []
  /-- the CEL_ROT_FREQ it rotates with, read when it started (R114) -/
  rot : List Nat := []
  /-- CEL_SR_CTRL read when the operation started (R48) -/
  sr : Nat := 0
  tagged : Bool := false
  t0 : Nat := 0
  t1 : Nat := 0
  t2 : Nat := 0
  t3 : Nat := 0
  deriving DecidableEq, Repr

/-- A completion waiting in POOL_TQ_CPL (R152). -/
structure Cpl where
  tag : Nat
  status : Nat
  opcode : Nat
  slot : Nat
  deriving DecidableEq, Repr

/-- A work order in the inbox of a pool (R153). -/
structure WorkOrder where
  ticket : Ticket
  bytes : List Byte
  deriving DecidableEq, Repr

/-- The guest work order that a pool works on (R384). -/
structure GuestWork where
  ticket : Ticket
  va : Nat
  count : Nat
  /-- descriptors issued -/
  next : Nat := 0
  /-- highest status so far -/
  worst : Nat := 0
  /-- no later descriptor is issued -/
  stopped : Bool := false
  deriving DecidableEq, Repr

/-- A line of a pool core's data cache. -/
structure CacheLine where
  bytes : List Byte
  dirty : Bool
  deriving DecidableEq, Repr

/-- A pool core (R144): the integer registers, the CSRs, the bytes of the floating-point and vector registers,
and the caches by line address. -/
structure CoreSt where
  pc : Nat := 0
  /-- machine mode -/
  machine : Bool := true
  x : List (Nat × Nat) := []
  csr : List (Nat × Nat) := []
  /-- f0 to f31, keyed by register -/
  f : List (Nat × Nat) := []
  /-- v0 to v31, keyed by register -/
  v : List (Nat × Nat) := []
  /-- the reservation of LR, an address -/
  res : Option Nat := none
  dcache : List (Nat × Option CacheLine) := []
  icache : List (Nat × Option (List Byte)) := []
  mtimecmp : Nat := 0
  /-- the machine timer interrupt is pending -/
  mtip : Bool := false
  /-- the core waits for an interrupt (WFI) -/
  waiting : Bool := false
  deriving DecidableEq, Repr

/-- A pool beside its registers. -/
structure PoolSt where
  /-- POOL_TQ_STAGE; absent bytes are zero -/
  stage : List Byte := []
  queue : List TileOp := []
  cpls : List Cpl := []
  inbox : List WorkOrder := []
  popped : List WorkOrder := []
  gqueue : List TileOp := []
  gwork : Option GuestWork := none
  /-- the head of the guest queue holds its cells (R385) -/
  grun : Bool := false
  core : CoreSt := {}
  /-- by shard guard: the record's address and the epoch of its pending check, as they stood when it was armed (R108) -/
  armed : List (Nat × Nat × Nat) := []
  deriving DecidableEq, Repr


/-- A pool entry of a Parterre image (R157). -/
structure PoolEnt where
  owner : Nat
  guest : Nat
  reserve : Nat
  deriving DecidableEq, Repr

/-- A basin entry of a Parterre image (R157). -/
structure BasinEnt where
  compose : Nat
  check : Nat
  deriving DecidableEq, Repr

/-- A partition record of a Parterre image (R157). -/
structure PartRec where
  flags : Nat
  wMem : Nat
  wNet : Nat
  wPcie : Nat
  wCell : Nat
  clp : Nat
  aqd : Nat
  cis : List Nat
  deriving DecidableEq, Repr

/-- A Parterre image as its fields (R156, R157). -/
structure Image where
  serial : Nat := 0
  pools : List PoolEnt := []
  basins : List BasinEnt := []
  parts : List PartRec := []
  pfClp : Nat := 0
  deriving DecidableEq, Repr

/-- The Parterre controller: the image in force (empty: none) and a check or load that runs. -/
structure PteSt where
  image : Image := {}
  /-- its bytes -/
  raw : List Byte := []
  /-- the load that runs: true for a check only -/
  running : Option Bool := none
  deriving DecidableEq, Repr

/-- A 64-byte access waiting at a channel controller, or sent over PCIe (R165, R171). -/
structure MemReq where
  id : Nat
  cls : Nat
  /-- the die that it comes from (R21) -/
  die : Die
  part : Nat
  va : Nat
  /-- address bits of the page whose translation it used, 0 none -/
  via : Nat
  addr : Nat
  /-- offset of its unit within the channel (R169) -/
  off : Nat
  write : Bool
  data : List Byte
  mask : List Bool
  deriving DecidableEq, Repr

/-- One channel controller (R165 to R181). -/
structure ChanSt where
  /-- tag[i] of R181, i = 64 the physical function -/
  tags : List (Nat × Nat) := []
  vnow : Nat := 0
  queue : List MemReq := []
  powerDown : Bool := false
  selfRefresh : Bool := false
  /-- grant slots since the patrol last took one that a partition was ready for (R178) -/
  slots : Nat := 0
  /-- next codeword of the patrol, and the period of the time clock in which its schedule began the present pass -/
  patrol : Nat := 0
  patrolAt : Nat := 0
  /-- above 85 °C: refresh at half the nominal interval (R179) -/
  hot : Bool := false
  /-- bank the next per-bank refresh goes to -/
  bank : Nat := 0
  /-- activates counted per bank since its last refresh-management command (R180) -/
  activates : List (Nat × Nat) := []
  /-- training failed (R167) -/
  failed : Bool := false
  deriving DecidableEq, Repr

/-- A cached translation (R174): a leaf of level `level` read for `part`. -/
structure TlbEnt where
  part : Nat
  page : Nat
  level : Nat
  pte : Nat
  deriving DecidableEq, Repr

/-- The wrong symbols of a codeword, and the last upset that struck it (R175, R176). -/
structure CodewordSt where
  errs : List (Nat × Nat) := []
  serial : Nat := 0
  deriving DecidableEq, Repr

/-- The memory subsystem beside its registers and the bytes themselves. -/
structure MemSt where
  chans : List (Nat × ChanSt) := []
  /-- codewords that an upset has struck, keyed by physical byte key / 32; an unlisted one is as it was written -/
  words : List (Nat × CodewordSt) := []
  tlb : List TlbEnt := []
  /-- reads sent over PCIe and not answered -/
  hostOut : List MemReq := []
  nextId : Nat := 0
  /-- the invalidation that runs: scope, partition, virtual address (R174) -/
  inval : Option (Nat × Nat × Nat) := none
  /-- temperature last read of each package, degrees (R179) -/
  temps : List (Nat × Nat) := []
  deriving DecidableEq, Repr
/-- A rank entry (R203). -/
structure RankEnt where
  terrace : Nat
  localIx : Nat
  lanes : Nat
  flow : Nat
  deriving DecidableEq, Repr

/-- An armed group's descriptor (R202). -/
structure GroupHdr where
  key : Nat := 0
  self_ : Nat := 0
  n : Nat := 1
  slotted : Bool := false
  frag : Nat := 0
  nb : Nat := 1
  bucketsVa : Nat := 0
  holdVa : Nat := 0
  holdBytes : Nat := 0
  holdSlots : Nat := 0
  t0 : Nat := 0
  slotLen : Nat := 0
  guard : Nat := 0
  lateUs : Nat := 0
  ranks : List RankEnt := []
  deriving DecidableEq, Repr

/-- A contribution in a hold slot (R216). -/
structure Held where
  rank : Nat
  slot : Nat
  frags : List Nat
  zero : Bool
  deriving DecidableEq, Repr

/-- A bucket at its owner (R214 to R221). -/
structure OwnBkt where
  /-- 0 IDLE, 1 WAIT_SPACE, 2 COLLECT, 3 UPDATE in WAIT_GATE, 4 UPDATE in UPDATING, 5 GATHER -/
  st : Nat := 0
  epoch : Nat := 0
  /-- last retired epoch since arming -/
  retired : Option Nat := none
  tier : Nat := 0
  units : Nat := 0
  elems : Nat := 0
  /-- contributions folded over all elements -/
  folded : Nat := 0
  /-- fragments folded of the contribution in turn -/
  frags : List Nat := []
  /-- the sum in the Cistern, element to FP32 -/
  sum : List (Nat × Nat) := []
  held : List Held := []
  /-- hold slots reserved for called ranks: rank and slot -/
  reserved : List (Nat × Nat) := []
  deferred : List Nat := []
  /-- contributions deferred for an epoch to come: rank and epoch -/
  later : List (Nat × Nat) := []
  /-- residue mismatches of this epoch -/
  mism : Nat := 0
  /-- time of the first accepted contribution -/
  since : Option Nat := none
  /-- LATE_RANK has been raised -/
  late : Bool := false
  /-- gate debt: rank and epoch, one entry a unit (R110, R227) -/
  debt : List (Nat × Nat) := []
  /-- re-gather requests held while the bucket is UPDATING: rank -/
  reqs : List Nat := []
  /-- when its conditions other than the engine's room were met (R191) -/
  readyAt : Option Nat := none
  /-- address of the update record, and the record read when the update started -/
  recVa : Nat := 0
  rec_ : List Byte := []
  recOk : Bool := false
  /-- what the update that has started does: 0 a pass, 1 nothing (already applied), 2 skips a non-finite sum, 3 nothing
  (epoch), 4 nothing (record) -/
  plan : Nat := 0
  status : Nat := 0
  /-- the gather's CMH_EPOCH -/
  gEpoch : Nat := 0
  /-- the step that the last finished update applied, and the record it read (R197) -/
  applied : Option (Nat × List Byte) := none
  /-- ranks whose GATHER_ACK is awaited -/
  awaiting : List Nat := []
  deriving DecidableEq, Repr

/-- A contribute post pending on a rank. -/
structure CasPost where
  ticket : Ticket
  epoch : Nat
  zero : Bool
  /-- its sending waits for re-gathers (R228) -/
  waits : Bool := false
  deriving DecidableEq, Repr

/-- A gather or re-gather being received: fragments by number. -/
structure Recv where
  epoch : Nat
  status : Nat
  check : Nat := 0
  frags : List (Nat × List Byte) := []
  bad : Bool := false
  deriving DecidableEq, Repr

/-- A bucket at one of its ranks. -/
structure RankBkt where
  post : Option CasPost := none
  /-- pending re-gather posts, oldest first: ticket and epoch -/
  rposts : List (Ticket × Nat) := []
  /-- last epoch completed with a status other than READ_ERR -/
  last : Option Nat := none
  gath : Option Recv := none
  /-- re-gathers being received, oldest first -/
  rgath : List Recv := []
  deriving DecidableEq, Repr

/-- A message that has not left for its flow. -/
structure CasMsg where
  dest : Nat
  lane : Nat
  bytes : List Byte
  slotted : Bool
  deriving DecidableEq, Repr

/-- An armed group. -/
structure CasGroup where
  hdr : GroupHdr := {}
  /-- its scheduled-event entry -/
  sev : Option Nat := none
  own : List (Nat × OwnBkt) := []
  rank : List (Nat × RankBkt) := []
  /-- hold slots in use or reserved: slot, bucket tag and rank -/
  slots : List (Nat × Nat × Nat) := []
  out : List CasMsg := []
  deriving DecidableEq, Repr

/-- The mirror stream of a function (R194 to R199). -/
structure Mirror where
  /-- UPD_MIR_NEXT when the stream was armed last -/
  armed : Option Nat := none
  /-- the copy under way: partition, epoch and slot -/
  copy : Option (Nat × Nat × Nat) := none
  acked : Nat := 0
  bytes : Nat := 0
  /-- images sent and not acknowledged: partition, bucket (4096 × group + tag), record address, and whether the bucket's next
  step waits for the acknowledgement (R191) -/
  out : List (Nat × Nat × Nat × Bool) := []
  /-- MIRROR_LAG has been raised since the last complete copy -/
  lagged : Bool := false
  deriving DecidableEq, Repr

/-- The Cascade and the Update Engines. -/
structure CasSt where
  /-- keyed by 16 × partition + group -/
  groups : List (Nat × Option CasGroup) := []
  /-- arms whose descriptors are being read, oldest first: the same key, and whether the group was idle -/
  arming : List (Nat × Bool) := []
  /-- buckets in WAIT_SPACE in the order they entered it: partition, group, tag -/
  waiting : List (Nat × Nat × Nat) := []
  /-- when each tier's engine last had four buckets and completed one -/
  freeAt : List (Nat × Nat) := []
  /-- keyed by function -/
  mirrors : List (Nat × Mirror) := []
  deriving DecidableEq, Repr


/-- Who waits for an Aqueduct operation. -/
inductive OpSrc where
  /-- a descriptor of a ring -/
  | ring (t : Ticket)
  /-- a bucket image of a mirror copy, or its header, filling or complete (R197), of the stream of a function -/
  | mirrorBucket (fn bucket step : Nat)
  | mirrorHeader (fn step : Nat) (complete : Bool)
  /-- a Cascade message -/
  | cascade
  deriving DecidableEq, Repr

/-- An operation of a flow (R243, R244). -/
structure AqdOp where
  id : Nat
  /-- 0 WRITE, 1 READ, 2 a Cascade message -/
  kind : Nat
  final : Bool
  len : Nat
  lva : Nat
  rva : Nat
  rkey : Nat
  src : OpSrc
  /-- bytes already cut into packets -/
  cut : Nat := 0
  /-- every packet has been cut -/
  allCut : Bool := false
  /-- READ: bytes placed -/
  got : Nat := 0
  /-- completed: nothing further of it is sent or placed -/
  ended : Bool := false
  /-- data that does not lie in the partition's memory: a Cascade message, a mirror header -/
  data : List Byte := []
  /-- a slotted Cascade message is sent in its slot (R225, R261) -/
  slotted : Bool := false
  deriving DecidableEq, Repr

/-- A sequenced packet sent, or to be sent, and not acknowledged: a tracker entry (R258). -/
structure TxEnt where
  psn : Nat
  /-- its operation, or the read job it answers -/
  ref : Nat
  code : Nat
  off : Nat
  len : Nat
  final : Bool
  last : Bool
  /-- transmission time last recorded (R256); none before the first transmission -/
  ts : Option Nat := none
  era : Nat
  /-- retransmitted once for an ACK's map (R254) -/
  fast : Bool := false
  /-- a READ_RESP with ERR carries this status (R256) -/
  err : Option Nat := none
  /-- the bytes of a READ_RESP's first transmission -/
  data : List Byte := []
  deriving DecidableEq, Repr

/-- A received packet accepted and not finished: a tracker entry (R258). -/
structure RxEnt where
  psn : Nat
  code : Nat
  slot : Option Nat
  era : Nat
  ts : Nat
  final : Bool
  /-- its memory writes have been made and their responses are awaited -/
  placed : Bool
  va : Nat
  data : List Byte
  /-- what its memory writes were answered, as a status of R244; 0 OKAY -/
  resp : Nat := 0
  /-- READ_RESP: the operation it answers -/
  ref : Nat := 0
  deriving DecidableEq, Repr

/-- An accepted READ_REQ (R250, R258): a tracker entry until every response is acknowledged. -/
structure ReadJob where
  id : Nat
  reqid : Nat
  va : Nat
  len : Nat
  slot : Nat
  era : Nat
  off : Nat := 0
  stopped : Bool := false
  deriving DecidableEq, Repr

/-- A flow context (R240, R241). -/
structure FlowCtx where
  setup : List Byte := []
  /-- 0 FREE, 1 ALLOCATED, 2 OPEN, 3 FAILED, 4 CLOSING -/
  state : Nat := 0
  part : Nat := 0
  common : Bool := false
  failCause : Nat := 0
  retries : Nat := 0
  rate : Nat := 0
  srtt : Nat := 0
  rto : Nat := 0
  sndNxt : Nat := 0
  sndUna : Nat := 0
  rcvNxt : Nat := 0
  rcvAcked : Nat := 0
  /-- settled PSNs above FC_RCV_NXT, bit i for FC_RCV_NXT + i -/
  rcvMap : Nat := 0
  /-- selectively acknowledged PSNs, bit i for FC_SND_UNA + i -/
  sndMap : Nat := 0
  txPkts : Nat := 0
  txBytes : Nat := 0
  rxPkts : Nat := 0
  rxBytes : Nat := 0
  retx : Nat := 0
  dup : Nat := 0
  nakTx : Nat := 0
  nakRx : Nat := 0
  samples : Nat := 0
  untimed : Nat := 0
  lastDec : Nat := 0
  ops : List AqdOp := []
  out : List TxEnt := []
  rx : List RxEnt := []
  jobs : List ReadJob := []
  /-- packets settled since the last ACK, and the newest settled packet's AQH_TS (R253) -/
  unacked : Nat := 0
  newestTs : Nat := 0
  /-- earliest time the pacer lets the next packet leave (R261) -/
  nextAt : Nat := 0
  /-- the newest probes sent and not answered, newest first: AQH_TS and whether its egress was captured -/
  probes : List (Nat × Bool) := []
  deriving DecidableEq, Repr

/-- A region-table entry (R247). -/
structure Rge where
  state : Nat := 0
  gen : Nat := 0
  part : Nat := 0
  perm : Nat := 0
  inflight : Nat := 0
  va : Nat := 0
  len : Nat := 0
  era : Nat := 0
  /-- RGE_NEXT, once it differs from what the initialisation gave it -/
  next : Option Nat := none
  deriving DecidableEq, Repr

/-- What Aqueduct tells the units that use it within the same step. -/
inductive AqdNote where
  /-- an operation of the mirror stream ended with a status -/
  | mirror (src : OpSrc) (status : Nat)
  /-- a flow of a partition entered FAILED, with the Cascade messages it had not delivered -/
  | flowFailed (part ctx : Nat) (msgs : List (List Byte))
  deriving DecidableEq, Repr

/-- Aqueduct. -/
structure AqdSt where
  ctxs : List (Nat × FlowCtx) := []
  /-- region-table entries; an unlisted slot is FREE with generation 0 -/
  regions : List (Nat × Rge) := []
  /-- slots of the free list never used yet start here, ascending -/
  fresh : Nat := 0
  /-- freed slots in the order they joined the tail of the free list (R248) -/
  freed : List Nat := []
  era : Nat := 0
  nextOp : Nat := 0
  /-- Cascade messages handed over and not yet taken: partition, context, bytes -/
  toCascade : List (Nat × Nat × List Byte) := []
  notes : List AqdNote := []
  deriving DecidableEq, Repr

/-- What takes a timestamp capture slot (R279). -/
inductive SlotUse where
  | ptp | probe
  deriving DecidableEq, Repr

/-- A capture slot in use: its user and the cluster time captured, in 2^-16 ns. -/
structure CapSlot where
  use : SlotUse
  id : Nat
  time : Nat
  deriving DecidableEq, Repr

/-- What waits in a port's transmit queue. -/
inductive TxWhat where
  /-- a frame already formed -/
  | whole (f : Frame)
  /-- a sequenced packet of a flow, formed when it leaves -/
  | seq (ctx psn : Nat) (retx : Bool)
  deriving DecidableEq, Repr

/-- An entry of a port's transmit queue: its partition in the shaper, 64 for frames that bypass it (R381);
its priority, none for the frames no pause holds; and the egress capture slot it holds (R279). -/
structure TxItem where
  part : Nat
  prio : Option Nat
  what : TxWhat
  slot : Option Nat
  deriving DecidableEq, Repr

/-- A received frame on its way to its consumer, and the ingress capture slot it took (R279). -/
structure RxItem where
  lp : Nat
  frame : Frame
  slot : Option Nat
  deriving DecidableEq, Repr

/-- A hold of a received pause, or the device's own XOFF, on one priority (8: the whole port): since when. -/
structure Hold where
  prio : Nat
  since : Nat
  until_ : Nat
  deriving DecidableEq, Repr

/-- A logical port. -/
structure LpSt where
  up : Bool := false
  rxbuf : List RxItem := []
  txq : List TxItem := []
  holds : List Hold := []
  xoff : List Hold := []
  /-- priorities in holdoff after a break: received, own (R275) -/
  offRx : List Nat := []
  offTx : List Nat := []
  ingress : List CapSlot := []
  egress : List CapSlot := []
  nextSlot : Nat := 0
  /-- shaper tags (R381) -/
  tags : List (Nat × Nat) := []
  vnow : Nat := 0
  /-- the transmit and receive wake times of the partner's EEE TLV, until its TTL lapses (R277) -/
  eee : Option (Nat × Nat) := none
  deriving DecidableEq, Repr

/-- The Ethernet ports. -/
structure MacSt where
  lps : List (Nat × LpSt) := []
  /-- frames that have left the receive buffers, for their consumers, oldest first -/
  rx : List RxItem := []
  deriving DecidableEq, Repr

/-- An entry of the scheduled-event table (R293); kind 0 is free. -/
structure SevEnt where
  time : Nat := 0
  kind : Nat := 0
  owner : Nat := 0
  ref : Nat := 0
  aux : Nat := 0
  deriving DecidableEq, Repr

/-- A barrier beside its registers (R298, R299). -/
structure Barrier where
  pools : Nat := 0
  release : Nat := 0
  ramp : Nat := 0
  /-- cluster time in ns at which the ramp begins or has begun, once released; a step of cluster time moves one that has
  begun (R291) -/
  start : Int := 0
  /-- ramp groups that may start -/
  open_ : List Nat := []
  deriving DecidableEq, Repr

/-- The Clepsydra. -/
structure ClpSt where
  /-- cluster time in units of 2^-48 ns (R282, R284) -/
  time : Nat := 0
  /-- periods of the time clock since reset: local time -/
  ticks : Nat := 0
  integ : Int := 0
  /-- no sample since the source was selected or regained (R288) -/
  firstSample : Bool := true
  lastTick : Nat := 0
  locks : Nat := 0
  bads : Nat := 0
  /-- low word of CLP_SET held for the high word (R291) -/
  heldLow : Option Nat := none
  /-- sourcePortIdentity followed -/
  source : Option Nat := none
  /-- the Sync of the exchange: t1, corrected t2, cs, all in 2^-16 ns -/
  sync : Option (Nat × Int × Int) := none
  /-- a two-step Sync waiting for its Follow_Up: sequence, corrected t2, correction, and local time when it came (R288) -/
  twoStep : Option (Nat × Int × Int × Nat) := none
  dreqSeq : Nat := 0
  /-- corrected egress time of the outstanding Delay_Req, with its sequence -/
  dreq : Option (Nat × Int) := none
  /-- the last eight path delays, newest first -/
  delays : List Int := []
  /-- edges of CLK_10M_IN arrive -/
  clk10m : Bool := true
  ppsHigh : Bool := false
  /-- the integer second of the last pulse, since cluster time was last stepped (R292) -/
  lastPps : Option Nat := none
  /-- the scheduled-event table -/
  sev : List (Nat × SevEnt) := []
  /-- keyed by 4 × partition + barrier -/
  barriers : List (Nat × Barrier) := []
  deriving DecidableEq, Repr

/-- A descriptor slot that the queue engine has read (R308, R310). -/
structure Fetched where
  idx : Nat
  bytes : List Byte
  visible : Bool
  at_ : Nat
  /-- the scheduled-event entry that holds the work order until it fires (R293, R295) -/
  entry : Option Nat := none
  /-- the entry that it needed was refused (R293) -/
  noEntry : Bool := false
  deriving DecidableEq, Repr

/-- What a submission ring, or the event queue (ring 16), holds beside its registers. -/
structure Ring where
  /-- completion head last read from the doorbell -/
  cqHead : Nat := 0
  /-- index of the next completion record -/
  cqNext : Nat := 0
  /-- re-reads issued of the descriptor at the dispatch index (R320) -/
  rereads : Nat := 0
  /-- re-reads returned not visible -/
  stale : Nat := 0
  /-- slots read ahead and not yet dispatched -/
  fetched : List Fetched := []
  /-- slots whose read has been issued and has not returned -/
  reading : List Nat := []
  /-- indices dispatched and not yet completed -/
  inflight : List Nat := []
  /-- a completion write received an error: nothing further is written (R319) -/
  cqDead : Bool := false
  /-- the doorbell line is held in the Shared state (R317) -/
  lineHeld : Bool := false
  /-- a doorbell-line read is outstanding -/
  lineReading : Bool := false
  /-- cluster time at which the tail was last read -/
  tailAt : Nat := 0
  /-- event queue: events were dropped since the last record (R327) -/
  lost : Bool := false
  deriving DecidableEq, Repr

/-- What an MSI-X vector holds beside its table entry and pending bit (R329). -/
structure Vec where
  count : Nat := 0
  timer : Bool := false
  deriving DecidableEq, Repr

/-- The queue engines. -/
structure QueSt where
  /-- keyed by 17 × function + ring, the event queue being ring 16 -/
  rings : List (Nat × Ring) := []
  /-- keyed by 64 × function + vector -/
  vecs : List (Nat × Vec) := []
  /-- work orders dispatched by the module while tagging (R478) -/
  woCount : Nat := 0
  /-- the PCIe data link is up -/
  linkUp : Bool := false
  /-- tag[i] and vnow of the weighted class of the PCIe requests (R382) -/
  pcieTags : List (Nat × Nat) := []
  pcieVnow : Nat := 0
  deriving DecidableEq, Repr

/-- A transfer that a DMA channel runs, as its registers stood when it started (R336). -/
structure DmaRun where
  part : Nat
  guest : Bool
  /-- 0 copy, 1 fill, 2 compare, 3 load -/
  mode : Nat
  /-- log2 of the element size -/
  esize : Nat
  src : Nat
  dst : Nat
  fill : Nat
  scl : Nat
  cells : Nat
  stsVa : Nat
  tag : Nat
  cnt : List Nat
  ss : List Int
  ds : List Int
  sclStep : Int
  sfmt : Nat
  dfmt : Nat
  ceil : Nat
  irq : Bool
  vec : Nat
  /-- elements, or tiles, done -/
  idx : Nat := 0
  /-- status that ends it (R342), 0 none so far -/
  status : Nat := 0
  deriving DecidableEq, Repr

/-- The DMA engine beside its registers. -/
structure DmaSt where
  /-- transfers under way, keyed by 8 × pool + channel -/
  runs : List (Nat × Option DmaRun) := []
  /-- by slice: the channel from which the next burst is looked for (R345) -/
  turn : List (Nat × Nat) := []
  deriving DecidableEq, Repr

/-- A drain whose write has been made and whose response has not returned (R356). -/
structure HmpOut where
  unit : Nat
  part : Nat
  /-- the partition virtual address it was written at -/
  va : Nat
  resp : Resp
  deriving DecidableEq, Repr

/-- A channel of the Host Memory Port beside its registers. -/
structure HmpChan where
  /-- bytes of the window, keyed by aperture offset -/
  win : List (Nat × Byte) := []
  /-- dirty units, in the order in which they became dirty -/
  dirty : List Nat := []
  out : List HmpOut := []
  /-- units that the last fence covered and that have not drained -/
  fenced : List Nat := []
  /-- a drain has failed since the last fence read -/
  fenceErr : Bool := false
  /-- fill bits by page -/
  filled : List (Nat × Bool) := []
  /-- pages whose HMP_UNFILLED_READ has been raised -/
  raised : List Nat := []
  /-- next page that the fill pass looks at, while one runs -/
  pass : Option Nat := none
  /-- open rows, keyed by 16 × sub-channel + bank: row + 1 -/
  rows : List (Nat × Nat) := []
  /-- mode registers, keyed by 256 × set point + number -/
  modeRegs : List (Nat × Nat) := []
  /-- the frequency set point in force -/
  setPoint : Nat := 0
  powerDown : Bool := false
  selfRefresh : Bool := false
  deriving DecidableEq, Repr

/-- The Host Memory Port. -/
structure HmpSt where
  chans : List (Nat × HmpChan) := []
  deriving DecidableEq, Repr

/-- The reset sequence of one partition (R373 to R378). -/
structure ResetSt where
  /-- step in progress, 0 none -/
  phase : Nat := 0
  trigger : Nat := 0
  /-- nothing more is written into the function's host memory (R376) -/
  recordsOff : Bool := false
  /-- the partition had a virtual function at the trigger, whose rings and event queue live until step 6 (R376) -/
  viaVf : Bool := false
  /-- pools whose cells a barrier held when step 1 made it idle: what is queued in them stays held (R297) -/
  kept : List Nat := []
  /-- the RESET_DONE event is to wait for the physical function's event queue (R374, R490) -/
  held : Bool := false
  /-- cluster time of the trigger -/
  start : Nat := 0
  tiles : Nat := 0
  dmas : Nat := 0
  regions : Nat := 0
  ctxs : Nat := 0
  unwritten : Nat := 0
  scrub : Nat := 0
  /-- a STOP_INTERFACE_REQUEST waits for its response (R396) -/
  reply : Bool := false
  deriving DecidableEq, Repr

/-- The control fields of a function's configuration space that the spec names (R304, R328, R368). -/
structure CfgSt where
  /-- MSI-X Enable and Function Mask -/
  msixEn : Bool := false
  fnMask : Bool := false
  /-- Max_Payload_Size and Max_Read_Request_Size: 128 bytes times 2 to this power -/
  payload : Nat := 0
  readReq : Nat := 2
  /-- D3hot -/
  d3 : Bool := false
  /-- ARI Capable Hierarchy, in the physical function's SR-IOV capability -/
  ari : Bool := false
  deriving DecidableEq, Repr

/-- Partitions: SR-IOV, the configuration spaces, and the reset sequences. -/
structure PrtSt where
  vfEnable : Bool := false
  numVfs : Nat := 0
  /-- keyed by function -/
  cfg : List (Nat × CfgSt) := []
  resets : List (Nat × ResetSt) := []
  deriving DecidableEq, Repr
/-- A security operation that runs for a partition (R409): its block, and the SEC_OP_STATUS it has ended with. -/
structure SecOp where
  block : List Byte
  status : Option Nat
  deriving DecidableEq, Repr

/-- An IDE stream (R395): as the host has enabled it, limited by the T bit, in the secure state; the keys programmed and
started, numbered 6 × key set + 3 × direction + sub-stream. -/
structure IdeStream where
  enabled : Bool := false
  tee : Bool := false
  secure : Bool := false
  keyed : List Nat := []
  going : List Nat := []
  deriving DecidableEq, Repr

/-- An SPDM session (R394): its identifier, the transport that opened it, and whether FINISH has come. -/
structure Session where
  id : Nat
  transport : Nat
  finished : Bool := false
  /-- updates of the requester's and the responder's keys -/
  updates : Nat × Nat := (0, 0)
  deriving DecidableEq, Repr

/-- Security: the fuses, the boot's outcome, the keys of confidential partitions, and the sessions. -/
structure SecSt where
  /-- the key under which a confidential partition's accesses run (R403); keyed by partition, 0 none -/
  xts : List (Nat × Nat) := []
  /-- the key under which each half of memory was last written, keyed by byte key / 32; 0 plaintext -/
  halfKey : List (Nat × Nat) := []
  /-- keys drawn so far (R398) -/
  drawn : Nat := 0
  /-- table digests (R398), keyed by partition -/
  digests : List (Nat × List Byte) := []
  /-- model keys (R407), keyed by 4 × partition + slot -/
  slots : List (Nat × Option (List Byte)) := []
  /-- partitions whose TDI has just entered ERROR and whose work is still to be stopped (R396) -/
  broken : List Nat := []
  /-- keyed by partition -/
  ops : List (Nat × Option SecOp) := []
  streams : List (Nat × IdeStream) := []
  sessions : List Session := []
  nextSession : Nat := 0
  /-- per transport: 0 nothing done, 1 GET_VERSION, 2 GET_CAPABILITIES, 3 NEGOTIATE_ALGORITHMS -/
  spdm : List (Nat × Nat) := []
  /-- chunks of a large request and of a large response, per transport (R394) -/
  chunkIn : List (Nat × List Byte) := []
  chunkOut : List (Nat × List Byte) := []
  /-- boot flash, which outside tools write (R390, R483) -/
  flash : List (Nat × Byte) := []
  /-- the unique device secret, and whether the ROM has closed it to every reader (R389, R392) -/
  uds : List Byte := []
  udsShut : Bool := false
  /-- the Alias private key and certificate that the ROM hands to firmware, and the certificates ahead of it (R392) -/
  aliasKey : List Byte := []
  aliasCert : List Byte := []
  makerCerts : List Byte := []
  /-- fuses of R389: the security version, revoked slots, root digests, and whether a debug fuse is blown -/
  svn : Nat := 0
  /-- digest of the accepted firmware body (R393) -/
  body : List Byte := []
  revoked : List Nat := []
  roots : List (Nat × List Byte) := []
  debug : Bool := false
  deriving DecidableEq, Repr

/-- A record of the Weir that waits to be committed (R418, R423). -/
structure WeirRec where
  seq : Nat
  kind : Nat
  part : Nat
  bytes : List Byte
  deriving DecidableEq, Repr

/-- A billing session (R420). -/
structure WeirSession where
  part : Nat
  number : Nat
  /-- occupancy since it opened, pool-ms -/
  occ : Nat := 0
  /-- the occupancy of its newest committed record (R425) -/
  savedOcc : Nat := 0
  /-- Weir time from which the next INTERVAL period runs -/
  since : Nat
  /-- the link was down at some time since its previous record -/
  link : Bool := false
  deriving DecidableEq, Repr

/-- A command that the plinth has carried to the Weir (R426). -/
structure WeirOrder where
  op : Nat
  part : Nat
  arg : Nat
  deriving DecidableEq, Repr

/-- The Weir (R412 to R425). -/
structure WeirSt where
  powered : Bool := true
  /-- WEIR_SEAL_N is low -/
  jumper : Bool := false
  fault : Bool := false
  /-- Weir time in ms, and the energy total in mJ -/
  wtime : Nat := 0
  energy : Nat := 0
  /-- hold-up energy in µJ and average power in 0.1 W, as last measured -/
  holdup : Nat := 0
  power : Nat := 0
  sealCount : Nat := 0
  fwDigest : List Byte := []
  /-- digest of firmware that runs from the next power-up (R417) -/
  nextFw : Option (List Byte) := none
  calDigest : List Byte := []
  /-- owner of every pool as the plinth last sent it; empty while the link is down -/
  owners : List Nat := []
  sessions : List WeirSession := []
  nextSession : Nat := 0
  nextSeq : Nat := 0
  /-- committed records not acknowledged, oldest first -/
  log : List (Nat × List Byte) := []
  /-- records waiting to be committed, oldest first; the first one while `commit` holds -/
  waiting : List WeirRec := []
  /-- the commit under way: attempts whose readback has failed -/
  commit : Option Nat := none
  /-- kind, Weir time and energy of the newest committed record -/
  newest : Option (Nat × Nat × Nat) := none
  highRead : Nat := 0
  /-- WEIR_DEFERRED has been raised in this run of deferrals -/
  deferring : Bool := false
  /-- the WEIR_DEFERRED to be delivered when the link returns -/
  held : Option (List Byte) := none
  /-- error bits raised while the link is down, with the record and partition each concerns -/
  late : List (Nat × Nat × Nat) := []
  order : Option WeirOrder := none
  deriving DecidableEq, Repr

/-- The power and thermal loop beside its registers (R431 to R441). -/
structure PwrSt where
  /-- the thermal limit in watts; 0 reads as the envelope -/
  thermal : Nat := 0
  /-- consecutive windows over the limit at the floor, and at or below it -/
  above : Nat := 0
  under : Nat := 0
  /-- THERM_ALERT_N is driven low -/
  alert : Bool := false
  /-- operations that completed since the window began: partition and cells -/
  ran : List (Nat × List Nat) := []
  deriving DecidableEq, Repr

/-- A group of a link direction (R448 to R452). -/
structure LnkGroup where
  /-- failed lanes, spares and the check lane among them -/
  failed : List Nat := []
  /-- roles that spares have taken: lane and spare -/
  roles : List (Nat × Nat) := []
  retired : Bool := false
  /-- cluster times of the replays of the last millisecond, oldest first -/
  replays : List Nat := []
  /-- it has reached LNK_REPLAY_LIMIT and waits for its lane check -/
  due : Bool := false
  checking : Bool := false
  deriving DecidableEq, Repr


/-- The performance counters and their shadows (R472 to R477). -/
structure PmcSt where
  /-- general counters, keyed by i -/
  gen : List (Nat × Nat) := []
  genSh : List (Nat × Nat) := []
  /-- port counters, keyed by 4 × logical port + k -/
  port : List (Nat × Nat) := []
  portSh : List (Nat × Nat) := []
  /-- slot counters, keyed by 4 × cell + k -/
  cell : List (Nat × Nat) := []
  cellSh : List (Nat × Nat) := []
  /-- tile operations accepted by each pool's queue while tagging (R478) -/
  tileCount : List (Nat × Nat) := []
  deriving DecidableEq, Repr

/-- The module as a whole: power, pins, and the reset that runs. -/
structure TopSt where
  /-- compute stopped by loss of airflow or a thermal trip (R441, R442), or before bring-up has ended -/
  stopped : Bool := false
  standby : Bool := true
  p54v : Bool := true
  /-- levels of PERST_N and AIRFLOW_FAIL_N -/
  perst : Bool := true
  airflow : Bool := true
  /-- the reset that runs: 0 none, 1 cold, 2 warm, 3 module -/
  boot : Nat := 0
  /-- a module or warm reset waits for AIRFLOW_FAIL_N (R491): its kind and TOP_LAST_RESET code -/
  waits : Option (Nat × Nat) := none
  /-- partitions to scrub after memory training (R489): partition, page-table root -/
  scrubs : List (Nat × Nat) := []
  /-- characters that reached the firmware console -/
  console : List Nat := []
  deriving DecidableEq, Repr

/-- The management endpoint (R500, R501). -/
structure MgmtSt where
  /-- endpoint ID, 0 none assigned -/
  eid : Nat := 0
  tid : Nat := 0
  receiver : Option Nat := none
  deriving DecidableEq, Repr


/-- The whole block. -/
structure State where
  /-- which part this is (R2, R3) -/
  part : Part
  /-- the commands that wait, first in first out -/
  pending : List Instr
  /-- outputs, oldest first (log entry 1) -/
  emitted : List Emission
  /-- counter behind the free values (log entry 3) -/
  free : Nat
  /-- the register file; an unlisted register holds its reset value -/
  regs : List (Nat × RegWord)
  /-- device memory by channel and offset; an unlisted byte reads as zero -/
  mem : List Host.Cell
  top : TopSt
  prt : PrtSt
  memc : MemSt
  pte : PteSt
  que : QueSt
  pmc : PmcSt
  clp : ClpSt
  hmp : HmpSt
  mac : MacSt
  cas : CasSt
  aqd : AqdSt
  cell : CellSt
  /-- keyed by basin -/
  tam : List (Nat × TamSt)
  sta : StaSt
  /-- keyed by pool -/
  pool : List (Nat × PoolSt)
  dma : DmaSt
  sec : SecSt
  weir : WeirSt
  pwr : PwrSt
  /-- keyed by 32 × link + 16 × direction + group -/
  lnk : List (Nat × LnkGroup)
  mgmt : MgmtSt
  deriving DecidableEq, Repr

/-- The block right after a cold reset, with bring-up ended at READY (R482, log entry 6). -/
def State.reset : State where
  part := .gx4
  pending := []
  emitted := []
  free := 0
  regs := []
  mem := []
  top := {}
  prt := {}
  memc := {}
  pte := {}
  que := {}
  pmc := {}
  clp := {}
  hmp := {}
  mac := {}
  cas := {}
  aqd := {}
  cell := {}
  tam := []
  sta := {}
  pool := []
  dma := {}
  sec := {}
  weir := {}
  pwr := {}
  lnk := []
  mgmt := {}

end Sys2Proof.Machine
end

