-- ==== Sys2Proof/Machine/Flags.lean ====
section
/-! DEFINITION. The register file and the sticky error registers: reading and writing one register or one
field, and setting, capturing and clearing ERR_STS and ERR_FIRST bits (R10, R90, R460 to R462). -/

namespace Sys2Proof.Machine

/-! ### Registers and fields -/

/-- Reset value of a register from the fields of its table; the part changes those of R3. Where the table leaves it to
bring-up, it is what an undisturbed cold power-up leaves: READY, every link whole, the Weir's link up (log entry 6). -/
def regReset (p : Part) (r : Reg) : RegWord :=
  let w := (regSpec r).flds.foldl (fun a f => a + at_ f.lo f.reset) 0
  match p, r with
  | _, .topBoot => 0x70000000
  | _, .lnkState => 1
  | _, .weirStatus => 0x40000000
  | .gx2, .topPartId => 0x47320120
  | .gx2, .pwrCap => 0x42580352
  | .gx2, .pwrPower => 0x03520000
  | _, _ => BitVec.ofNat 64 w

/-- The key of instance `inst` of register `r` in view `view` (0 the physical function, v the virtual
function v). -/
def regKey (r : Reg) (view inst : Nat) : Nat := (r.ctorIdx * 128 + view) * 8192 + inst

/-- The content of a register. -/
def State.reg (s : State) (r : Reg) (view inst : Nat) : RegWord :=
  sget (regReset s.part r) s.regs (regKey r view inst)

/-- The content of a register as a number. -/
def State.regN (s : State) (r : Reg) (view inst : Nat) : Nat := (s.reg r view inst).toNat

/-- Store a register. -/
def State.setReg (s : State) (r : Reg) (view inst : Nat) (v : RegWord) : State :=
  { s with regs := sput (regReset s.part r) s.regs (regKey r view inst) v }

/-- Store a register, given as a number. -/
def State.setRegN (s : State) (r : Reg) (view inst v : Nat) : State :=
  s.setReg r view inst (BitVec.ofNat 64 v)

/-- A field of a register. -/
def State.fld (s : State) (f : Fld) (view inst : Nat) : Nat := bits (s.regN f.reg view inst) f.hi f.lo

/-- Store a field of a register, leaving the others. -/
def State.setFld (s : State) (f : Fld) (view inst v : Nat) : State :=
  s.setRegN f.reg view inst (setBits (s.regN f.reg view inst) f.hi f.lo v)

/-- A field reads as one. -/
def State.flag (s : State) (f : Fld) (view inst : Nat) : Bool := s.fld f view inst = 1

/-- A field's value placed at its bits, cut to its width. -/
def Fld.at_ (f : Fld) (v : Nat) : Nat := (v % 2 ^ (f.hi + 1 - f.lo)) <<< f.lo

/-- A register word made of field values. -/
def pack (l : List (Fld × Nat)) : Nat := l.foldl (fun a e => a + e.1.at_ e.2) 0

/-- Add to a saturating counter field. -/
def State.satInc (s : State) (f : Fld) (view inst n : Nat) : State :=
  s.setFld f view inst (satTo (2 ^ (f.hi + 1 - f.lo) - 1) (s.fld f view inst + n))

/-! ### Functions, partitions and views -/

/-- The record of partition `n` in the image in force; disabled where there is none. -/
def State.partRec (s : State) (n : Nat) : PartRec :=
  s.pte.image.parts.getD n ⟨0, 0, 0, 0, 0, 0, 0, []⟩

/-- Partition `n` is enabled in the image in force (R157). -/
def State.partEnabled (s : State) (n : Nat) : Bool := bit (s.partRec n).flags 0

/-- The entry of pool `p` in the image in force; unassigned where there is none. -/
def State.poolEnt (s : State) (p : Nat) : PoolEnt := s.pte.image.pools.getD p ⟨0xFF, 0xFF, 0⟩

/-- The owner of pool `p`; `none` unassigned. -/
def State.owner (s : State) (p : Nat) : Option Nat :=
  let o := (s.poolEnt p).owner
  if o = 0xFF then none else some o

/-- The Backfill guest of pool `p`. -/
def State.guest (s : State) (p : Nat) : Option Nat :=
  let o := (s.poolEnt p).guest
  if o = 0xFF then none else some o

/-- Basin `b` is composed (R19). -/
def State.composed (s : State) (b : Nat) : Bool :=
  (s.pte.image.basins.getD b ⟨0, 0xFF⟩).compose = 1

/-- Pool `p` is a non-lead pool of a composed basin (R20). -/
def State.nonLead (s : State) (p : Nat) : Bool := s.composed (p / 4) && p % 4 ≠ 0

/-- The pool that takes the work of pool `p`: its lead pool in a composed basin (R20). -/
def State.leadOf (s : State) (p : Nat) : Nat := if s.composed (p / 4) then 4 * (p / 4) else p

/-- The virtual function v exists (R367, R368). -/
def State.vfExists (s : State) (v : Nat) : Bool := s.prt.vfEnable && 1 ≤ v && v ≤ s.prt.numVfs

/-- Partition `n` has a virtual function, or its reset began with one (R376). -/
def State.hasVf (s : State) (n : Nat) : Bool :=
  s.vfExists (n + 1) || ((sget {} s.prt.resets n).phase ≠ 0 && (sget {} s.prt.resets n).viaVf)

/-- The view of the function through which partition `n` is driven: its virtual function, or the physical
function when it has none (R48, R369). -/
def State.drive (s : State) (n : Nat) : Nat := if s.hasVf n then n + 1 else 0

/-- The views that cover partition `n`: the physical function's and its virtual function's (R90). -/
def State.views (s : State) (n : Nat) : List Nat := if s.vfExists (n + 1) then [0, n + 1] else [0]

/-! ### Sticky errors -/

/-- Set bit `b` of an ERR_STS in one view, capturing `cap` while the register is clear (R90). -/
def State.errOne (s : State) (sts first : Reg) (b cap view inst : Nat) : State :=
  let old := s.regN sts view inst
  let s := if old = 0 then s.setRegN first view inst cap else s
  s.setRegN sts view inst (old ||| 2 ^ b)

/-- Set bit `b` of an ERR_STS in each of `views` (R90). -/
def State.errIn (s : State) (sts first : Reg) (b cap : Nat) (views : List Nat) (inst : Nat) : State :=
  views.foldl (fun s v => s.errOne sts first b cap v inst) s

/-- A W1C write of `w` to an ERR_STS in one view: the bits clear there alone, and ERR_FIRST clears with the
last of them (R90). -/
def State.errClear (s : State) (sts first : Reg) (w view inst : Nat) : State :=
  let new := s.regN sts view inst - (s.regN sts view inst &&& w)
  let s := s.setRegN sts view inst new
  if new = 0 then s.setRegN first view inst 0 else s

/-- An access of a wrong size or alignment (R9): TOP_E_ACCESS in the function's own view. -/
def State.topAccessErr (s : State) (fn off size : Nat) : State :=
  s.errOne .topErrSts .topErrFirst 0
    (pack [(F.TOP_EF_OFFSET, off), (F.TOP_EF_SIZE, size), (F.TOP_EF_VALID, 1), (F.TOP_EF_CAUSE, 0)]) fn 0

/-- An error of the memory subsystem (R183): only the physical function reaches it. -/
def State.memErr (s : State) (b dpa part ch : Nat) : State :=
  let pf := decide (64 ≤ part)
  s.errOne .memErrSts .memErrFirst b
    (pack [(F.MEM_EF_DPA, dpa), (F.MEM_EF_PART, if pf then 0 else part), (F.MEM_EF_VALID, 1),
      (F.MEM_EF_CHANNEL, if b = 3 ∨ b = 4 then 0 else ch), (F.MEM_EF_PF, b2n pf), (F.MEM_EF_CAUSE, b)]) 0 0

/-- An error of the queue engine in a function's own view (R334). -/
def State.queErr (s : State) (fn b ring index stamp : Nat) : State :=
  s.errOne .queErrSts .queErrFirst b
    (pack [(F.QUE_EF_INDEX, index), (F.QUE_EF_STAMP, if b = 0 then stamp else 0), (F.QUE_EF_RING, ring),
      (F.QUE_EF_VALID, 1), (F.QUE_EF_CAUSE, b)]) fn 0

/-- The views that reach the register page of pool `p`: the physical function's and its owner's (R146). -/
def State.poolViews (s : State) (p : Nat) : List Nat := ((s.owner p).map s.views).getD [0]

/-- An error of a pool's register page, in the views of the functions that reach it (R90, R155). -/
def State.poolErr (s : State) (p b info : Nat) : State :=
  s.errIn .poolErrSts .poolErrFirst b
    (pack [(F.POOL_EF_INFO, if 1 ≤ b ∧ b ≤ 4 then info % 2 ^ 48 else 0), (F.POOL_EF_VALID, 1),
      (F.POOL_EF_CAUSE, b)])
    (s.poolViews p) p

/-- An error of a partition reset trigger or scrub (R388). -/
def State.prtErr (s : State) (b part trigger : Nat) : State :=
  s.errIn .prtErrSts .prtErrFirst b
    (pack [(F.PRT_EF_TRIGGER, trigger), (F.PRT_EF_PART, part), (F.PRT_EF_VALID, 1), (F.PRT_EF_CAUSE, b)])
    (s.views part) 0

/-- An error of the Parterre controller (R163). -/
def State.pteErr (s : State) (b serial result index : Nat) : State :=
  s.errOne .pteErrSts .pteErrFirst b
    (pack [(F.PTE_EF_SERIAL, serial), (F.PTE_EF_RESULT, result), (F.PTE_EF_INDEX, index),
      (F.PTE_EF_VALID, 1), (F.PTE_EF_CAUSE, b)]) 0 0

/-- An error of a cell, in the views of the physical function and of the partitions that own its pool or
share it as a guest (R89, R90). -/
def State.celErr (s : State) (b cell slot opcode step : Nat) : State :=
  let p := cell / 16
  let vs := ((s.owner p).toList ++ (s.guest p).toList).flatMap fun n => (s.views n).filter (· ≠ 0)
  s.errIn .celErrSts .celErrFirst b
    (pack [(F.CEL_EF_STEP, step), (F.CEL_EF_OPCODE, opcode), (F.CEL_EF_CAUSE, b), (F.CEL_EF_VALID, 1),
      (F.CEL_EF_SLOT, slot), (F.CEL_EF_CELL, cell)]) (0 :: vs) 0

end Sys2Proof.Machine
end

