-- ==== Sys2Proof/Machine/Ops.lean ====
section
/-! DEFINITION. The operations that every chapter shares: free values, performance counting, cluster time,
interrupts, events and completion records, address translation, and the memory itself. -/

namespace Sys2Proof.Machine

/-! ### Free values -/

/-- A free value of `n` bits (log entry 3). -/
def State.freeBits (s : State) (n : Nat) : Nat := Config.freeValue s.free % 2 ^ n

/-- Advance the counter behind the free values. -/
def State.bump (s : State) : State := { s with free := s.free + 1 }

/-- Some of the sites has an error: a corrected one, or with `hard` an uncorrectable one. -/
def upset (env : Env) (hard : Bool) (sites : List Site) : Bool :=
  env.sram.any fun e => e.2 = hard && decide (e.1 ∈ sites)

/-- Add to the outputs. -/
def State.emit (s : State) (e : Emission) : State := { s with emitted := s.emitted ++ [e] }

/-! ### Counters -/

/-- Does general counter `i` count this occurrence (R475)? -/
def State.pmcHit (s : State) (code unit : Nat) (parts : List Nat) (i : Nat) : Bool :=
  s.flag F.PMC_EN 0 i && s.fld F.PMC_EVENT 0 i = code
    && (s.fld F.PMC_UNIT 0 i = 0xFFF || s.fld F.PMC_UNIT 0 i = unit)
    && (!s.flag F.PMC_PART_EN 0 i || decide (s.fld F.PMC_PART 0 i ∈ parts))

/-- The partition of an attribution as a list: none for the physical function (R475). -/
def ofPart (p : Nat) : List Nat := if p < 64 then [p] else []

/-- Count `n` occurrences of an event, attributed to `parts`, in every general counter that selects it
(R474, R475). -/
def State.count (s : State) (code unit : Nat) (parts : List Nat) (n : Nat) : State :=
  if s.flag F.PMC_FROZEN 0 0 then s else
  let hit := fun g i => if s.pmcHit code unit parts i then sput 0 g i ((sget 0 g i + n) % two64) else g
  let g := (upFrom 0 64).foldl hit s.pmc.gen
  { s with pmc := { s.pmc with gen := g } }

/-- Add to a fixed counter of a logical port: `k` as the offset table of R480's chapter numbers it. -/
def State.countPort (s : State) (lp k n : Nat) : State :=
  if s.flag F.PMC_FROZEN 0 0 then s else
  let g := sput 0 s.pmc.port (4 * lp + k) ((sget 0 s.pmc.port (4 * lp + k) + n) % two64)
  { s with pmc := { s.pmc with port := g } }

/-- Add to a slot counter of a cell: 0 RETIRED, 1 WASTED, 2 FRONT, 3 BACK (R477). -/
def State.countCell (s : State) (c k n : Nat) : State :=
  if s.flag F.PMC_FROZEN 0 0 then s else
  let g := sput 0 s.pmc.cell (4 * c + k) ((sget 0 s.pmc.cell (4 * c + k) + n) % two64)
  { s with pmc := { s.pmc with cell := g } }

/-! ### Time -/

/-- Cluster time in integer nanoseconds. -/
def State.ns (s : State) : Nat := s.clp.time / 2 ^ 48 % two64

/-! ### Partition resets as others see them -/

/-- The partition reset sequence of partition `n` is under way. -/
def State.resetting (s : State) (n : Nat) : Bool :=
  (sget {} s.prt.resets n).phase ≠ 0

/-- The function's interrupts are silent (R372). -/
def State.silent (s : State) (fn : Nat) : Bool := fn ≠ 0 && s.resetting (fn - 1)

/-- Nothing is written into the function's host memory (R376). -/
def State.recordsOff (s : State) (fn : Nat) : Bool :=
  fn ≠ 0 && s.resetting (fn - 1) && (sget {} s.prt.resets (fn - 1)).recordsOff

/-- Count a record that R376 keeps from being written. -/
def State.countUnwritten (s : State) (fn : Nat) : State :=
  let r := sget {} s.prt.resets (fn - 1)
  let r := { r with unwritten := satTo 0xFFFFFFFF (r.unwritten + 1) }
  { s with prt := { s.prt with resets := sput {} s.prt.resets (fn - 1) r } }

/-- HMP_WIN_EPOCH of a Host Memory Port channel. -/
def State.winEpoch (s : State) (c : Nat) : Nat := s.fld F.HMP_CH_EPOCH 0 c

/-- The module is in the failed state (R466). -/
def State.failed (s : State) : Bool := s.flag F.TOP_FAILED 0 0

/-- The compute side is stopped: memory answers no request and no pass runs (R442, R466). -/
def State.stopped (s : State) : Bool := s.failed || s.top.stopped

/-- The state of a partition's TDI (R396): 0 CONFIG_UNLOCKED, 1 CONFIG_LOCKED, 2 RUN, 3 ERROR. -/
def State.tdi (s : State) (part : Nat) : Nat := if part < 64 then s.fld F.SEC_TDI_STATE 0 part else 0

/-- Add a request to the host, or a completion, of partition `part` to the outputs: it carries the T bit on the bound
stream while the partition's TDI is RUN (R401). -/
def State.emitFor (s : State) (part : Nat) (e : Emission) : State :=
  s.emit (if s.tdi part = 2 then .tbit (s.fld F.SEC_STREAM 0 part) e else e)

/-- The same for a function. -/
def State.emitFn (s : State) (fn : Nat) (e : Emission) : State := s.emitFor (if fn = 0 then 64 else fn - 1) e

/-- A confidential partition is refused the network: SEC_NET_PLAIN, fixed since the lock, is 0 (R402). -/
def State.netShut (s : State) (part : Nat) : Bool :=
  s.tdi part ≠ 0 && !s.flag F.SEC_NET_PLAIN 0 part

/-! ### Interrupts -/

/-- The control fields of a function's configuration space. -/
def State.cfg (s : State) (fn : Nat) : CfgSt := sget {} s.prt.cfg fn

/-- The function may send MSI-X messages: enabled, not masked as a whole, and in D0 (R304, R328). -/
def State.msixOn (s : State) (fn : Nat) : Bool := (s.cfg fn).msixEn && !(s.cfg fn).fnMask && !(s.cfg fn).d3

/-- Send, or keep pending, the message of a vector (R328). -/
def State.msixSend (s : State) (fn vec : Nat) : State :=
  if s.silent fn then s
  else if s.flag F.MSIX_MASK fn vec || !s.msixOn fn then
    s.setRegN .msixPba fn 0 (s.regN .msixPba fn 0 ||| 2 ^ vec)
  else (s.emit (.msix fn vec (s.fld F.MSIX_ADDR fn vec) (s.fld F.MSIX_DATA fn vec))).count 0x0902 vec
    (if fn = 0 then [] else [fn - 1]) 1

/-- What a vector holds. -/
def State.vec (s : State) (fn vec : Nat) : Vec := sget {} s.que.vecs (64 * fn + vec)

/-- Store what a vector holds. -/
def State.setVec (s : State) (fn vec : Nat) (v : Vec) : State :=
  { s with que := { s.que with vecs := sput {} s.que.vecs (64 * fn + vec) v } }

/-- One more record of the vector's sources, with `irq` asking for the message at once (R329). -/
def State.vecRecord (s : State) (fn vec : Nat) (irq : Bool) : State :=
  if s.silent fn then s else
  let v := s.vec fn vec
  if irq || s.fld F.QUE_MOD_COUNT fn vec ≤ v.count + 1 then
    (s.setVec fn vec {}).msixSend fn vec
  else
    s.setVec fn vec { count := v.count + 1, timer := s.fld F.QUE_MOD_USEC fn vec ≠ 0 }

/-! ### Rings and events -/

/-- What ring `r` of function `fn` holds; ring 16 is the event queue. -/
def State.ring (s : State) (fn r : Nat) : Ring := sget {} s.que.rings (17 * fn + r)

/-- Store what a ring holds. -/
def State.setRing (s : State) (fn r : Nat) (x : Ring) : State :=
  { s with que := { s.que with rings := sput {} s.que.rings (17 * fn + r) x } }

/-- The phase bit of record `j` in a ring of 2^`log2` entries (R314). -/
def phaseBit (j log2 : Nat) : Nat := ((j >>> log2) % 2) ^^^ 1

/-- An event the queue cannot take: counted, and the next record says so (R327). -/
def State.loseEvent (s : State) (fn : Nat) : State :=
  (s.satInc F.QUE_EQ_LOST fn 0 1).setRing fn 16 { s.ring fn 16 with lost := true }

/-- The 32 bytes of an event record (R325). -/
def eventRecord (code phase lost src time : Nat) (data : List Byte) : List Byte :=
  toLe 2 code ++ toLe 1 (phase + 2 * lost) ++ toLe 1 src ++ toLe 4 (bits time 41 10) ++ fit 24 data

/-- Write an event to the event queue of function `fn` (R325 to R327). -/
def State.eventTo (s : State) (fn src code : Nat) (data : List Byte) : State :=
  let log2 := s.fld F.QUE_EQ_LOG2 fn 0
  let tail := s.fld F.QUE_EQ_TAIL fn 0
  let head := s.fld F.QUE_EQ_HEAD fn 0
  if s.fld F.QUE_EQ_STATE fn 0 ≠ 1 ∨ 2 ^ log2 ≤ diff16 tail head then s.loseEvent fn else
  if s.recordsOff fn then s.countUnwritten fn else
  let eq := s.ring fn 16
  let rec_ := eventRecord code (phaseBit tail log2) (b2n eq.lost) src s.ns data
  let s := s.emitFn fn (.hostWrite (s.fld F.QUE_EQ_BUS fn 0 * 4096 + 32 * (tail % 2 ^ log2)) rec_ false)
  let s := s.setRing fn 16 { eq with lost := false }
  let s := s.setFld F.QUE_EQ_TAIL fn 0 (tail + 1)
  s.vecRecord fn (s.fld F.QUE_EQ_VEC fn 0) false

/-- Raise an event for a partition: in its function's queue, or dropped when it is disabled (R371, R465). -/
def State.event (s : State) (part code : Nat) (data : List Byte) : State :=
  if s.partEnabled part then s.eventTo (s.drive part) part code data else s

/-- Raise an event for the physical function (R464). -/
def State.eventPf (s : State) (code : Nat) (data : List Byte) : State := s.eventTo 0 0x40 code data

/-- Raise an event for partition `part`, or for the physical function when `part` is 64. -/
def State.eventFor (s : State) (part code : Nat) (data : List Byte) : State :=
  if part < 64 then s.event part code data else s.eventPf code data

/-- A state sensor of the management endpoint changes: PlatformEventMessage goes to the event receiver, if there is one
(R501). Sensors: 0 TOP_STAGE, 1 PWR_AIRFLOW_STATE, 2 PWR_TRIPPED, 3 TOP_FAILED, 4 THERM_ALERT_N. -/
def State.stateSensor (s : State) (sensor value : Nat) : State :=
  match s.mgmt.receiver with
  | some r => if s.top.standby then s.emit (.platformEvent r sensor value) else s
  | none => s

/-- The module enters the failed state with a cause; a second cause changes nothing (R466, R467). -/
def State.failModule (s : State) (cause info : Nat) : State :=
  if s.failed then s else
  let s := s.setFld F.TOP_FAILED 0 0 1
  let s := (s.setFld F.TOP_FAIL_CAUSE 0 0 cause).setFld F.TOP_FAIL_INFO 0 0 info
  let s := s.errOne .topErrSts .topErrFirst 1 (pack [(F.TOP_EF_VALID, 1), (F.TOP_EF_CAUSE, 1)]) 0 0
  (s.stateSensor 3 1).eventPf 0x0806 (toLe 1 cause ++ toLe 1 info)

/-- An error of the security engine (R410, R411). -/
def State.secErr (s : State) (b part stream status : Nat) : State :=
  s.errIn .secErrSts .secErrFirst b
    (pack [(F.SEC_EF_STATUS, status), (F.SEC_EF_PART, part), (F.SEC_EF_VALID, 1), (F.SEC_EF_STREAM, stream),
      (F.SEC_EF_CAUSE, b)]) (s.views part) 0

/-- Write the RESET_DONE event of partition `n` (R378). -/
def State.resetDone (s : State) (n : Nat) : State :=
  let r := sget {} s.prt.resets n
  s.eventPf 0x0701 (toLe 1 n ++ toLe 1 r.trigger ++ toLe 4 (satTo 0xFFFFFFFF ((s.ns - r.start) / 1000))
    ++ toLe 2 (satTo 0xFFFF r.tiles) ++ toLe 2 (satTo 0xFFFF r.dmas) ++ toLe 4 r.regions
    ++ toLe 2 (satTo 0xFFFF r.ctxs) ++ toLe 4 r.unwritten ++ toLe 4 r.scrub)

/-- The sequence of partition `n` ends: counted, PRT_PHASE 0, and the response to a STOP_INTERFACE_REQUEST that waited
for it (R375 step 6, R378, R396). -/
def State.resetEnd (s : State) (n : Nat) : State :=
  let r := sget {} s.prt.resets n
  let s := { s with prt := { s.prt with resets := sput {} s.prt.resets n {} } }
  let s := if r.reply then s.emit (.tdisp n .stopped) else s
  let s := s.satInc F.PRT_RESETS 0 n 1
  (s.setFld F.PRT_TRIGGER 0 n r.trigger).setFld F.PRT_PHASE 0 n 0

/-- RESET_DONE events held for want of the physical function's event queue are written (R490). -/
def State.resetDoneHeld (s : State) : State :=
  (s.prt.resets.filter fun e => e.2.held && e.2.phase = 6).foldl (fun s e => (s.resetDone e.1).resetEnd e.1) s

/-! ### Tag records and completions -/

/-- Write a 64-byte tag record, or count it as lost (R479, R480). -/
def State.tagRecord (s : State) (env : Env) (r : List Byte) : State :=
  let size := 2 ^ (6 + min 9 (s.fld F.PMC_TAG_LOG2 0 0))
  let tail := s.fld F.PMC_TAG_TAIL 0 0
  let a := s.fld F.PMC_TAG_BUS 0 0 * 4096 + 64 * (tail % size)
  if size ≤ diff16 tail (s.fld F.PMC_TAG_HEAD 0 0) ∨ a / 64 ∈ env.hostFail then
    s.satInc F.PMC_TAG_LOST 0 0 1
  else (s.emit (.hostWrite a (fit 64 r) false)).setFld F.PMC_TAG_TAIL 0 0 (tail + 1)

/-- A ring or event queue enters ERROR and says so, unless it is in ERROR already (R319): cause 1 index, 2 read,
3 write. -/
def State.ringError (s : State) (fn r cause index : Nat) : State :=
  if (if r = 16 then s.fld F.QUE_EQ_STATE fn 0 else s.fld F.QUE_RING_STATE fn r) = 3 then s else
  let s := if r = 16 then s.setFld F.QUE_EQ_STATE fn 0 3 else s.setFld F.QUE_RING_STATE fn r 3
  let s := s.queErr fn 1 r index 0
  let d := toLe 1 r ++ toLe 1 cause ++ toLe 2 index
  if fn = 0 then s.eventPf 0x0602 d else s.event (fn - 1) 0x0602 d

/-- The 32 bytes of a completion record (R313). -/
def completionRecord (t : Ticket) (sqHead cls status phase e0 e1 info time : Nat) : List Byte :=
  toLe 8 t.tag ++ toLe 2 t.idx ++ toLe 2 sqHead ++ toLe 1 cls ++ toLe 1 status ++ toLe 1 phase ++ zeros 1
    ++ toLe 2 e0 ++ toLe 2 e1 ++ toLe 4 info ++ toLe 8 time

/-- A ring that has been disabled reads state 0 once its last completion is written (R319). -/
def State.ringSettle (s : State) (fn r : Nat) : State :=
  if s.fld F.QUE_RING_EN fn r = 0 ∧ (s.ring fn r).inflight = [] then s.setFld F.QUE_RING_STATE fn r 0 else s

/-- Write the completion record of a descriptor (R313, R314, R319, R322, R376, R466). -/
def State.complete (s : State) (env : Env) (t : Ticket) (cls status info : Nat) : State :=
  if s.stopped then s else
  let rg := s.ring t.fn t.ring
  let s := s.setRing t.fn t.ring { rg with inflight := rg.inflight.erase t.idx }
  if rg.cqDead then s.ringSettle t.fn t.ring
  else if s.recordsOff t.fn then (s.countUnwritten t.fn).ringSettle t.fn t.ring else
  let log2 := s.fld F.QUE_RING_LOG2 t.fn t.ring
  let j := rg.cqNext
  let a := s.fld F.QUE_RING_CQ_BUS t.fn t.ring * 4096 + 32 * (j % 2 ^ log2)
  if a / 64 ∈ env.hostFail then
    let s := s.setRing t.fn t.ring { s.ring t.fn t.ring with cqDead := true }
    (s.ringError t.fn t.ring 3 j).ringSettle t.fn t.ring
  else
    let r := completionRecord t (s.fld F.QUE_RING_HEAD t.fn t.ring) cls status (phaseBit j log2)
      (s.winEpoch 0) (s.winEpoch 1) info s.ns
    let s := s.emitFn t.fn (.hostWrite a r false)
    let s := s.setRing t.fn t.ring { s.ring t.fn t.ring with cqNext := (j + 1) % 65536 }
    let s := s.vecRecord t.fn (s.fld F.QUE_RING_VEC t.fn t.ring) t.irq
    let s := if t.tagged then
        s.tagRecord env (toLe 1 0 ++ toLe 1 status ++ toLe 1 (info % 64) ++ toLe 1 (t.fn - 1)
          ++ toLe 1 t.ring ++ zeros 3 ++ toLe 8 t.tag ++ toLe 8 t.t0 ++ toLe 8 t.t1 ++ toLe 8 t.t2
          ++ toLe 8 t.t3 ++ toLe 8 s.ns)
      else s
    s.ringSettle t.fn t.ring

end Sys2Proof.Machine
end

