-- ==== Sys2Proof/Machine/Dram.lean ====
section
/-! DEFINITION. Device memory as every unit reaches it: the paths between the dies (R21), the hash of the views (R169), the
codewords (R175, R176), the channels' grants (R181), and translation (R172 to R177). -/

namespace Sys2Proof.Machine

/-! ### Paths of the on-chip network (R21) -/

/-- The links that a packet crosses between two dies, in order, by the numbers of R447. -/
def diePath (p : Part) : Die → Die → List Nat
  | .tier a, .tier b =>
    if a = b then [] else
    match p with
    | .gx2 => [0]
    | .gx4 => if (a + 1) % 4 = b then [a] else if (b + 1) % 4 = a then [b] else [4 + a, 4 + b]
  | .tier a, .plinth => [4 + a]
  | .plinth, .tier b => [4 + b]
  | .plinth, .plinth => []

/-- A link is fenced (R454). -/
def State.fenced (s : State) (l : Nat) : Bool := s.fld F.LNK_LINK_STATE 0 (2 * l) = 3

/-- The path between two dies crosses a fenced link: what it would carry is answered UE (R454). -/
def State.cut (s : State) (a b : Die) : Bool := (diePath s.part a b).any s.fenced

/-- The die of a channel (R165). -/
def chanDie (ch : Nat) : Die := .tier (ch / 32)

/-! ### Device memory -/

/-- The channel and the offset within it of a device physical address (R169); `none` outside every view. -/
def dpaRoute (p : Part) (dpa : Nat) : Option (Nat × Nat) :=
  if dpa < Config.farSize p then
    let g := dpa >>> 12
    match p with
    | .gx4 =>
      let u := g >>> 7
      let h := (u ^^^ (u >>> 7) ^^^ (u >>> 14) ^^^ (u >>> 21)) % 128
      some ((g % 128) ^^^ h, (u <<< 12) + dpa % 4096)
    | .gx2 =>
      let u := g >>> 6
      let h := (u ^^^ (u >>> 6) ^^^ (u >>> 12) ^^^ (u >>> 18)) % 64
      some ((g % 64) ^^^ h, (u <<< 12) + dpa % 4096)
  else if dpa < 0x20000000000 then none else
    let o := dpa - 0x20000000000
    let t := o >>> 39
    let n := (o - (t <<< 39)) >>> 12
    if Config.tiers p ≤ t ∨ 0x6000000000 ≤ o - (t <<< 39) then none else
    let v := n >>> 5
    let h := (v ^^^ (v >>> 5) ^^^ (v >>> 10) ^^^ (v >>> 15) ^^^ (v >>> 20)) % 32
    some (32 * t + ((n % 32) ^^^ h), (v <<< 12) + dpa % 4096)

/-- The key of a byte of memory: its channel and its offset within it, so that the two views of R170 name
the same byte. -/
def physKey (ch off : Nat) : Nat := ch * 2 ^ 34 + off

/-- The canonical form of memory: byte keys strictly rising, and no entry of the byte that an unlisted one reads as. -/
def Memory.wf (m : List Host.Cell) : Bool := swf (0 : Byte) m

/-- A byte of memory; one that nothing has written reads as zero, as bring-up leaves it (R482). -/
def State.byte (s : State) (k : Nat) : Byte := sget 0 s.mem k

/-- Store a byte of memory. -/
def State.setByte (s : State) (k : Nat) (b : Byte) : State := { s with mem := sput 0 s.mem k b }

/-- Who makes an access: its requester class (R464), the partition whose tables and XTS keys it uses, the partition it is
attributed to (R182), 64 being the physical function, and the die it comes from (R21). -/
structure Rq where
  cls : Nat
  part : Nat
  attr : Nat
  die : Die
  deriving DecidableEq, Repr

/-- Class 0: the cells and the loader of pool `p`. -/
def cellRq (p part : Nat) : Rq := ⟨0, part, part, .tier (p / 16)⟩

/-- Class 1: the core of pool `p`. -/
def pcoreRq (p part : Nat) : Rq := ⟨1, part, part, .tier (p / 16)⟩

/-- Class 2: the DMA engine of pool `p`. -/
def dmaRq (p part : Nat) : Rq := ⟨2, part, part, .tier (p / 16)⟩

/-- Class 3: a walk of the tables of a partition, from the die of the access that needs it. -/
def walkRq (part : Nat) (die : Die) : Rq := ⟨3, part, part, die⟩

/-- Class 5: the Cascade unit or Update Engine of a tier. -/
def casRq (part tier : Nat) : Rq := ⟨5, part, part, .tier tier⟩

/-- Class 6: Aqueduct. -/
def aqdRq (part : Nat) : Rq := ⟨6, part, part, .plinth⟩

/-- Class 7: the Host Memory Port, through the tables of `part`. -/
def hmpRq (part : Nat) : Rq := ⟨7, part, 64, .plinth⟩

/-- Class 9: any other unit that works through the tables of `part`; R182 attributes it to the physical function (log entry
19). -/
def otherRq (part : Nat) (die : Die) : Rq := ⟨9, part, 64, die⟩

/-- The memory-error event's data (R464). -/
def memEventData (cls ch dpa : Nat) : List Byte := toLe 1 cls ++ toLe 1 ch ++ toLe 8 dpa

/-- The XTS key under which accesses attributed to `part` run; 0 is none (R403). -/
def State.xtsKey (s : State) (part : Nat) : Nat := if part < 64 then sget 0 s.sec.xts part else 0

/-- What an access under key `q` sees of the half of byte key `k`: its bytes when it was written under the
same key, and otherwise what the cipher makes of them, which is left uninterpreted (R403). -/
def State.seen (s : State) (q k : Nat) : List Byte :=
  let t := sget 0 s.sec.halfKey (k / 32)
  let d := sgetRun 0 s.mem k 32
  if t = q then d else fit 32 (Config.xtsMix t q k d)

/-! ### Codewords (R175, R176) -/

/-- What is wrong with a codeword. -/
def State.codeword (s : State) (w : Nat) : CodewordSt := sget {} s.memc.words w

/-- Store what is wrong with a codeword. -/
def State.setCodeword (s : State) (w : Nat) (x : CodewordSt) : State :=
  { s with memc := { s.memc with words := sput {} s.memc.words w x } }

/-- An upset that the world reports strikes its codeword, once. -/
def State.strike (s : State) (env : Env) (w : Nat) : State :=
  match env.ecc.find? fun u => u.word = w with
  | none => s
  | some u =>
    if (s.codeword w).serial < u.serial then s.setCodeword w ⟨(s.codeword w).errs ++ u.errs, u.serial⟩ else s

/-- Write a whole half under key `q`, with fresh check bytes. -/
def State.putHalf (s : State) (q k : Nat) (d : List Byte) : State :=
  { s with mem := sputRun 0 s.mem k (fit 32 d),
           sec := { s.sec with halfKey := sput 0 s.sec.halfKey (k / 32) q },
           memc := { s.memc with words := sput {} s.memc.words (k / 32) { s.codeword (k / 32) with errs := [] } } }

/-- The pattern `e`, added to the half of byte key `k`, becomes its content: nothing where every symbol cancels. Under an
XTS key the pattern is one of the ciphertext (R403). -/
def State.takeFlaws (s : State) (k : Nat) (e : Flaws) : State :=
  let s := s.setCodeword (k / 32) { s.codeword (k / 32) with errs := [] }
  let d := sgetRun 0 s.mem k 32
  let q := sget 0 s.sec.halfKey (k / 32)
  if (upFrom 0 32).all fun n => flawAt e n = 0 then s
  else { s with mem := sputRun 0 s.mem k (fit 32 (if q = 0 then addFlaws d e else Config.xtsGarble q k d e)) }

/-- How a read finds a codeword. -/
inductive Look where
  | clean | corrected | bad
  deriving DecidableEq, Repr

/-- Read the codeword of byte key `k`: a corrected one is written back, ordered before any later access to it; one that the
decoder reports is left as it is (R176). -/
def State.look (s : State) (env : Env) (k : Nat) : State × Look :=
  let s := s.strike env (k / 32)
  let e := (s.codeword (k / 32)).errs
  if e = [] then (s, .clean) else
  match decodeFlaws e with
  | .valid => (s.takeFlaws k e, .clean)
  | .fixed n v => (s.takeFlaws k (e ++ [(n, v)]), .corrected)
  | .bad => (s, .bad)

/-- Count and report a corrected codeword (R176). -/
def State.noteCe (s : State) (rq : Rq) (dpa ch : Nat) (a : Look) : State :=
  if a = .corrected then (s.satInc F.MEM_CE_COUNT 0 ch 1).memErr 0 dpa rq.attr ch else s

/-- Count and report an uncorrectable codeword: `b` is its error bit, and its event goes to `ev` (R176, R178). -/
def State.noteUe (s : State) (rq : Rq) (dpa ch b ev : Nat) (a : Look) : State :=
  if a = .bad then
    ((s.satInc F.MEM_UE_COUNT 0 ch 1).memErr b dpa rq.attr ch).eventFor ev 0x0201 (memEventData rq.cls ch dpa)
  else s

/-- What an access found in its halves at `dpa` and `dpa + 32`, lowest cause bit first (R183). A walk's event is the physical
function's (R176). -/
def State.noteLook (s : State) (rq : Rq) (dpa ch : Nat) (a b : Look) : State :=
  let ev := if rq.cls = 3 then 64 else rq.attr
  let s := (s.noteCe rq dpa ch a).noteCe rq (dpa + 32) ch b
  (s.noteUe rq dpa ch 1 ev a).noteUe rq (dpa + 32) ch 1 ev b

/-! ### Channels (R165, R166, R180, R181) -/

/-- The state of a channel controller. -/
def State.chan (s : State) (ch : Nat) : ChanSt := sget {} s.memc.chans ch

/-- Store the state of a channel controller. -/
def State.setChan (s : State) (ch : Nat) (c : ChanSt) : State :=
  { s with memc := { s.memc with chans := sput {} s.memc.chans ch c } }

/-- An access to the channel ends its power-down (R166). -/
def State.wake (s : State) (ch : Nat) : State :=
  if (s.chan ch).powerDown then (s.emit (.dram ch .powerDownExit)).setChan ch { s.chan ch with powerDown := false } else s

/-- Whether an access opens its row is not stated: a free value decides it, and the count of the
bank's activates leads to a refresh-management command at the package's threshold (R180). -/
def State.activate (s : State) (ch off : Nat) (parts : List Nat) : State :=
  if s.freeBits 1 = 0 then s.bump else
  let s := (s.count 0x0303 ch parts 1).bump
  let b := (off >>> 12) % Config.banks
  let c := s.chan ch
  let n := sget 0 c.activates b + 1
  if Config.rfmThreshold ≤ n then
    let s := s.setChan ch { c with activates := sput 0 c.activates b 0 }
    (s.count 0x0304 ch [] 1).emit (.dram ch (.refreshManagement b))
  else s.setChan ch { c with activates := sput 0 c.activates b n }

/-- The controller's read of a unit: zero data and UE when either half is uncorrectable (R165, R176). -/
def State.readAt (s : State) (env : Env) (rq : Rq) (dpa ch off : Nat) : State × Resp × List Byte :=
  let s := (s.count 0x0301 ch (ofPart rq.attr) 1).activate ch off (ofPart rq.attr)
  let k := physKey ch off
  match s.look env k with
  | (s, a) =>
    match s.look env (k + 32) with
    | (s, b) =>
      let s := s.noteLook rq dpa ch a b
      if a = .bad ∨ b = .bad then (s, .ue, zeros 64)
      else (s, .okay, s.seen (s.xtsKey rq.part) k ++ s.seen (s.xtsKey rq.part) (k + 32))

/-- A write of a half reads its codeword first where it covers only a part of it (R171). -/
def State.lookPart (s : State) (env : Env) (k : Nat) (m : List Bool) : State × Look :=
  if m.all (· = false) || m.all (· = true) then (s.strike env (k / 32), .clean) else s.look env k

/-- Put the enabled bytes into the half of byte key `k`. -/
def State.landHalf (s : State) (rq : Rq) (k : Nat) (d : List Byte) (m : List Bool) : State :=
  let q := s.xtsKey rq.part
  if m.all (· = false) then s
  else if m.all (· = true) then s.putHalf q k d
  else
    let old := s.seen q k
    s.putHalf q k ((upFrom 0 32).map fun i => if m.getD i false then d.getD i 0 else old.getD i 0)

/-- The controller's write of the enabled bytes of a unit. One whose read finds an uncorrectable codeword in either half
writes nothing and is answered UE (R176, R177). -/
def State.writeAt (s : State) (env : Env) (rq : Rq) (dpa ch off : Nat) (d : List Byte) (m : List Bool) : State × Resp :=
  let s := (s.count 0x0302 ch (ofPart rq.attr) 1).activate ch off (ofPart rq.attr)
  let k := physKey ch off
  match s.lookPart env k (m.take 32) with
  | (s, a) =>
    match s.lookPart env (k + 32) (m.drop 32) with
    | (s, b) =>
      let s := s.noteLook rq dpa ch a b
      if a = .bad ∨ b = .bad then (s, .ue)
      else ((s.landHalf rq k (d.take 32) (m.take 32)).landHalf rq (k + 32) (d.drop 32) (m.drop 32), .okay)

/-! ### Grants (R171, R181) -/

/-- `a - b` of 32-bit tags read as a signed difference is above zero (R181). -/
def tagAfter (a b : Nat) : Bool := 0 < signed 32 (a + 2 ^ 32 - b % 2 ^ 32)

/-- inc[i] of R181. -/
def State.tagInc (s : State) (i : Nat) : Nat :=
  cdiv 65536 (if i < 64 then (s.partRec i).wMem else 255)

/-- The ready partition with the smallest tag, lowest index on a tie (R181). -/
def smallestTag (tags : List (Nat × Nat)) : List Nat → Option Nat
  | [] => none
  | i :: l =>
    match smallestTag tags l with
    | none => some i
    | some j =>
      let a := sget 0 tags i
      let b := sget 0 tags j
      if tagAfter b a || (a = b && i < j) then some i else some j

/-- Two writes that meet in a codeword (R171). -/
def MemReq.meets (q r : MemReq) : Bool :=
  q.write && r.write && q.off / 64 = r.off / 64 &&
    (((q.mask.take 32).any (fun b => b) && (r.mask.take 32).any (fun b => b)) || ((q.mask.drop 32).any (fun b => b) && (r.mask.drop 32).any (fun b => b)))

/-- The accesses of a queue that may be granted: two writes to one codeword take effect in the order in which they reached
the controller, so the later one is not ready before the earlier one has been granted (R171). -/
def readyReqs (older : List MemReq) : List MemReq → List MemReq
  | [] => []
  | q :: l => if older.any q.meets then readyReqs (older ++ [q]) l else q :: readyReqs (older ++ [q]) l

/-- The queue becomes `l`: a partition that had nothing ready and now has catches up with the virtual time (R181). -/
def ChanSt.requeue (c : ChanSt) (l : List MemReq) : ChanSt :=
  let had := (readyReqs [] c.queue).map (·.part)
  let now := (readyReqs [] l).map (·.part)
  let tags := (now.filter (· ∉ had)).foldl
    (fun t i => if tagAfter c.vnow (sget 0 t i) then sput 0 t i c.vnow else t) c.tags
  { c with queue := l, tags := tags }

/-- An access reaches its channel: it ends power-down and waits for its grant (R166, R181). -/
def State.enqueue (s : State) (ch : Nat) (q : MemReq) : State :=
  let s := s.wake ch
  s.setChan ch ((s.chan ch).requeue ((s.chan ch).queue ++ [q]))

/-- The access that the next grant slot of a channel goes to: the oldest ready one of the ready partition with the smallest
tag (R181). -/
def ChanSt.next (c : ChanSt) : Option MemReq :=
  let l := readyReqs [] c.queue
  (smallestTag c.tags (l.map (·.part))).bind fun i => l.find? fun q => q.part = i

/-- A grant slot goes to `q`: virtual time and its partition's tag move, and it leaves the queue. Other partitions that wait
lose the slot (code 0x0305). -/
def State.grant (s : State) (ch : Nat) (q : MemReq) : State :=
  let c := s.chan ch
  let t := sget 0 c.tags q.part
  let wait := ((readyReqs [] c.queue).map (·.part)).filter fun p => p ≠ q.part
  let c := { c with vnow := t, tags := sput 0 c.tags q.part ((t + s.tagInc q.part) % 2 ^ 32), slots := c.slots + 1 }
  let s := s.setChan ch (c.requeue (c.queue.erase q))
  if wait = [] then s else s.count 0x0305 ch (wait.flatMap ofPart) 1

/-- Answer an access. -/
def State.respond (s : State) (q : MemReq) (r : Resp) (d : List Byte) : State := s.emit (.memResp q.id r d)

/-- Serve a granted access and answer it (R171, R176). -/
def State.serve (s : State) (env : Env) (ch : Nat) (q : MemReq) : State :=
  let rq : Rq := ⟨q.cls, q.part, q.part, q.die⟩
  if q.write then
    match s.writeAt env rq q.addr ch q.off q.data q.mask with
    | (s, r) => s.respond q r []
  else
    match s.readAt env rq q.addr ch q.off with
    | (s, r, d) => s.respond q r d

/-- Grant slots of a channel until the access `id` has its own: those before it are served (R181). -/
def State.grantTo (s : State) (env : Env) (ch id : Nat) : Nat → State
  | 0 => s
  | n + 1 =>
    match (s.chan ch).next with
    | none => s
    | some q => if q.id = id then s.grant ch q else ((s.grant ch q).serve env ch q).grantTo env ch id n

/-- An access of one of the module's own units: it waits at its channel as every other does, and has its grant slot when the
function returns (R171, R181). -/
def State.compete (s : State) (env : Env) (rq : Rq) (ch off : Nat) (write : Bool) (m : List Bool) : State :=
  let id := s.memc.nextId
  let s := s.enqueue ch ⟨id, rq.cls, rq.die, rq.attr, 0, 0, 0, off, write, [], m⟩
  s.grantTo env ch id ((s.chan ch).queue.length)

/-- Read the 64-byte unit at `dpa` (aligned) in memory: RANGE outside every view (R177), UE over a fenced link (R454), and
otherwise what the channel answers. -/
def State.readUnitDpa (s : State) (env : Env) (rq : Rq) (dpa : Nat) : State × Resp × List Byte :=
  match dpaRoute s.part dpa with
  | none => (s.memErr 4 dpa rq.attr 0, .range, zeros 64)
  | some (ch, off) =>
    if s.cut rq.die (chanDie ch) then (s, .ue, zeros 64)
    else (s.compete env rq ch off false []).readAt env rq dpa ch off

/-- Write the enabled bytes of the 64-byte unit at `dpa`. -/
def State.writeUnitDpa (s : State) (env : Env) (rq : Rq) (dpa : Nat) (d : List Byte) (m : List Bool) :
    State × Resp :=
  match dpaRoute s.part dpa with
  | none => (s.memErr 4 dpa rq.attr 0, .range)
  | some (ch, off) =>
    if s.cut rq.die (chanDie ch) then (s, .ue)
    else (s.compete env rq ch off true m).writeAt env rq dpa ch off d m

/-! ### Translation -/

/-- Where a translated access goes: device memory or the host bus. -/
inductive Target where
  | dev (dpa : Nat)
  | bus (addr : Nat)
  deriving DecidableEq, Repr

/-- Size in bits of the page a leaf at level `l` maps (R172). -/
def pageBits (l : Nat) : Nat := 12 + 9 * l

/-- What a valid leaf at level `l` gives for `va`, or the response of its faults (R173). -/
def leafTarget (pte l va : Nat) (write : Bool) : Except Resp Target :=
  if write && !bit pte 1 then .error .perm else
  let a := (bits pte 51 12) <<< 12
  let a := a + va % 2 ^ pageBits l
  .ok (if bit pte 3 then .bus a else .dev a)

/-- Is this page-table entry at level `l` a translation fault (R173)? -/
def pteFault (pte l : Nat) : Bool :=
  !bit pte 0 || bits pte 63 52 ≠ 0 || bits pte 11 4 ≠ 0
    || (l = 3 && bit pte 2) || (l = 0 && !bit pte 2) || (!bit pte 2 && bit pte 3)
    || (l = 2 && bit pte 2 && bits pte 29 12 ≠ 0) || (l = 1 && bit pte 2 && bits pte 20 12 ≠ 0)

/-- A locked TDI meets a cause of R400: its state is ERROR at once, and what it has under way is to be stopped. -/
def State.tdiBreak (s : State) (part : Nat) : State :=
  if s.tdi part = 1 ∨ s.tdi part = 2 then
    let s := s.setFld F.SEC_TDI_STATE 0 part 3
    { s with sec := { s.sec with broken := s.sec.broken ++ [part] } }
  else s

/-- Walk from level `n - 1` down, with the table at DPA `tbl` (R172, R173): the leaf and its level. -/
def State.walk (s : State) (env : Env) (rq : Rq) (va : Nat) : Nat → Nat → State × Except Resp (Nat × Nat)
  | 0, _ => (s, .error .xlate)
  | l + 1, tbl =>
    let a := tbl + 8 * (bits va (20 + 9 * l) (12 + 9 * l))
    match s.readUnitDpa env (walkRq rq.part rq.die) (a / 64 * 64) with
    | (s, .okay, d) =>
      let pte := leAt d (a % 64) 8
      if pteFault pte l then (s, .error .xlate)
      else if bit pte 2 then (s, .ok (pte, l))
      else s.walk env rq va l ((bits pte 51 12) <<< 12)
    | (s, r, _) => (if r = .ue then s.tdiBreak rq.part else s, .error r)

/-- A cached translation of `va` for partition `part` (R174). -/
def State.tlbFind (s : State) (part va : Nat) : Option TlbEnt :=
  s.memc.tlb.find? fun e => e.part = part && va >>> pageBits e.level = e.page

/-- Translate a partition virtual address (R172 to R174). -/
def State.translate (s : State) (env : Env) (rq : Rq) (va : Nat) (write : Bool) :
    State × Except Resp Target :=
  if 64 ≤ rq.part ∨ !s.partEnabled rq.part ∨ !s.flag F.MEM_PT_EN 0 rq.part ∨ bits va 63 48 ≠ 0 then
    (s, .error .xlate)
  else match s.tlbFind rq.part va with
    | some e => (s, leafTarget e.pte e.level va write)
    | none =>
      match s.walk env rq va 4 ((s.fld F.MEM_PT_DPA 0 rq.part) <<< 12) with
      | (s, .error r) => (s, .error r)
      | (s, .ok (pte, l)) =>
        let e : TlbEnt := ⟨rq.part, va >>> pageBits l, l, pte⟩
        ({ s with memc := { s.memc with tlb := s.memc.tlb ++ [e] } }, leafTarget pte l va write)

/-- Record an XLATE or PERM response (MEM_E_XLATE). No DPA exists, so MEM_EF_DPA is a free value (log
entry 3). -/
def State.faultResp (s : State) (rq : Rq) (r : Resp) : State :=
  if r = .xlate ∨ r = .perm then (s.memErr 3 (s.freeBits 42) rq.attr 0).bump else s

/-- The requester has a path to PCIe: the DMA engine, whose accesses the spec sends there, and what Config.pciePath says
of the others (R177). -/
def pciePath (cls : Nat) : Bool := cls = 2 || Config.pciePath cls

/-- A read or write of the weighted class is granted on the PCIe link: `units` of 64 bytes for partition `i`, 64 the physical
function. No other such request waits, because a command's requests are issued as it makes them (log entry 15), so the
partition has just become ready and catches up first (R181, R382). -/
def State.pcieGrant (s : State) (i units : Nat) : State :=
  let t := sget 0 s.que.pcieTags i
  let t := if tagAfter s.que.pcieVnow t then s.que.pcieVnow else t
  let inc := cdiv 65536 (if i < 64 then (s.partRec i).wPcie else 255)
  { s with que := { s.que with pcieTags := sput 0 s.que.pcieTags i ((t + inc * units) % 2 ^ 32), pcieVnow := t } }

/-- What keeps an access of a host-bus leaf from PCIe: no path, which is answered RANGE, or a fenced link (R177, R454). -/
def State.busRefused (s : State) (rq : Rq) : State × Option Resp :=
  if !pciePath rq.cls then ((s.memErr 4 (s.freeBits 42) rq.attr 0).bump, some .range)
  else if s.cut rq.die .plinth then (s, some .ue)
  else (s, none)

/-- 64 bytes of host memory as the command's environment gives them. -/
def hostBytes (env : Env) (a n : Nat) : List Byte := sgetRun 0 env.host a n

/-- Read the 64-byte unit that holds `va`, through the partition's tables. -/
def State.readUnit (s : State) (env : Env) (rq : Rq) (va : Nat) : State × Resp × List Byte :=
  match s.translate env rq (va / 64 * 64) false with
  | (s, .error r) => (s.faultResp rq r, r, zeros 64)
  | (s, .ok (.dev d)) => s.readUnitDpa env rq d
  | (s, .ok (.bus a)) =>
    match s.busRefused rq with
    | (s, some r) => (s, r, zeros 64)
    | (s, none) =>
      let s := (s.pcieGrant rq.attr 1).emitFor rq.part (.hostRead a 64 true)
      if a / 64 ∈ env.hostFail then (s, .ue, zeros 64) else (s, .okay, hostBytes env a 64)

/-- Write the enabled bytes of the 64-byte unit that holds `va`, through the partition's tables. -/
def State.writeUnit (s : State) (env : Env) (rq : Rq) (va : Nat) (d : List Byte) (m : List Bool) :
    State × Resp :=
  match s.translate env rq (va / 64 * 64) true with
  | (s, .error r) => (s.faultResp rq r, r)
  | (s, .ok (.dev a)) => s.writeUnitDpa env rq a d m
  | (s, .ok (.bus a)) =>
    match s.busRefused rq with
    | (s, some r) => (s, r)
    | (s, none) => ((s.pcieGrant rq.attr 1).emitFor rq.part (.hostPut a d m true), .okay)

/-- The first response that is not OKAY. -/
def Resp.join (a b : Resp) : Resp := if a = .okay then b else a

/-- Read `n` units from the unit that holds `va`. -/
def State.readUnits (s : State) (env : Env) (rq : Rq) (va : Nat) : Nat → State × Resp × List Byte
  | 0 => (s, .okay, [])
  | n + 1 =>
    match s.readUnit env rq va with
    | (s, r, d) =>
      match s.readUnits env rq (va + 64) n with
      | (s, r', d') => (s, r.join r', d ++ d')

/-- How many 64-byte units `[va, va + len)` touches. -/
def unitsOf (va len : Nat) : Nat := if len = 0 then 0 else (va + len - 1) / 64 - va / 64 + 1

/-- Read `len` bytes at a partition virtual address: every unit is read, the bytes of a failing unit read
zero, and the first response that is not OKAY is the answer (R176, R177). -/
def State.readVa (s : State) (env : Env) (rq : Rq) (va len : Nat) : State × Resp × List Byte :=
  match s.readUnits env rq (va / 64 * 64) (unitsOf va len) with
  | (s, r, d) => (s, r, slice d (va % 64) len)

/-- The bytes and enables that a write of `bs` at `va` puts into the unit at `u`. -/
def unitPart (va : Nat) (bs : List Byte) (u : Nat) : List Byte × List Bool :=
  ((upFrom 0 64).map fun i => if va ≤ u + i then bs.getD (u + i - va) 0 else 0,
   (upFrom 0 64).map fun i => decide (va ≤ u + i) && decide (u + i < va + bs.length))

/-- Write the units `u`, `u + 64`, …, `n` of them, of a write of `bs` at `va`. -/
def State.writeUnits (s : State) (env : Env) (rq : Rq) (va : Nat) (bs : List Byte) (u : Nat) :
    Nat → State × Resp
  | 0 => (s, .okay)
  | n + 1 =>
    match s.writeUnit env rq u (unitPart va bs u).1 (unitPart va bs u).2 with
    | (s, r) =>
      match s.writeUnits env rq va bs (u + 64) n with
      | (s, r') => (s, r.join r')

/-- Write `bs` at a partition virtual address: every unit is written that can be, and the first response
that is not OKAY is the answer (R171, R177). -/
def State.writeVa (s : State) (env : Env) (rq : Rq) (va : Nat) (bs : List Byte) : State × Resp :=
  s.writeUnits env rq va bs (va / 64 * 64) (unitsOf va bs.length)

/-- The read requests for `len` bytes at `a` with requests of at most `m` bytes, none crossing a multiple of `m` (R304). -/
def readReqs (m a len : Nat) : Nat → List (Nat × Nat)
  | 0 => []
  | n + 1 => if len = 0 then [] else
    let k := min len (m - a % m)
    (a, k) :: readReqs m (a + k) (len - k) n

/-- Issue the physical function's read requests for a range of host memory (R304, R322, R382). -/
def State.issueReads (s : State) (a len : Nat) : State :=
  let m := 128 * 2 ^ (s.cfg 0).readReq
  (readReqs m a len (len / m + 2)).foldl (fun s r => (s.pcieGrant 64 (cdiv r.2 64)).emit (.hostRead r.1 r.2 true)) s

/-- Read `len` bytes of host memory by bus address, through the physical function. -/
def State.readBus (s : State) (env : Env) (a len : Nat) : State × Bool × List Byte :=
  (s.issueReads a len,
   (upFrom (a / 64) (unitsOf a len)).all (fun u => !decide (u ∈ env.hostFail)),
   hostBytes env a len)

end Sys2Proof.Machine
end

