-- ==== Sys2Proof/Machine/Mem.lean ====
section
/-! DEFINITION. The LPDDR6 memory subsystem's own commands: an access arriving at a channel, the grant
slot, the patrol, refresh, and translation invalidation (spec/07). -/

namespace Sys2Proof.Machine

/-- A command with the effect `s'`. -/
abbrev done (s' : State) : Host.Outcome State Fault Refusal := .next s'

/-- The channel of an access whose device address is known without a walk. -/
def State.knownChan (s : State) (a : Acc) : Option Nat :=
  let u := a.addr / 64 * 64
  (if a.phys then dpaRoute s.part u
    else match s.tlbFind a.part u with
      | none => none
      | some e =>
        match leafTarget e.pte e.level u a.write with
        | .ok (.dev d) => dpaRoute s.part d
        | _ => none).map (·.1)

/-- MEM_ACCESS: translation, routing, and the responses that need no memory (R168 to R174, R177, R181). An access over a
fenced link is answered UE (R454), also once memory itself answers nothing (R466). -/
def doMemAccess (a : Acc) (env : Env) (s : State) : State :=
  let id := s.memc.nextId
  let q : MemReq := ⟨id, a.cls, a.die, a.part, a.addr, 0, 0, 0, a.write, a.data, a.mask⟩
  if s.stopped then
    (match s.knownChan a with
    | some ch =>
      if s.cut a.die (chanDie ch) then ({ s with memc := { s.memc with nextId := id + 1 } } : State).respond q .ue [] else s
    | none => s)
  else
  let s := { s with memc := { s.memc with nextId := id + 1 } }
  let rq : Rq := ⟨a.cls, a.part, a.part, a.die⟩
  let go := fun (s : State) (addr : Nat) =>
    let via := if a.phys then 0 else ((s.tlbFind a.part a.addr).map fun e => pageBits e.level).getD 0
    match dpaRoute s.part addr with
    | none => (s.memErr 4 addr a.part 0).respond q .range []
    | some (ch, off) =>
      if s.cut a.die (chanDie ch) then s.respond q .ue []
      else s.enqueue ch { q with via := via, addr := addr, off := off }
  if a.phys then go s (a.addr / 64 * 64) else
  match s.translate env rq (a.addr / 64 * 64) a.write with
  | (s, .error r) => (s.faultResp rq r).respond q r []
  | (s, .ok (.dev d)) => go s d
  | (s, .ok (.bus b)) =>
    match s.busRefused rq with
    | (s, some r) => s.respond q r []
    | (s, none) =>
      if a.write then ((s.pcieGrant a.part 1).emitFor a.part (.hostPut b a.data a.mask true)).respond q .okay []
      else
        let s := (s.pcieGrant a.part 1).emitFor a.part (.hostRead b 64 true)
        let via := ((s.tlbFind a.part a.addr).map fun e => pageBits e.level).getD 0
        { s with memc := { s.memc with hostOut := s.memc.hostOut ++ [{ q with addr := b, via := via }] } }

def execMemAccess (a : Acc) (env : Env) (s : State) : Host.Outcome State Fault Refusal :=
  done (doMemAccess a env s)

/-- MEM_GRANT_SLOT: the ready partition with the smallest tag is granted its oldest ready access, which is served (R181). -/
def doMemGrantSlot (ch : Nat) (env : Env) (s : State) : State :=
  if s.stopped then s else
  match (s.chan ch).next with
  | none => s
  | some q => (s.grant ch q).serve env ch q

def execMemGrantSlot (ch : Nat) (env : Env) (s : State) : Host.Outcome State Fault Refusal :=
  done (doMemGrantSlot ch env s)

/-- The far-view DPA of an offset in a channel: the inverse of R169's hash. -/
def farDpa (p : Part) (ch off : Nat) : Nat :=
  let u := off >>> 12
  match p with
  | .gx4 =>
    let h := (u ^^^ (u >>> 7) ^^^ (u >>> 14) ^^^ (u >>> 21)) % 128
    (((u <<< 7) + (ch ^^^ h)) <<< 12) + off % 4096
  | .gx2 =>
    let h := (u ^^^ (u >>> 6) ^^^ (u >>> 12) ^^^ (u >>> 18)) % 64
    (((u <<< 6) + (ch ^^^ h)) <<< 12) + off % 4096

/-- Codewords of a channel: 12 GiB in halves of 32 bytes (R165, R175). -/
def codewords : Nat := 0x300000000 / 32

/-- The patrol's period in periods of the time clock: MEM_PATROL_HOURS, 0 read as 1 (R178). -/
def State.patrolPeriod (s : State) : Nat := max 1 (s.fld F.MEM_PATROL_HOURS 0 0) * 3600000000000

/-- The patrol of a channel is more than 1 % of its period behind the time at which its next codeword is due (R178). -/
def State.patrolLate (s : State) (ch : Nat) : Bool :=
  let c := s.chan ch
  let p := s.patrolPeriod
  decide ((c.patrolAt + p / 100) * codewords + c.patrol * p < s.clp.ticks * codewords)

/-- PATROL_READ: the next codeword of the channel, treated as R176 except for the bit and the queue of an
uncorrectable one. It takes a slot only when no partition request is ready, or one in 4096 when the patrol is late (R178). -/
def doPatrolRead (ch : Nat) (env : Env) (s : State) : State :=
  if s.stopped || s.flag F.MEM_PATROL_DISABLE 0 0 then s else
  let idle := decide ((readyReqs [] (s.chan ch).queue) = [])
  if !idle && !(s.patrolLate ch && decide (4095 ≤ (s.chan ch).slots)) then s else
  let s := s.wake ch
  let c := s.chan ch
  let off := 32 * c.patrol
  let wrap := decide (c.patrol + 1 = codewords)
  let s := s.setChan ch { c with patrol := if wrap then 0 else c.patrol + 1,
                                 patrolAt := if wrap then c.patrolAt + s.patrolPeriod else c.patrolAt,
                                 slots := if idle then c.slots else 0 }
  let rq : Rq := ⟨8, 64, 64, chanDie ch⟩
  let dpa := farDpa s.part ch off
  match (s.activate ch off []).look env (physKey ch off) with
  | (s, a) => (s.noteCe rq dpa ch a).noteUe rq dpa ch 2 64 a

def execPatrolRead (ch : Nat) (env : Env) (s : State) : Host.Outcome State Fault Refusal :=
  done (doPatrolRead ch env s)

/-- REFRESH: per-bank refresh of the channel's next bank (R166, R179). -/
def doRefresh (ch : Nat) (s : State) : State :=
  let c := s.chan ch
  if c.selfRefresh then s else
  (s.emit (.dram ch (.refreshBank c.bank))).setChan ch { c with bank := (c.bank + 1) % Config.banks }

def execRefresh (ch : Nat) (s : State) : Host.Outcome State Fault Refusal := done (doRefresh ch s)

/-- MEM_TEMP_READ: the package's temperature goes to the sensors and sets the refresh interval (R179). -/
def doMemTempRead (ch celsius : Nat) (s : State) : State :=
  let c := s.chan ch
  if c.selfRefresh then s else
  let s := (s.emit (.dram ch .readTemperature)).setChan ch { c with hot := decide (85 < celsius) }
  { s with memc := { s.memc with temps := sput 0 s.memc.temps (ch / 4) celsius } }

def execMemTempRead (ch celsius : Nat) (s : State) : Host.Outcome State Fault Refusal :=
  done (doMemTempRead ch celsius s)

/-- WRITE_TIMING_COMPENSATION: the interval oscillator is read and the write timing follows (R166). -/
def doWriteTimingCompensation (ch : Nat) (s : State) : State :=
  if (s.chan ch).selfRefresh then s
  else (s.emit (.dram ch .readOscillator)).emit (.dram ch .adjustWriteTiming)

def execWriteTimingCompensation (ch : Nat) (s : State) : Host.Outcome State Fault Refusal :=
  done (doWriteTimingCompensation ch s)

/-- POWER_DOWN_ENTRY: an idle channel enters power-down (R166). -/
def doPowerDownEntry (ch : Nat) (s : State) : State :=
  let c := s.chan ch
  if c.queue ≠ [] ∨ c.powerDown ∨ c.selfRefresh then s
  else (s.emit (.dram ch .powerDownEntry)).setChan ch { c with powerDown := true }

def execPowerDownEntry (ch : Nat) (s : State) : Host.Outcome State Fault Refusal :=
  done (doPowerDownEntry ch s)

/-- The read `id` that the device sent over PCIe is answered (R177). -/
def State.hostAnswer (s : State) (id : Nat) (ok : Bool) (data : List Byte) : State :=
  match s.memc.hostOut.find? (fun q => q.id = id) with
  | none => s
  | some q =>
    let s := { s with memc := { s.memc with hostOut := s.memc.hostOut.erase q } }
    if ok then s.respond q .okay (fit 64 data) else s.respond q .ue []

/-- HOST_BUS_COMPLETION: OKAY with the data, or UE with none (R177). -/
def doHostBusCompletion (id : Nat) (ok : Bool) (data : List Byte) (s : State) : State :=
  s.hostAnswer id ok data

def execHostBusCompletion (id : Nat) (ok : Bool) (data : List Byte) (s : State) :
    Host.Outcome State Fault Refusal :=
  done (doHostBusCompletion id ok data s)

/-- PCIE_COMPLETION_TIMEOUT: the read is answered UE with no data (R177). -/
def doPcieCompletionTimeout (id : Nat) (s : State) : State := s.hostAnswer id false []

def execPcieCompletionTimeout (id : Nat) (s : State) : Host.Outcome State Fault Refusal :=
  done (doPcieCompletionTimeout id s)

/-- MEM_TLB_GO: a write of MEM_TLB_INV_CTRL; the scope and partition are stored, and the GO bit starts an
invalidation unless one runs (R174). -/
def doMemTlbGo (value : Nat) (s : State) : State :=
  let s := s.setFld F.MEM_TLB_SCOPE 0 0 (bits value 9 8)
  let s := s.setFld F.MEM_TLB_PART 0 0 (bits value 5 0)
  if !bit value 16 || s.flag F.MEM_TLB_BUSY 0 0 then s else
  let s := s.setFld F.MEM_TLB_BUSY 0 0 1
  let i := (s.fld F.MEM_TLB_SCOPE 0 0, s.fld F.MEM_TLB_PART 0 0, s.fld F.MEM_TLB_VA 0 0 * 4096)
  { s with memc := { s.memc with inval := some i } }

def execMemTlbGo (value : Nat) (s : State) : Host.Outcome State Fault Refusal := done (doMemTlbGo value s)

/-- Does an invalidation cover a translation of `va` for `part` by a page of `2 ^ n` bytes (R174)? -/
def covers (i : Nat × Nat × Nat) (part va n : Nat) : Bool :=
  if i.1 = 0 then part = i.2.1 && va >>> n = i.2.2 >>> n
  else if i.1 = 1 then part = i.2.1
  else true

/-- An access in flight under a translation the invalidation covers (R174). -/
def inFlightUnder (i : Nat × Nat × Nat) (q : MemReq) : Bool := q.via ≠ 0 && covers i q.part q.va q.via

/-- The translation that a write of `len` bytes of partition `part` at `va` was made under is covered (R174). -/
def State.writeUnder (s : State) (i : Nat × Nat × Nat) (part va len : Nat) : Bool :=
  ([va, va + (len - 1)] : List Nat).any fun a =>
    (s.tlbFind part a).any fun e => covers i part a (pageBits e.level)

/-- The writes of a received packet whose responses are awaited use a covered translation (R174, R251). -/
def State.placedUnder (s : State) (i : Nat × Nat × Nat) (c : FlowCtx) : Bool :=
  c.rx.any fun e => e.placed && s.writeUnder i c.part e.va e.data.length

/-- TLB_INVALIDATION_DONE: the covered translations are gone and MEM_TLB_BUSY clears, once no access under
one of them waits for its response (R174). -/
def doTlbInvalidationDone (s : State) : State :=
  match s.memc.inval with
  | none => s
  | some i =>
    if s.memc.chans.any (fun e => e.2.queue.any (inFlightUnder i)) || s.memc.hostOut.any (inFlightUnder i)
      || s.hmp.chans.any (fun e => e.2.out.any fun o => s.writeUnder i o.part o.va 32) || s.aqd.ctxs.any (fun e => s.placedUnder i e.2)
    then s else
    let keep := s.memc.tlb.filter fun e => !covers i e.part (e.page <<< pageBits e.level) (pageBits e.level)
    let s := { s with memc := { s.memc with tlb := keep, inval := none } }
    s.setFld F.MEM_TLB_BUSY 0 0 0

def execTlbInvalidationDone (s : State) : Host.Outcome State Fault Refusal := done (doTlbInvalidationDone s)

end Sys2Proof.Machine
end

