-- ==== Sys2Proof/Machine/Pmc.lean ====
section
/-! DEFINITION. Snapshots, freezes, thaws, clearing and tagging of the performance counters (spec/22). -/

namespace Sys2Proof.Machine

/-- Copy every counter to its shadow, stamped `t` (R301, R474). -/
def State.pmcSnapshot (s : State) (t : Nat) : State :=
  let p := s.pmc
  let s := { s with pmc := { p with genSh := p.gen, portSh := p.port, cellSh := p.cell } }
  let s := s.setFld F.PMC_SNAP_SEQ 0 0 (s.fld F.PMC_SNAP_SEQ 0 0 + 1)
  s.setFld F.PMC_SNAP_STAMP 0 0 t

/-- Stop every counter; new tags stop too (R474, R478). -/
def State.pmcFreeze (s : State) : State := s.setFld F.PMC_FROZEN 0 0 1

/-- Restart every counter (R474). -/
def State.pmcThaw (s : State) : State := s.setFld F.PMC_FROZEN 0 0 0

/-- Zero every counter and shadow (R473). -/
def State.pmcZero (s : State) : State :=
  let p := s.pmc
  { s with pmc := { p with gen := [], genSh := [], port := [], portSh := [], cell := [], cellSh := [] } }

/-- PMC_SNAP_NOW: a snapshot at once, stamped with the moment of the write (R474). -/
def doPmcSnapNow (s : State) : State := s.pmcSnapshot s.ns

def execPmcSnapNow (s : State) : Host.Outcome State Fault Refusal := done (doPmcSnapNow s)

/-- PMC_FREEZE_NOW (R474). -/
def doPmcFreezeNow (s : State) : State := s.pmcFreeze

def execPmcFreezeNow (s : State) : Host.Outcome State Fault Refusal := done (doPmcFreezeNow s)

/-- PMC_THAW_NOW (R474). -/
def doPmcThawNow (s : State) : State := s.pmcThaw

def execPmcThawNow (s : State) : Host.Outcome State Fault Refusal := done (doPmcThawNow s)

/-- PMC_CLEAR (R473). -/
def doPmcClear (s : State) : State := s.pmcZero

def execPmcClear (s : State) : Host.Outcome State Fault Refusal := done (doPmcClear s)

/-- A write of PMC_CTRL: each set bit acts; the zeroing and the snapshot come before a freeze or thaw. -/
def State.pmcCtrl (s : State) (value : Nat) : State :=
  let s := if bit value 4 then s.pmcZero else s
  let s := if bit value 1 then s.pmcSnapshot s.ns else s
  let s := if bit value 2 then s.pmcFreeze else s
  if bit value 3 then s.pmcThaw else s

/-- A write of PMC_TAG_CTRL: the counts restart at zero when PMC_TAG_EN is set (R478). -/
def State.pmcTagCtrl (s : State) (value : Nat) : State :=
  let was := s.flag F.PMC_TAG_EN 0 0
  let s := s.setFld F.PMC_TAG_LOG2 0 0 (bits value 19 16)
  let s := s.setFld F.PMC_TAG_RATE 0 0 (bits value 12 8)
  let s := s.setFld F.PMC_TAG_EN 0 0 (bits value 0 0)
  if bit value 0 && !was then
    let s := { s with que := { s.que with woCount := 0 } }
    { s with pmc := { s.pmc with tileCount := [] } }
  else s

/-- PMC_TAG_EN: a write of PMC_TAG_CTRL that sets the bit (R478). -/
def doPmcTagEn (value : Nat) (s : State) : State := s.pmcTagCtrl (setBits value 0 0 1)

def execPmcTagEn (value : Nat) (s : State) : Host.Outcome State Fault Refusal := done (doPmcTagEn value s)

/-- splitmix64 (R50). -/
def splitmix64 (z : Nat) : Nat :=
  let z := (z + 0x9E3779B97F4A7C15) % two64
  let z := ((z ^^^ (z >>> 30)) * 0xBF58476D1CE4E5B9) % two64
  let z := ((z ^^^ (z >>> 27)) * 0x94D049BB133111EB) % two64
  z ^^^ (z >>> 31)

/-- Is the `n`-th item tagged, `n` counted from one or zero as the counts do (R478)? -/
def State.tagTest (s : State) (n : Nat) : Bool :=
  s.flag F.PMC_TAG_EN 0 0 && !s.flag F.PMC_FROZEN 0 0
    && splitmix64 ((s.fld F.PMC_TAG_SEED 0 0 <<< 32) ||| n % 2 ^ 32)
        % 2 ^ (max 4 (min 20 (s.fld F.PMC_TAG_RATE 0 0))) = 0

end Sys2Proof.Machine
end

