-- ==== Sys2Proof/Machine/Queues.lean ====
section
/-! DEFINITION. Rings, doorbells, descriptor reads, interrupts and peer writes (spec/13). The dispatch of a
descriptor stands in Posts.lean, after the chapters it dispatches to. -/

namespace Sys2Proof.Machine

/-- A virtual function whose registers act: it exists, its partition is enabled and no reset of it runs; the
physical function always (R369, R377). -/
def State.fnOpen (s : State) (fn : Nat) : Bool :=
  fn = 0 || (s.vfExists fn && s.partEnabled (fn - 1) && !s.resetting (fn - 1))

/-- Size of a ring in entries; ring 16 is the event queue (R307). -/
def State.ringSize (s : State) (fn r : Nat) : Nat :=
  2 ^ (if r = 16 then s.fld F.QUE_EQ_LOG2 fn 0 else s.fld F.QUE_RING_LOG2 fn r)

/-- QUE_RING_STATE, or QUE_EQ_STATE. -/
def State.ringState (s : State) (fn r : Nat) : Nat :=
  if r = 16 then s.fld F.QUE_EQ_STATE fn 0 else s.fld F.QUE_RING_STATE fn r

/-- Store QUE_RING_STATE, or QUE_EQ_STATE. -/
def State.setRingState (s : State) (fn r v : Nat) : State :=
  if r = 16 then s.setFld F.QUE_EQ_STATE fn 0 v else s.setFld F.QUE_RING_STATE fn r v

/-- The ring uses MMIO doorbells. -/
def State.ringMmio (s : State) (fn r : Nat) : Bool :=
  if r = 16 then s.flag F.QUE_EQ_DBMMIO fn 0 else s.flag F.QUE_RING_DBMMIO fn r

/-- QUE_RING_EN, or QUE_EQ_EN. -/
def State.ringEn (s : State) (fn r : Nat) : Bool := if r = 16 then s.flag F.QUE_EQ_EN fn 0 else s.flag F.QUE_RING_EN fn r

/-- The ring is enabled and running: one that has been disabled fetches nothing, also while operations of it are still to
complete (R319). -/
def State.ringLive (s : State) (fn r : Nat) : Bool := s.ringEn fn r && s.ringState fn r = 1

/-- Host bus address of a ring's doorbell line (R316). -/
def State.lineAddr (s : State) (fn r : Nat) : Nat :=
  64 * (if r = 16 then s.fld F.QUE_EQ_DBL_BUS fn 0 else s.fld F.QUE_DBL_BUS fn r)

/-- Add a CXL.cache message about a ring's doorbell line to the outputs. -/
def State.emitCxl (s : State) (fn r : Nat) (op : CxlOp) : State := s.emit (.cxl fn r (s.lineAddr fn r) op)

/-- Host bus address of the slot of index `i` (R307). -/
def State.slotAddr (s : State) (fn r i : Nat) : Nat :=
  s.fld F.QUE_RING_BUS fn r * 4096 + 64 * (i % s.ringSize fn r)

/-- Issue the read of every slot from `i` on that R311 lets the queue engine read and that it has not read:
at most `n` of them. -/
def State.fetchAhead (s : State) (fn r i : Nat) : Nat → State
  | 0 => s
  | n + 1 =>
    let g := s.ring fn r
    let tail := s.fld F.QUE_RING_TAIL fn r
    let head := s.fld F.QUE_RING_HEAD fn r
    if diff16 tail head ≤ diff16 i head ∨ s.ringSize fn r ≤ diff16 i g.cqHead then s
    else
      let seen := decide (i ∈ g.reading) || g.fetched.any (fun f => f.idx = i)
      let s := if seen then s else
        (s.emitFn fn (.hostRead (s.slotAddr fn r i) 64 true)).setRing fn r { g with reading := g.reading ++ [i] }
      s.fetchAhead fn r ((i + 1) % 65536) n

/-- The queue engine fetches nothing for a function whose TDI is CONFIG_LOCKED or ERROR (R396), or that is in D3hot. -/
def State.fetchHeld (s : State) (fn : Nat) : Bool :=
  (s.cfg fn).d3 || (fn ≠ 0 && (s.tdi (fn - 1) = 1 || s.tdi (fn - 1) = 3))

/-! ### The scheduled-event table (R293) -/

/-- Update the Clepsydra. -/
def State.withClp (s : State) (f : ClpSt → ClpSt) : State := { s with clp := f s.clp }

/-- A signed offset in 2^-16 ns as the 32-bit saturating count of ns that CLP_EF_OFFSET holds. -/
def offsetNs (o : Int) : Nat := unsign 32 (max (-2147483648) (min 2147483647 (o / 65536)))

/-- An error of the Clepsydra in the views that cover `part` (64: the physical function's alone). -/
def State.clpErr (s : State) (b part kind owner : Nat) (o : Int) : State :=
  s.errIn .clpErrSts .clpErrFirst b
    (pack [(F.CLP_EF_KIND, if b = 1 then kind else 0), (F.CLP_EF_OWNER, if b = 1 then owner else 0),
      (F.CLP_EF_OFFSET, if b = 2 ∨ b = 3 then offsetNs o else 0), (F.CLP_EF_VALID, 1), (F.CLP_EF_CAUSE, b)])
    (if part < 64 then s.views part else [0]) 0

/-- SEV_OWNER of a partition, 64 the physical function. -/
def sevOwner (part : Nat) : Nat := if part < 64 then part else 0x40

/-- Entries a partition holds, 64 the physical function. -/
def State.sevUsed (s : State) (part : Nat) : Nat :=
  (s.clp.sev.filter fun e => e.2.owner = sevOwner part).length

/-- The quota of R293. -/
def State.sevQuota (s : State) (part : Nat) : Nat :=
  if part < 64 then (s.partRec part).clp else s.pte.image.pfClp

/-- Take one entry, the lowest free one, or refuse it with CLP_E_NOENTRY (R293). -/
def State.sevTake (s : State) (part : Nat) (e : SevEnt) : State × Option Nat :=
  let e := { e with owner := sevOwner part }
  if s.sevQuota part ≤ s.sevUsed part then (s.clpErr 1 part e.kind e.owner 0, none)
  else match sfree {} s.clp.sev 0 1024 with
    | none => (s.clpErr 1 part e.kind e.owner 0, none)
    | some i => (s.withClp fun c => { c with sev := sput {} c.sev i e }, some i)

/-- Return an entry. -/
def State.sevDrop (s : State) (i : Nat) : State := s.withClp fun c => { c with sev := sput {} c.sev i {} }

/-! ### What a descriptor is refused for (R309, R312, R384) -/

/-- A work order or other descriptor of a submission ring as its fields (R309). -/
structure Qd where
  kind : Nat
  irq : Bool
  fence : Bool
  flags : Nat
  target : Nat
  tag : Nat
  notBefore : Nat
  body : List Byte
  deriving DecidableEq, Repr

/-- A descriptor as its fields (R307). -/
def qdOf (d : List Byte) : Qd :=
  { kind := leAt d 2 1, irq := bit (leAt d 3 1) 0, fence := bit (leAt d 3 1) 1, flags := leAt d 3 1, target := leAt d 4 2
    tag := leAt d 8 8, notBefore := leAt d 16 8, body := slice d 24 40 }

/-- A reserved kind, or a reserved field or flag that is not zero (R309, R312). -/
def qdMalformed (d : List Byte) : Bool :=
  let q := qdOf d
  decide (4 ≤ q.flags) || !zeroAt d 6 2 || decide (3 < q.kind)
    || (q.kind ≠ 1 && (q.target ≠ 0 || q.notBefore ≠ 0))
    || (q.kind = 1 && decide (64 ≤ q.target))
    || (q.kind = 0 && !zeroAt q.body 0 40) || (q.kind = 2 && !zeroAt q.body 8 32) || (q.kind = 3 && !zeroAt q.body 32 8)

/-- A guest work order's body is as R384 lays it out. -/
def gwSound (b : List Byte) : Bool :=
  decide (leAt b 0 8 % 128 = 0) && decide (1 ≤ leAt b 8 2) && decide (leAt b 8 2 ≤ 1024) && zeroAt b 10 30

/-- The WORK names a pool where the ring's partition is the guest (R384). -/
def State.isGuestWork (s : State) (fn : Nat) (q : Qd) : Bool := q.kind = 1 && fn ≠ 0 && s.guest q.target = some (fn - 1)

/-- The status with which a descriptor completes without dispatch, NO_ENTRY aside (R312). -/
def State.refusal (s : State) (fn : Nat) (d : List Byte) : Option Nat :=
  let q := qdOf d
  if qdMalformed d || (s.isGuestWork fn q && !gwSound q.body) then some 1
  else if (fn = 0 && q.kind ≠ 0) || (q.kind = 1 && !s.isGuestWork fn q && decide (s.owner q.target ≠ some (fn - 1))) then some 2
  else none

/-- A work order is fetched: one whose time is later than cluster time takes its entry, or is refused it (R293, R295). One
that completes without dispatch for another reason takes none (R312). -/
def State.holdOrder (s : State) (fn ring : Nat) (f : Fetched) : State × Fetched :=
  let q := qdOf f.bytes
  if q.kind = 1 && (s.refusal fn f.bytes).isNone && decide (s.ns < q.notBefore) then
    match s.sevTake (fn - 1) { time := q.notBefore, kind := 1, ref := ring, aux := f.idx } with
    | (s, some i) => (s, { f with entry := some i })
    | (s, none) => (s, { f with noEntry := true })
  else (s, f)

/-! ### Fetching -/

/-- Let a running ring read what it may. -/
def State.fetch (s : State) (fn r : Nat) : State :=
  if s.ringLive fn r ∧ r < 16 ∧ !s.stopped ∧ !s.fetchHeld fn then
    s.fetchAhead fn r (s.fld F.QUE_RING_HEAD fn r) (s.ringSize fn r)
  else s

/-- A doorbell of a submission ring gives a tail and a head (R316, R319, R321). -/
def State.ringBell (s : State) (fn r tail head : Nat) : State :=
  let st := s.ringState fn r
  if !s.ringEn fn r ∨ st = 0 ∨ st = 3 then s else
  let g := s.ring fn r
  let d := s.fld F.QUE_RING_HEAD fn r
  let s := s.setFld F.QUE_RING_TAIL fn r tail
  if s.ringSize fn r < diff16 tail d then s.ringError fn r 1 tail
  else if beyond16 head g.cqNext then s.ringError fn r 1 head
  else
    let g := { g with cqHead := head % 65536, tailAt := s.ns }
    if st = 2 then
      let i := d
      let g := { g with rereads := 0, stale := 0, fetched := g.fetched.filter fun f => f.idx ≠ i }
      ((s.setRing fn r g).setRingState fn r 1).fetch fn r
    else (s.setRing fn r g).fetch fn r

/-- A doorbell of the event queue gives a head (R316, R319). -/
def State.eqBell (s : State) (fn head : Nat) : State :=
  if s.fld F.QUE_EQ_STATE fn 0 ≠ 1 then s else
  if beyond16 head (s.fld F.QUE_EQ_TAIL fn 0) then s.ringError fn 16 1 head
  else s.setFld F.QUE_EQ_HEAD fn 0 head

/-- A doorbell acts. -/
def State.bell (s : State) (fn r tail head : Nat) : State :=
  if r = 16 then s.eqBell fn head else if s.stopped then s else s.ringBell fn r tail head

/-- DOORBELL_SNOOP: every snoop is answered. SnpInv takes a held line away, and it is asked for again; SnpData and SnpCur
leave it Shared (R304, R317; log entry 39). -/
def doDoorbellSnoop (fn : Nat) (snoop : LineSnoop) (s : State) : State :=
  let ring := snoop.ring
  let g := s.ring fn ring
  if !g.lineHeld then s.emitCxl fn ring (.snoopAnswer false)
  else match snoop.kind with
    | .inv =>
      ((s.emitCxl fn ring (.snoopAnswer false)).emitCxl fn ring .rdShared).setRing fn ring
        { g with lineHeld := false, lineReading := true }
    | .data | .cur => s.emitCxl fn ring (.snoopAnswer true)

def execDoorbellSnoop (fn : Nat) (snoop : LineSnoop) (s : State) : Host.Outcome State Fault Refusal :=
  done (doDoorbellSnoop fn snoop s)

/-- DOORBELL_LINE_READ: the 64 bytes of the line arrive, the lower half and the upper. The ring holds the line and acts on its tail and head, or enters
ERROR; one that has been disabled meanwhile gives the line up (R316, R317, R319). -/
def doDoorbellLineRead (fn ring : Nat) (low high : List Byte) (ok : Bool) (s : State) : State :=
  let g := s.ring fn ring
  if !g.lineReading then s
  else if !s.ringEn fn ring then
    let s := s.setRing fn ring { g with lineReading := false }
    if ok then s.emitCxl fn ring .cleanEvict else s
  else if ok then
    (s.setRing fn ring { g with lineHeld := true, lineReading := false }).bell fn ring
      (leAt (low ++ high) 0 2) (leAt (low ++ high) 2 2)
  else
    let i := if ring = 16 then s.fld F.QUE_EQ_TAIL fn 0 else s.fld F.QUE_RING_HEAD fn ring
    (s.setRing fn ring { g with lineReading := false }).ringError fn ring 2 i

def execDoorbellLineRead (fn ring : Nat) (low high : List Byte) (ok : Bool) (s : State) :
    Host.Outcome State Fault Refusal :=
  done (doDoorbellLineRead fn ring low high ok s)

/-- QUE_DB: acts as the doorbell of an enabled ring in MMIO mode; otherwise ignored (R318, R375 step 1). -/
def doQueDb (fn ring value : Nat) (s : State) : State :=
  if s.fnOpen fn && s.ringEn fn ring && s.ringMmio fn ring then
    s.bell fn ring (bits value 15 0) (bits value 31 16)
  else s

def execQueDb (fn ring value : Nat) (s : State) : Host.Outcome State Fault Refusal :=
  done (doQueDb fn ring value s)

/-- QUE_EQ_DB: the same for the event queue (R318). -/
def doQueEqDb (fn value : Nat) (s : State) : State :=
  if s.fnOpen fn && s.ringEn fn 16 && s.ringMmio fn 16 then
    s.bell fn 16 0 (bits value 31 16)
  else s

def execQueEqDb (fn value : Nat) (s : State) : Host.Outcome State Fault Refusal :=
  done (doQueEqDb fn value s)

/-- The slot of index `idx` of a STALE or running ring has been read: what the ring holds of it. A descriptor that has become
visible is no longer re-read (R320). -/
def Ring.arrived (g : Ring) (f : Fetched) : Ring :=
  let rest := g.fetched.filter fun x => x.idx ≠ f.idx
  { g with fetched := rest ++ [f],
           reading := if f.visible then g.reading.filter (· ≠ f.idx) else g.reading.erase f.idx }

/-- DESCRIPTOR_READ_DATA: the slot's bytes arrive; visible when the stamp is the index; the eighth re-read
that is not visible makes the ring STALE (R308, R310, R319, R320). A work order whose time is still to come takes its entry of
the scheduled-event table as it is fetched (R293, R295). -/
def doDescriptorReadData (fn ring idx : Nat) (bytes : List Byte) (ok : Bool) (s : State) : State :=
  let g := s.ring fn ring
  let st := s.ringState fn ring
  if s.stopped ∨ !s.ringEn fn ring ∨ (st ≠ 1 ∧ st ≠ 2) ∨ idx ∉ g.reading then s else
  if !ok then (s.setRing fn ring { g with reading := g.reading.erase idx }).ringError fn ring 2 idx else
  let d := fit 64 bytes
  let vis := decide (leAt d 0 2 = idx)
  let again := g.fetched.any fun f => f.idx = idx
  let f : Fetched := { idx := idx, bytes := d, visible := vis, at_ := s.ns }
  if vis then
    match s.holdOrder fn ring f with
    | (s, f) => s.setRing fn ring (g.arrived f)
  else if again && st = 1 then
    let n : Nat := g.stale + 1
    let s := s.setRing fn ring { g.arrived f with stale := n }
    if n < 8 then s else
      let s := s.setRingState fn ring 2
      let s := s.queErr fn 0 ring idx (leAt d 0 2)
      let data := toLe 1 ring ++ toLe 2 idx ++ toLe 2 (leAt d 0 2)
      if fn = 0 then s.eventPf 0x0601 data else s.event (fn - 1) 0x0601 data
  else s.setRing fn ring (g.arrived f)

def execDescriptorReadData (fn ring idx : Nat) (bytes : List Byte) (ok : Bool) (s : State) :
    Host.Outcome State Fault Refusal :=
  done (doDescriptorReadData fn ring idx bytes ok s)

/-- DESCRIPTOR_REREAD: one of the eight re-reads of the descriptor at the dispatch index (R320). -/
def doDescriptorReread (fn ring : Nat) (s : State) : State :=
  let g := s.ring fn ring
  let i := s.fld F.QUE_RING_HEAD fn ring
  if !s.stopped && s.ringLive fn ring && g.fetched.any (fun f => f.idx = i && !f.visible)
      && decide (g.rereads < 8) then
    let s := s.emitFn fn (.hostRead (s.slotAddr fn ring i) 64 true)
    let s := s.count 0x0901 (16 * fn + ring) (if fn = 0 then [] else [fn - 1]) 1
    s.setRing fn ring { g with rereads := g.rereads + 1, reading := g.reading ++ [i] }
  else s

def execDescriptorReread (fn ring : Nat) (s : State) : Host.Outcome State Fault Refusal :=
  done (doDescriptorReread fn ring s)

/-- Enable a ring: it fails, or both indices start at 0 (R306, R317, R319). Events dropped while the event queue was disabled
still mark the next record (R327), and a line whose read has not returned since the last disable is not asked for twice. -/
def State.enableRing (s : State) (fn r : Nat) : State :=
  let log2 := if r = 16 then s.fld F.QUE_EQ_LOG2 fn 0 else s.fld F.QUE_RING_LOG2 fn r
  let line := !s.ringMmio fn r
  let tdi := decide (fn ≠ 0 ∧ s.tdi (fn - 1) = 2)
  if (line && (!s.flag F.QUE_CXL_CACHE 0 0 || tdi)) || decide (log2 < 6) || s.ringState fn r ≠ 0 then
    s.queErr fn 1 r (if r = 16 then s.fld F.QUE_EQ_TAIL fn 0 else s.fld F.QUE_RING_HEAD fn r) 0
  else
    let old := s.ring fn r
    let asked := line && !old.lineReading
    let g : Ring := { lineReading := line, lost := old.lost }
    let s := s.setRing fn r g
    let s := if r = 16 then
        ((s.setRegN .queEqIdx fn 0 0).setFld F.QUE_EQ_EN fn 0 1).setFld F.QUE_EQ_STATE fn 0 1
      else
        ((s.setRegN .queRingIdx fn r 0).setFld F.QUE_RING_EN fn r 1).setFld F.QUE_RING_STATE fn r 1
    let s := if asked then s.emitCxl fn r .rdShared else s
    if r = 16 ∧ fn = 0 then s.resetDoneHeld else s

/-- Slots of the unbroken run of visible descriptors from `i` (R319). -/
def visibleRun (fetched : List Fetched) (i : Nat) : Nat → List Fetched
  | 0 => []
  | n + 1 =>
    match fetched.find? fun f => f.idx = i with
    | some f => if f.visible then f :: visibleRun fetched ((i + 1) % 65536) n else []
    | none => []

/-- The ticket of a fetched descriptor (R307, R313). -/
def ticketOf (fn r : Nat) (f : Fetched) (tailAt : Nat) : Ticket :=
  { fn := fn, ring := r, idx := f.idx, tag := leAt f.bytes 8 8, irq := bit (leAt f.bytes 3 1) 0,
    tagged := false, t0 := tailAt, t1 := f.at_, t2 := 0, t3 := 0 }

/-- Complete the visible, undispatched descriptors ABORTED (R315, R319, R375 step 1). QUE_RING_HEAD stays at the first index
that receives no completion, also where a completion write has failed. -/
def State.abortRing (s : State) (env : Env) (fn r : Nat) : State :=
  let g := s.ring fn r
  let run := visibleRun g.fetched (s.fld F.QUE_RING_HEAD fn r) (s.ringSize fn r)
  let s := s.setRing fn r { g with fetched := [], reading := [], rereads := 0, stale := 0 }
  run.foldl (fun s f =>
    if (s.ring fn r).cqDead then s else
    let s := (s.setFld F.QUE_RING_HEAD fn r (f.idx + 1)).complete env (ticketOf fn r f g.tailAt) 0 4 0
    if (s.ring fn r).cqDead then s.setFld F.QUE_RING_HEAD fn r f.idx else s) s

/-- Give a held doorbell line up with CleanEvict (R317); one whose read has not returned is given up when it has. -/
def State.evictLine (s : State) (fn r : Nat) : State :=
  let g := s.ring fn r
  if g.lineHeld then (s.emitCxl fn r .cleanEvict).setRing fn r { g with lineHeld := false } else s

/-- Disable a ring (R319). -/
def State.disableRing (s : State) (env : Env) (fn r : Nat) : State :=
  let s := s.evictLine fn r
  if r = 16 then (s.setFld F.QUE_EQ_EN fn 0 0).setFld F.QUE_EQ_STATE fn 0 0
  else ((s.setFld F.QUE_RING_EN fn r 0).abortRing env fn r).ringSettle fn r

/-- A write of QUE_RING_CTRL, or of QUE_EQ_CTRL for ring 16: LOG2 and DBMMIO are written only while
disabled, and a change of EN enables or disables (R319). -/
def State.ringCtrl (s : State) (env : Env) (fn r value : Nat) : State :=
  if !s.fnOpen fn then s else
  let en := if r = 16 then s.flag F.QUE_EQ_EN fn 0 else s.flag F.QUE_RING_EN fn r
  let s := if r = 16 then s.setFld F.QUE_EQ_VEC fn 0 (bits value 21 16)
    else s.setFld F.QUE_RING_VEC fn r (bits value 21 16)
  let s := if en then s
    else if r = 16 then (s.setFld F.QUE_EQ_LOG2 fn 0 (bits value 27 24)).setFld F.QUE_EQ_DBMMIO fn 0 (bits value 8 8)
    else (s.setFld F.QUE_RING_LOG2 fn r (bits value 27 24)).setFld F.QUE_RING_DBMMIO fn r (bits value 8 8)
  if bit value 0 && !en then s.enableRing fn r
  else if !bit value 0 && en then s.disableRing env fn r
  else s

/-- QUE_RING_ENABLE: a write of the ring's control register with QUE_RING_EN set. -/
def doQueRingEnable (fn ring value : Nat) (env : Env) (s : State) : State :=
  s.ringCtrl env fn ring (setBits value 0 0 1)

def execQueRingEnable (fn ring value : Nat) (env : Env) (s : State) : Host.Outcome State Fault Refusal :=
  done (doQueRingEnable fn ring value env s)

/-- QUE_RING_DISABLE: a write of the ring's control register with QUE_RING_EN clear. -/
def doQueRingDisable (fn ring value : Nat) (env : Env) (s : State) : State :=
  s.ringCtrl env fn ring (setBits value 0 0 0)

def execQueRingDisable (fn ring value : Nat) (env : Env) (s : State) : Host.Outcome State Fault Refusal :=
  done (doQueRingDisable fn ring value env s)

/-- MSIX_MODERATION_TIMER: QUE_MOD_USEC has passed since the vector's first counted record (R329). -/
def doMsixModerationTimer (fn vec : Nat) (s : State) : State :=
  if (s.vec fn vec).timer then (s.setVec fn vec {}).msixSend fn vec else s

def execMsixModerationTimer (fn vec : Nat) (s : State) : Host.Outcome State Fault Refusal :=
  done (doMsixModerationTimer fn vec s)

/-- A pending vector that nothing masks any more sends its message (R328). -/
def State.msixFlush (s : State) (fn vec : Nat) : State :=
  let p := s.regN .msixPba fn 0
  if bit p vec && !s.flag F.MSIX_MASK fn vec && s.msixOn fn then (s.setRegN .msixPba fn 0 (p - 2 ^ vec)).msixSend fn vec else s

/-- MSIX_UNMASK: a write of the vector's control word with its mask bit clear; a pending vector sends its message (R328). The
function of a partition that is disabled or resetting ignores it (R369, R377). -/
def doMsixUnmask (fn vec : Nat) (s : State) : State :=
  if !s.fnOpen fn then s else (s.setFld F.MSIX_MASK fn vec 0).msixFlush fn vec

def execMsixUnmask (fn vec : Nat) (s : State) : Host.Outcome State Fault Refusal :=
  done (doMsixUnmask fn vec s)

/-- An inbound request to a function whose TDI is RUN is refused unless it carries the T bit on the bound stream
(R401). -/
def State.teeRefused (s : State) (fn : Nat) (tee : Bool) : Bool := fn ≠ 0 && s.tdi (fn - 1) = 2 && !tee

/-- SEC_E_TEE of a refused request. -/
def State.teeErr (s : State) (fn : Nat) : State := s.secErr 1 (fn - 1) (s.fld F.SEC_STREAM 0 (fn - 1)) 0

/-- The window entry that takes a peer write at BAR2 offset `off` from requester `rid` (R331). -/
def State.p2pEntry (s : State) (vf off rid : Nat) : Option Nat :=
  let e := off / 2 ^ 20
  if s.fnOpen vf && s.flag F.QUE_P2P_V vf e
      && (s.flag F.QUE_P2P_ANY vf e || s.fld F.QUE_P2P_RID vf e = rid) then
    some (s.fld F.QUE_P2P_VA vf e * 2 ^ 20 + off % 2 ^ 20)
  else none

/-- P2P_WRITE: written through the partition's tables, or discarded with QUE_E_P2P (R331, R332). Writes act
in their order, whatever their Relaxed Ordering attribute. -/
def doP2pWrite (vf off rid : Nat) (bytes : List Byte) (env : Env) (s : State) : State :=
  if s.teeRefused vf env.tee then s.teeErr vf else
  match s.p2pEntry vf off rid with
  | none => s.queErr vf 2 0 (off / 2 ^ 20) 0
  | some va =>
    if s.stopped then s else
    match s.writeVa env (otherRq (vf - 1) .plinth) va bytes with
    | (s, .okay) => s
    | (s, _) => s.queErr vf 2 0 (off / 2 ^ 20) 0

def execP2pWrite (vf off rid : Nat) (bytes : List Byte) (env : Env) (s : State) :
    Host.Outcome State Fault Refusal :=
  done (doP2pWrite vf off rid bytes env s)

/-- P2P_READ: an Unsupported Request, whether it carries the T bit or not (R331, R401). -/
def doP2pRead (vf off : Nat) (tee : Bool) (s : State) : State :=
  (if s.teeRefused vf tee then s.teeErr vf else s).emit (.unsupported vf off)

def execP2pRead (vf off : Nat) (tee : Bool) (s : State) : Host.Outcome State Fault Refusal :=
  done (doP2pRead vf off tee s)

/-- PCIE_LINK_UP: the data link comes up, with or without CXL.cache (R306). -/
def doPcieLinkUp (cxl : Bool) (s : State) : State :=
  let s := { s with que := { s.que with linkUp := true } }
  s.setFld F.QUE_CXL_CACHE 0 0 (b2n cxl)

def execPcieLinkUp (cxl : Bool) (s : State) : Host.Outcome State Fault Refusal := done (doPcieLinkUp cxl s)

end Sys2Proof.Machine
end

