-- ==== Sys2Proof/Machine/Clepsydra.lean ====
section
/-! DEFINITION. The Clepsydra: cluster time, the discipline loop, the scheduled-event table, barriers and
the start ramp (spec/12). -/

namespace Sys2Proof.Machine

/-- Cluster time in units of 2^-16 ns (R282). -/
def State.time16 (s : State) : Nat := s.clp.time / 2 ^ 32

/-- A capture now, `quarter` quarters of a nanosecond into the period (R284). -/
def State.capture (s : State) (quarter : Nat) : Nat := s.time16 + quarter % 4 * 2 ^ 14

/-- One period of the time clock: cluster time advances by (1 + CLP_FREQ × 2^-40) ns (R284). -/
def State.tick (s : State) : State :=
  let f := signed 32 (s.fld F.CLP_FREQ 0 0)
  let d := ((2 ^ 48 : Nat) : Int) + f * 256
  s.withClp fun c => { c with time := ((c.time : Int) + d).toNat, ticks := c.ticks + 1 }

/-- The largest correction of R284. -/
def freqMax : Int := 549755814

/-- Limit to ±`freqMax`. -/
def clampFreq (x : Int) : Int := max (-freqMax) (min freqMax x)

/-- CLP_STATE moves, raising the time-state event on every change (R289). -/
def State.clpState (s : State) (new : Nat) : State :=
  let old := s.fld F.CLP_STATE 0 0
  if old = new then s else
  let s := s.setFld F.CLP_STATE 0 0 new
  let s := s.withClp fun c => { c with locks := 0, bads := 0 }
  s.eventPf 0x0503 (toLe 1 old ++ toLe 1 new ++ toLe 1 (s.fld F.CLP_SRC 0 0)
    ++ toLe 8 (s.fld F.CLP_OFFSET 0 0))

/-- What a step from `old` to `new` ns does to a released barrier (R291, R299): a ramp already begun keeps its spacing on the
time clock, and one whose beginning the step reaches begins at once. -/
def Barrier.stepped (x : Barrier) (old new : Nat) : Barrier :=
  if x.start ≤ old then { x with start := x.start + (new : Int) - old }
  else if x.start ≤ new then { x with start := new }
  else x

/-- The ramps of the released barriers after a step from `old` ns. -/
def State.stepRamps (s : State) (old : Nat) : State :=
  s.clp.barriers.foldl (fun s e =>
    if s.fld F.CLP_BAR_STATE (e.1 / 4 + 1) (e.1 % 4) = 2 then
      s.withClp fun c => { c with barriers := sput {} c.barriers e.1 (e.2.stepped old s.ns) }
    else s) s

/-- Step cluster time by `o` (2^-16 ns), clearing the held low word (R291). -/
def State.clpStep (s : State) (o : Int) : State :=
  let old := s.ns
  let s := s.withClp fun c =>
    { c with time := ((c.time : Int) + o * ((2 ^ 32 : Nat) : Int)).toNat, heldLow := none, lastPps := none }
  (s.stepRamps old).clpErr 2 64 0 0 o

/-- The loop of R288 for an offset and an interval in ns. An interval of zero has no stated rate: a free
value stands for it (log entry 3). -/
def State.clpLoop (s : State) (o : Int) (delta : Nat) : State :=
  let s1 := if delta = 0 then s.bump else s
  let r : Int := if delta = 0 then signed 64 (s.freeBits 64)
    else (o * ((2 ^ 24 : Nat) : Int)).tdiv delta
  let integ := clampFreq (s.clp.integ + r / ((2 ^ s.fld F.CLP_KI_SHIFT 0 0 : Nat) : Int))
  let freq := clampFreq (integ + r / ((2 ^ s.fld F.CLP_KP_SHIFT 0 0 : Nat) : Int))
  (s1.withClp fun c => { c with integ := integ }).setFld F.CLP_FREQ 0 0 (unsign 32 freq)

/-- A sample with offset `o` in 2^-16 ns, whose Sync or edge came at local time `at_` (R286 to R289). -/
def State.clpSample (s : State) (o : Int) (at_ : Nat) : State :=
  let s := s.setFld F.CLP_OFFSET 0 0 (unsign 64 o)
  let big := decide (((s.fld F.CLP_STEP_NS 0 0 * 65536 : Nat) : Int) < o.natAbs)
  let near := decide ((o.natAbs : Int) ≤ ((s.fld F.CLP_LOCK_NS 0 0 * 65536 : Nat) : Int))
  let s := if s.fld F.CLP_STATE 0 0 = 3 then
      (s.clpState 1).withClp fun c => { c with firstSample := true }
    else s
  let s := if s.fld F.CLP_STATE 0 0 = 2 && big && decide (2 ≤ s.clp.bads) then s.clpState 1 else s
  let delta := at_ - s.clp.lastTick
  let first := s.clp.firstSample
  let s := s.withClp fun c => { c with lastTick := at_, firstSample := false }
  if s.fld F.CLP_STATE 0 0 = 1 then
    if big then (s.clpStep o).withClp fun c => { c with locks := 0 }
    else if first then s
    else
      let s := s.clpLoop o delta
      let s := s.withClp fun c => { c with locks := if near then c.locks + 1 else 0 }
      if 8 ≤ s.clp.locks then s.clpState 2 else s
  else if first then s
  else
    (s.clpLoop o delta).withClp fun c => { c with bads := if big then c.bads + 1 else 0 }

/-- The source is lost (R289, R290). One followed anew in HOLDOVER that gives nothing is dropped again, so that another can be
followed. -/
def State.clpLoss (s : State) : State :=
  let st := s.fld F.CLP_STATE 0 0
  if st = 1 ∨ st = 2 then
    let s := s.setFld F.CLP_FREQ 0 0 (unsign 32 s.clp.integ)
    let s := s.clpErr 3 64 0 0 (signed 64 (s.fld F.CLP_OFFSET 0 0))
    let s := s.withClp fun c => { c with source := none, firstSample := true }
    s.clpState 3
  else if st = 3 then s.withClp fun c => { c with source := none, firstSample := true }
  else s

/-- CLP_SRC as it acts: 4 to 7 are treated as 0. -/
def State.clpSrc (s : State) : Nat := if s.fld F.CLP_SRC 0 0 < 4 then s.fld F.CLP_SRC 0 0 else 0

/-! ### PTP -/

/-- Take the first received frame that `p` accepts. -/
def State.takeRx (s : State) (p : RxItem → Bool) : Option (RxItem × State) :=
  match s.mac.rx.find? p with
  | none => none
  | some x => some (x, { s with mac := { s.mac with rx := s.mac.rx.erase x } })

/-- The state of a logical port. -/
def State.lp (s : State) (n : Nat) : LpSt := sget {} s.mac.lps n

/-- Store the state of a logical port. -/
def State.setLp (s : State) (n : Nat) (x : LpSt) : State :=
  { s with mac := { s.mac with lps := sput {} s.mac.lps n x } }

/-- The consumer of a received frame reads its ingress slot, which frees it (R279). -/
def State.freeIngress (s : State) (lp : Nat) (id : Option Nat) : State :=
  match id with
  | none => s
  | some i =>
    let x := s.lp lp
    s.setLp lp { x with ingress := x.ingress.filter fun c => c.id ≠ i }

/-- The consumer of a sent frame reads its egress slot, which frees it (R279). -/
def State.freeEgress (s : State) (lp : Nat) (id : Option Nat) : State :=
  match id with
  | none => s
  | some i =>
    let x := s.lp lp
    s.setLp lp { x with egress := x.egress.filter fun c => c.id ≠ i }

/-- The ingress capture of a received frame, unless it was left untimed or lost its slot (R279). -/
def State.ingressCap (s : State) (x : RxItem) : Option Nat :=
  match x.slot with
  | none => none
  | some i => ((s.lp x.lp).ingress.find? fun c => c.id = i).map (·.time)

/-- Take the first received PTP message of type `kind`, with its ingress capture. -/
def State.takePtp (s : State) (kind : Nat) : Option (RxItem × Option Nat × PtpMsg × State) :=
  match s.takeRx (fun x => match x.frame.body with | .ptp m => m.kind = kind | _ => false) with
  | none => none
  | some (x, s) =>
    match x.frame.body with
    | .ptp m => some (x, s.ingressCap x, m, s.freeIngress x.lp x.slot)
    | _ => none

/-- A PTP message the Clepsydra discards and counts (R285). -/
def State.ptpDiscard (s : State) (lp : Nat) : State := (s.count 0x0A01 lp [] 1).clpErr 4 64 0 0 0

/-- CLP_PTP_XPORT as it acts: 3 is treated as 0. -/
def State.ptpXport (s : State) : Nat := if s.fld F.CLP_PTP_XPORT 0 0 = 3 then 0 else s.fld F.CLP_PTP_XPORT 0 0

/-- The destination address of PTP messages on a transport: 01-1B-19-00-00-00, 224.0.1.129 or FF0E::181 (R285). -/
def ptpDst (x : Nat) : Nat :=
  if x = 1 then 0xE0000181 else if x = 2 then 0xFF0E0000000000000000000000000181 else 0x011B19000000

/-- CLP_PTP_SRCIP as one address: the word of k = 0 first, an IPv4 address in k = 3 alone. -/
def State.ptpSrcIp (s : State) (x : Nat) : Nat :=
  let w := s.fld F.CLP_PTP_SRCIP 0
  if x = 1 then w 3 else if x = 2 then ((w 0 * 2 ^ 32 + w 1) * 2 ^ 32 + w 2) * 2 ^ 32 + w 3 else 0

/-- The message comes on the port, the transport and the domain that CLP_CTRL selects, to the transport's PTP address, under
source 1 (R285). -/
def State.ptpHere (s : State) (lp : Nat) (m : PtpMsg) : Bool :=
  s.clpSrc = 1 && lp = s.fld F.CLP_PTP_PORT 0 0 && m.domain = s.fld F.CLP_PTP_DOMAIN 0 0
    && m.xport = s.ptpXport && m.dst = ptpDst s.ptpXport

/-- The message is accepted from the source followed (R285). -/
def State.ptpOk (s : State) (lp : Nat) (m : PtpMsg) : Bool :=
  s.ptpHere lp m && s.clp.source = some m.source

/-- Corrected ingress capture: minus CLP_RX_LAT (R286). -/
def State.rxTime (s : State) (lp cap : Nat) : Int :=
  (cap : Int) - ((s.fld F.CLP_RX_LAT 0 lp * 4096 : Nat) : Int)

/-- Corrected egress capture: plus CLP_TX_LAT (R286). -/
def State.txTime (s : State) (lp cap : Nat) : Int :=
  (cap : Int) + ((s.fld F.CLP_TX_LAT 0 lp * 4096 : Nat) : Int)

/-- Nanoseconds in 2^-16 ns. -/
def ns16 (t : Nat) : Int := ((t * 65536 : Nat) : Int)

/-- mpd of R286; none before the first exchange. -/
def State.meanDelay (s : State) : Option Int :=
  if s.clp.delays = [] then none
  else some (s.clp.delays.foldl (· + ·) 0 / (s.clp.delays.length : Int))

/-- A Sync that came at local time `at_` is complete: t1, corrected t2 and cs; it starts an exchange and gives a sample once
mpd is known (R286, R288). -/
def State.ptpSync (s : State) (t1 : Nat) (t2 cs : Int) (at_ : Nat) : State :=
  let s := s.withClp fun c => { c with sync := some (t1, t2, cs) }
  match s.meanDelay with
  | none => s
  | some mpd => s.clpSample (ns16 t1 + cs + mpd - t2) at_

/-- SYNC (R285, R286, R280): a two-step Sync waits for its Follow_Up; one left untimed gives no sample. -/
def doSync (s : State) : State :=
  match s.takePtp 0 with
  | none => s
  | some (x, cap, m, s) =>
    if !s.ptpOk x.lp m then s.ptpDiscard x.lp else
    match cap with
    | none => s
    | some cap =>
      let t2 := s.rxTime x.lp cap
      if m.twoStep then s.withClp fun c => { c with twoStep := some (m.seq, t2, m.corr, c.ticks) }
      else s.ptpSync m.stamp t2 m.corr s.clp.ticks

def execSync (s : State) : Host.Outcome State Fault Refusal := done (doSync s)

/-- FOLLOW_UP: the precise origin time of a two-step Sync; the correctionFields add (R285, R286). -/
def doFollowUp (s : State) : State :=
  match s.takePtp 8 with
  | none => s
  | some (x, _, m, s) =>
    if !s.ptpOk x.lp m then s.ptpDiscard x.lp else
    match s.clp.twoStep with
    | none => s
    | some (seq, t2, cs, at_) =>
      if seq ≠ m.seq then s else
      (s.withClp fun c => { c with twoStep := none }).ptpSync m.stamp t2 (cs + m.corr) at_

def execFollowUp (s : State) : Host.Outcome State Fault Refusal := done (doFollowUp s)

/-- The clock's own port identity is the station's, not given by the spec: a free constant. -/
def State.ptpSelf (_s : State) : Nat := Config.ptpIdentity

/-- DELAY_RESP: it completes the exchange of the outstanding Delay_Req (R286). -/
def doDelayResp (s : State) : State :=
  match s.takePtp 9 with
  | none => s
  | some (x, _, m, s) =>
    if !s.ptpOk x.lp m then s.ptpDiscard x.lp else
    match s.clp.dreq, s.clp.sync with
    | some (seq, t3), some (t1, t2, cs) =>
      if seq ≠ m.seq ∨ m.reqSource ≠ s.ptpSelf then s else
      let d := ((t2 - ns16 t1 - cs) + (ns16 m.stamp - t3 - m.corr)) / 2
      s.withClp fun c => { c with delays := (d :: c.delays).take 8, dreq := none }
    | _, _ => s

def execDelayResp (s : State) : Host.Outcome State Fault Refusal := done (doDelayResp s)

/-- ANNOUNCE: the first one accepted in the domain selects the source (R285). -/
def doAnnounce (s : State) : State :=
  match s.takePtp 11 with
  | none => s
  | some (x, _, m, s) =>
    if !s.ptpHere x.lp m then s.ptpDiscard x.lp else
    match s.clp.source with
    | none => s.withClp fun c => { c with source := some m.source }
    | some p => if p = m.source then s else s.ptpDiscard x.lp

def execAnnounce (s : State) : Host.Outcome State Fault Refusal := done (doAnnounce s)

/-- Take an egress slot for a frame put in the transmit queue: its number, or none when it is sent untimed
(R164, R279). -/
def State.takeEgress (s : State) (lp : Nat) (use : SlotUse) : State × Option Nat :=
  let x := s.lp lp
  let i := x.nextSlot
  if x.egress.length < 4 then
    (s.setLp lp { x with egress := x.egress ++ [⟨use, i, 0⟩], nextSlot := i + 1 }, some i)
  else match use with
    | .probe => (s.satInc F.MAC_TS_PROBE_MISS 0 lp 1, none)
    | .ptp =>
      match x.egress.reverse.find? (fun c => c.use = .probe) with
      | some c =>
        let e := x.egress.filter (fun d => d.id ≠ c.id)
        let s := s.setLp lp { x with egress := e ++ [⟨.ptp, i, 0⟩], nextSlot := i + 1 }
        (s.satInc F.MAC_TS_PROBE_MISS 0 lp 1, some i)
      | none => (s.satInc F.MAC_TS_PTP_MISS 0 lp 1, none)

/-- Put a frame in a port's transmit queue. -/
def State.enqueueTx (s : State) (lp : Nat) (x : TxItem) : State :=
  let p := s.lp lp
  s.setLp lp { p with txq := p.txq ++ [x] }

/-- DELAY_REQ_TIMER: a Delay_Req is queued on the PTP port, with an egress slot (R279, R285). Its octets on each transport and
its multicast MAC addresses are those of IEEE 1588 and of IP (PRESUMED, log entry 40). -/
def doDelayReqTimer (s : State) : State :=
  if s.clpSrc ≠ 1 then s else
  let lp := s.fld F.CLP_PTP_PORT 0 0
  let seq := (s.clp.dreqSeq + 1) % 65536
  let s := s.withClp fun c => { c with dreqSeq := seq, dreq := none }
  match s.takeEgress lp .ptp with
  | (s, slot) =>
    let x := s.ptpXport
    let m : PtpMsg := ⟨1, s.fld F.CLP_PTP_DOMAIN 0 0, s.ptpSelf, seq, 0, 0, false, 0, x, s.ptpSrcIp x, ptpDst x⟩
    let dst := if x = 1 then 0x01005E000181 else if x = 2 then 0x333300000181 else 0x011B19000000
    let f : Frame := ⟨dst, s.fld F.MAC_FLT_ADDR 0 (16 * lp), none, if x = 1 then 90 else if x = 2 then 112 else 64, true, true, .ptp m⟩
    s.enqueueTx lp ⟨64, some 0, .whole f, slot⟩

def execDelayReqTimer (s : State) : Host.Outcome State Fault Refusal := done (doDelayReqTimer s)

/-- PPS_EDGE: a rising edge marks an integer second under sources 2 and 3 (R287). -/
def doPpsEdge (quarter : Nat) (s : State) : State :=
  if s.clpSrc = 2 ∨ (s.clpSrc = 3 ∧ s.clp.clk10m) then
    let x := s.capture quarter % (1000000000 * 65536)
    s.clpSample (if x < 500000000 * 65536 then -(x : Int) else ((1000000000 * 65536 - x : Nat) : Int)) s.clp.ticks
  else s

def execPpsEdge (quarter : Nat) (s : State) : Host.Outcome State Fault Refusal := done (doPpsEdge quarter s)

/-- SOURCE_LOSS (R290). -/
def doSourceLoss (s : State) : State := if s.clpSrc = 0 then s else s.clpLoss

def execSourceLoss (s : State) : Host.Outcome State Fault Refusal := done (doSourceLoss s)

/-- CLK_10M_LOSS: the time clock falls back to the oscillator, and source 3 is lost (R290). -/
def doClk10mLoss (s : State) : State :=
  if s.clpSrc = 3 then (s.withClp fun c => { c with clk10m := false }).clpLoss
  else s.withClp fun c => { c with clk10m := false }

def execClk10mLoss (s : State) : Host.Outcome State Fault Refusal := done (doClk10mLoss s)

/-- CLK_10M_RETURN: the time clock locks to the edges again under source 3 (R284). -/
def doClk10mReturn (s : State) : State := s.withClp fun c => { c with clk10m := true }

def execClk10mReturn (s : State) : Host.Outcome State Fault Refusal := done (doClk10mReturn s)

/-- CLP_SRC_WRITE: a write of CLP_CTRL; a new source forgets the old one's samples (R288, R289). -/
def doClpSrcWrite (value : Nat) (s : State) : State :=
  let old := s.clpSrc
  let s := s.setRegN .clpCtrl 0 0 (value &&& 0xF7FFF7)
  let src := s.clpSrc
  let s := if src = old then s else s.withClp fun c =>
    { c with firstSample := true, source := none, sync := none, twoStep := none, dreq := none,
             delays := [], locks := 0, bads := 0 }
  if src = 0 then
    (s.setFld F.CLP_FREQ 0 0 (unsign 32 s.clp.integ)).clpState 0
  else if s.fld F.CLP_STATE 0 0 = 0 then s.clpState 1
  else s

def execClpSrcWrite (value : Nat) (s : State) : Host.Outcome State Fault Refusal :=
  done (doClpSrcWrite value s)

/-- Step cluster time to an absolute value in ns, fraction 0 (R291). -/
def State.clpSetTo (s : State) (v : Nat) : State :=
  let o := ns16 v - (s.time16 : Int)
  let s := s.clpStep o
  s.withClp fun c => { c with time := v * 2 ^ 48 }

/-- CLP_SET: a 64-bit write steps at once, a low word is held, a high word steps (R291). -/
def doClpSet (off size value : Nat) (s : State) : State :=
  if size = 8 then s.clpSetTo (value % two64)
  else if off = 0 then s.withClp fun c => { c with heldLow := some (value % 2 ^ 32) }
  else s.clpSetTo ((value % 2 ^ 32) * 2 ^ 32 + s.clp.heldLow.getD 0)

def execClpSet (off size value : Nat) (s : State) : Host.Outcome State Fault Refusal :=
  done (doClpSet off size value s)

/-- CLP_TIME_READ: the integer nanoseconds, latching the fraction for this function (R284); the function of a partition that is
disabled or resetting reads zero (R369, R377). -/
def doClpTimeRead (fn : Nat) (s : State) : State :=
  if !s.fnOpen fn then (if s.vfExists fn then s.emitFn fn (.regData fn 0xC0000 0) else s) else
  (s.setFld F.CLP_TIME_FRAC fn 0 (s.time16 % 65536)).emitFn fn (.regData fn 0xC0000 s.ns)

def execClpTimeRead (fn : Nat) (s : State) : Host.Outcome State Fault Refusal := done (doClpTimeRead fn s)

/-- PPS_OUT_PULSE: within 4 ns of an integer second that has had no pulse since cluster time was last stepped (R292). -/
def doPpsOutPulse (s : State) : State :=
  let sec := s.ns / 1000000000
  if s.flag F.CLP_PPS_OUT_EN 0 0 && !s.clp.ppsHigh && decide (s.ns % 1000000000 ≤ 4) && decide (s.clp.lastPps ≠ some sec) then
    (s.withClp fun c => { c with ppsHigh := true, lastPps := some sec }).emit (.pin .clkPpsOut true)
  else s

def execPpsOutPulse (s : State) : Host.Outcome State Fault Refusal := done (doPpsOutPulse s)

/-- PPS_OUT_PULSE_END: the pin falls, whatever CLP_PPS_OUT_EN now holds (R292). -/
def doPpsOutPulseEnd (s : State) : State :=
  if s.clp.ppsHigh then (s.withClp fun c => { c with ppsHigh := false }).emit (.pin .clkPpsOut false) else s

def execPpsOutPulseEnd (s : State) : Host.Outcome State Fault Refusal := done (doPpsOutPulseEnd s)

/-! ### The scheduled-event table -/

/-- Order of firing within one nanosecond: kinds 5, 2, 3, 1, 4 (R294). -/
def sevRank (kind : Nat) : Nat :=
  match kind with
  | 5 => 0
  | 2 => 1
  | 3 => 2
  | 1 => 3
  | _ => 4

/-- Does entry `a` (index `i`) fire before entry `b` (index `j`) (R294)? -/
def sevBefore (a b : SevEnt) (i j : Nat) : Bool :=
  a.time < b.time || (a.time = b.time && (sevRank a.kind < sevRank b.kind
    || (sevRank a.kind = sevRank b.kind && i < j)))

/-- A barrier of a partition. -/
def State.barrier (s : State) (part b : Nat) : Barrier := sget {} s.clp.barriers (4 * part + b)

/-- An entry that is still to fire and that others wait behind. The two entries of a barrier stay until its ramp ends (R293):
its release has fired once the barrier is released, and its ramp, which waits for that release, once its first group starts. -/
def State.sevWaits (s : State) (e : SevEnt) : Bool :=
  let st := s.fld F.CLP_BAR_STATE (e.owner + 1) e.ref
  if e.kind = 2 then st = 1
  else if e.kind = 3 then st = 2 && decide ((s.barrier e.owner e.ref).open_ = [])
  else true

/-- Entry `i` is due and no other entry that is to fire goes before it (R294). -/
def State.sevDue (s : State) (i : Nat) : Bool :=
  let e := sget {} s.clp.sev i
  e.kind ≠ 0 && decide (e.time ≤ s.ns) && !s.clp.sev.any (fun x => s.sevWaits x.2 && sevBefore x.2 e x.1 i)

/-! ### Barriers and the ramp -/

/-- Store a barrier. -/
def State.setBarrier (s : State) (part b : Nat) (x : Barrier) : State :=
  s.withClp fun c => { c with barriers := sput {} c.barriers (4 * part + b) x }

/-- The ramp period in ns: 40 times the number of groups (R299). -/
def State.rampPeriod (s : State) : Nat := 40 * Config.rampGroups s.part

/-- Pools a set of CLP_BAR_POOLS bits names on this part. -/
def barPools (p : Part) (m : Nat) : List Nat := (upFrom 0 (Config.pools p)).filter fun i => bit m i

/-- The first multiple of the ramp period at or after `t` ns (R299). -/
def State.rampAt (s : State) (t : Nat) : Nat := cdiv t s.rampPeriod * s.rampPeriod

/-- Arm barrier `b` of partition `part` (R298). In a composed basin only the lead pool's bit counts. -/
def State.armBarrier (s : State) (part b : Nat) : State :=
  let v := part + 1
  let pools := s.fld F.CLP_BAR_POOLS v b
  let t := s.fld F.CLP_BAR_TIME v b
  if s.fld F.CLP_BAR_STATE v b ≠ 0 then s.setFld F.CLP_BAR_RESULT v b 3
  else if !((upFrom 0 64).all fun p => !bit pools p || s.nonLead p || s.owner p = some part) then
    s.setFld F.CLP_BAR_RESULT v b 2
  else if s.sevQuota part < s.sevUsed part + 2 ∨ 1024 < s.clp.sev.length + 2 then
    (s.clpErr 1 part 2 (sevOwner part) 0).setFld F.CLP_BAR_RESULT v b 1
  else
    match s.sevTake part { time := t, kind := 2, ref := b } with
    | (s, i) =>
      match s.sevTake part { time := s.rampAt (max t s.ns), kind := 3, ref := b } with
      | (s, j) =>
        let s := s.setBarrier part b { pools := pools, release := i.getD 0, ramp := j.getD 0 }
        (s.setFld F.CLP_BAR_RESULT v b 0).setFld F.CLP_BAR_STATE v b 1

/-- Release barrier `b` at cluster time `t`: the ramp begins at the first multiple of the period at or after
it (R299). -/
def State.releaseBarrier (s : State) (part b t : Nat) : State :=
  let x := s.barrier part b
  let a := s.rampAt t
  let s := s.setBarrier part b { x with start := a }
  let e := sget {} s.clp.sev x.ramp
  let s := s.withClp fun c => { c with sev := sput {} c.sev x.ramp { e with time := a } }
  s.setFld F.CLP_BAR_STATE (part + 1) b 2

/-- A write of CLP_BAR_CTRL: the cancel first, then the arm (R298, R300). -/
def State.barCtrl (s : State) (vf b value : Nat) : State :=
  if vf = 0 ∨ !s.fnOpen vf then s else
  let part := vf - 1
  let s := if bit value 1 && s.fld F.CLP_BAR_STATE vf b = 1 then s.releaseBarrier part b s.ns else s
  if bit value 0 then s.armBarrier part b else s

/-- CLP_BAR_ARM. -/
def doClpBarArm (vf b value : Nat) (s : State) : State := s.barCtrl vf b (setBits value 0 0 1)

def execClpBarArm (vf b value : Nat) (s : State) : Host.Outcome State Fault Refusal :=
  done (doClpBarArm vf b value s)

/-- CLP_BAR_CANCEL. -/
def doClpBarCancel (vf b value : Nat) (s : State) : State := s.barCtrl vf b (setBits value 1 1 1)

def execClpBarCancel (vf b value : Nat) (s : State) : Host.Outcome State Fault Refusal :=
  done (doClpBarCancel vf b value s)

/-- BARRIER_RELEASE: the release entry of an armed barrier fires (R294, R298, R299). -/
def doBarrierRelease (vf b : Nat) (s : State) : State :=
  if vf = 0 then s else
  let part := vf - 1
  let x := s.barrier part b
  if s.fld F.CLP_BAR_STATE vf b = 1 && s.sevDue x.release then
    s.releaseBarrier part b s.ns
  else s

def execBarrierRelease (vf b : Nat) (s : State) : Host.Outcome State Fault Refusal :=
  done (doBarrierRelease vf b s)

/-- The ramp of a released barrier has fired, or is due and nothing goes before it (R294). -/
def State.rampDue (s : State) (part b : Nat) : Bool :=
  let x := s.barrier part b
  decide (x.open_ ≠ []) || s.sevDue x.ramp

/-- RAMP_GROUP_START: at A + 40 × g the held cells of group g may start (R294, R299). -/
def doRampGroupStart (vf b g : Nat) (s : State) : State :=
  if vf = 0 then s else
  let x := s.barrier (vf - 1) b
  if s.fld F.CLP_BAR_STATE vf b = 2 && s.rampDue (vf - 1) b && decide (x.start + 40 * g ≤ (s.ns : Int)) && decide (g ∉ x.open_) then
    s.setBarrier (vf - 1) b { x with open_ := x.open_ ++ [g] }
  else s

def execRampGroupStart (vf b g : Nat) (s : State) : Host.Outcome State Fault Refusal :=
  done (doRampGroupStart vf b g s)

/-- Make a barrier idle and return its entries. -/
def State.endBarrier (s : State) (part b : Nat) : State :=
  let x := s.barrier part b
  if s.fld F.CLP_BAR_STATE (part + 1) b = 0 then s else
  let s := s.withClp fun c =>
    { c with sev := sput {} (sput {} c.sev x.release {}) x.ramp {} }
  (s.setBarrier part b {}).setFld F.CLP_BAR_STATE (part + 1) b 0

/-- RAMP_END: the ramp period has passed (R299). -/
def doRampEnd (vf b : Nat) (s : State) : State :=
  if vf = 0 then s else
  let x := s.barrier (vf - 1) b
  if s.fld F.CLP_BAR_STATE vf b = 2 && s.rampDue (vf - 1) b && decide (x.start + s.rampPeriod ≤ (s.ns : Int)) then s.endBarrier (vf - 1) b
  else s

def execRampEnd (vf b : Nat) (s : State) : Host.Outcome State Fault Refusal := done (doRampEnd vf b s)

/-- The cells of pool `p` are held for partition `part` by a barrier of it: armed, or ramping with the pool's
group not yet started; or they were when a reset of the partition made it idle (R297). In a composed basin the lead pool's
bit governs (R298, R299). -/
def State.heldByBarrier (s : State) (part p : Nat) : Bool :=
  decide (p ∈ (sget {} s.prt.resets part).kept) || (upFrom 0 4).any fun b =>
    let st := s.fld F.CLP_BAR_STATE (part + 1) b
    let x := s.barrier part b
    bit x.pools (s.leadOf p) && (st = 1 || (st = 2 && decide (p / 4 ∉ x.open_)))

/-! ### Snapshots -/

/-- CLP_SNAP_ARM: a write of CLP_SNAP_CTRL that arms (R301). -/
def State.snapCtrl (s : State) (value : Nat) : State :=
  let s := s.setFld F.CLP_SNAP_MODE 0 0 (bits value 2 1)
  if !bit value 0 then s
  else if s.flag F.CLP_SNAP_PENDING 0 0 then s.setFld F.CLP_SNAP_RESULT 0 0 2
  else
    match s.sevTake 64 { time := s.fld F.CLP_SNAP_TIME 0 0, kind := 5, ref := s.fld F.CLP_SNAP_MODE 0 0 } with
    | (s, none) => s.setFld F.CLP_SNAP_RESULT 0 0 1
    | (s, some _) => (s.setFld F.CLP_SNAP_RESULT 0 0 0).setFld F.CLP_SNAP_PENDING 0 0 1

/-- CLP_SNAP_ARM. -/
def doClpSnapArm (value : Nat) (s : State) : State := s.snapCtrl (setBits value 0 0 1)

def execClpSnapArm (value : Nat) (s : State) : Host.Outcome State Fault Refusal := done (doClpSnapArm value s)

/-- The armed entry of kind 5, when it is due. -/
def State.snapDue (s : State) : Option (Nat × SevEnt) :=
  s.clp.sev.find? fun e => e.2.kind = 5 && s.sevDue e.1

/-- The armed entry fires in a mode that `p` accepts. -/
def State.snapFire (s : State) (p : Nat → Bool) (f : State → Nat → State) : State :=
  match s.snapDue with
  | none => s
  | some (i, e) =>
    if p e.ref then f ((s.sevDrop i).setFld F.CLP_SNAP_PENDING 0 0 0) e.time else s

/-- COUNTER_SNAPSHOT: modes 0 and 3 (R301, R474). -/
def doCounterSnapshot (s : State) : State := s.snapFire (fun m => m = 0 || m = 3) fun s t => s.pmcSnapshot t

def execCounterSnapshot (s : State) : Host.Outcome State Fault Refusal := done (doCounterSnapshot s)

/-- COUNTER_FREEZE: mode 1 (R301, R474). -/
def doCounterFreeze (s : State) : State := s.snapFire (fun m => m = 1) fun s _ => s.pmcFreeze

def execCounterFreeze (s : State) : Host.Outcome State Fault Refusal := done (doCounterFreeze s)

/-- COUNTER_THAW: mode 2 (R301, R474). -/
def doCounterThaw (s : State) : State := s.snapFire (fun m => m = 2) fun s _ => s.pmcThaw

def execCounterThaw (s : State) : Host.Outcome State Fault Refusal := done (doCounterThaw s)

end Sys2Proof.Machine
end

