-- ==== Sys2Proof/Machine/Mac.lean ====
section
/-! DEFINITION. The Ethernet ports: reception, filters, pause, LLDP, Low Power Idle and timestamp slots
(spec/11). Transmission stands in MacTx.lean, after Aqueduct. -/

namespace Sys2Proof.Machine

/-- Physical port `n` is split. -/
def State.split (s : State) (n : Nat) : Bool := s.flag F.MAC_SPLIT 0 n

/-- Logical port `lp` exists (R265). -/
def State.lpExists (s : State) (lp : Nat) : Bool := decide (lp < 16) && (lp % 2 = 0 || s.split (lp / 2))

/-- Line rate of a logical port in Mb/s. -/
def State.lineRate (s : State) (lp : Nat) : Nat := if s.split (lp / 2) then 200000 else 400000

/-- PHY type of a logical port. -/
def State.phy (s : State) (lp : Nat) : Nat := s.fld F.MAC_PHY_TYPE 0 (lp / 2)

/-- The PHY type offers LPI (R266). -/
def offersLpi (phy : Nat) : Bool := phy = 1 || phy = 5

/-- An error of the ports (R281). -/
def State.macErr (s : State) (b lp prio held : Nat) : State :=
  s.errOne .macErrSts .macErrFirst b
    (pack [(F.MAC_EF_HELD, if b = 3 then satTo 0xFFFFFFFF held else 0),
      (F.MAC_EF_PRIO, if b = 3 then prio else 0), (F.MAC_EF_PORT, lp), (F.MAC_EF_VALID, 1),
      (F.MAC_EF_CAUSE, b)]) 0 0

/-- Octets that wait in the receive buffer (R274). -/
def LpSt.occupancy (x : LpSt) : Nat := (x.rxbuf.map fun i => i.frame.octets).foldl (· + ·) 0

/-- Flow-control mode of a port: 0 none, 1 PAUSE, 2 PFC (3 treated as 0). -/
def State.fcMode (s : State) (lp : Nat) : Nat :=
  if s.fld F.MAC_FC_MODE 0 lp = 3 then 0 else s.fld F.MAC_FC_MODE 0 lp

/-- Nanoseconds of `q` quanta: 1.28 ns each at 400 Gb/s, 2.56 ns at 200 (R273), rounded up. -/
def State.quantaNs (s : State) (lp q : Nat) : Nat :=
  cdiv (q * (if s.split (lp / 2) then 256 else 128)) 100

/-- Queue a pause frame: `prio` 8 is PAUSE for the whole port (R274). -/
def State.sendPause (s : State) (lp prio q : Nat) : State :=
  let body := if prio = 8 then FrameBody.control 0x0001 0 [q]
    else FrameBody.control 0x0101 (2 ^ prio) ((upFrom 0 8).map fun p => if p = prio then q else 0)
  let f : Frame := ⟨0x0180C2000001, s.fld F.MAC_FLT_ADDR 0 (16 * lp), none, 64, true, true, body⟩
  s.enqueueTx lp ⟨64, none, .whole f, none⟩

/-- Quanta of the device's XOFF; 0 reads as 1. -/
def State.xoffQuanta (s : State) (lp : Nat) : Nat := max 1 (s.fld F.MAC_FC_QUANTA 0 lp)

/-- Send XOFF on a priority unless it is in holdoff, and note when to repeat it (R274, R275). -/
def State.xoff (s : State) (lp prio : Nat) : State :=
  let x := s.lp lp
  if prio ∈ x.offTx then s else
  let q := s.xoffQuanta lp
  let next := s.ns + s.quantaNs lp q / 2
  let since := match x.xoff.find? fun h => h.prio = prio with
    | some h => h.since
    | none => s.ns
  let s := s.setLp lp { x with xoff := x.xoff.filter (fun h => h.prio ≠ prio) ++ [⟨prio, since, next⟩] }
  s.sendPause lp prio q

/-- End the device's XOFF on a priority with XON (R274). -/
def State.xon (s : State) (lp prio : Nat) : State :=
  let x := s.lp lp
  (s.setLp lp { x with xoff := x.xoff.filter fun h => h.prio ≠ prio }).sendPause lp prio 0

/-- The priority of a frame: the PCP of its tag, or 0 (spec/11). -/
def framePrio (f : Frame) : Nat := (f.tag.map (·.1)).getD 0

/-- The device sends XOFF for `prio` in the port's mode: 8 is the whole port (R274). -/
def State.sendsXoff (s : State) (lp prio : Nat) : Bool :=
  if prio = 8 then s.fcMode lp = 1 else s.fcMode lp = 2 && bit (s.fld F.MAC_PFC_PRIO 0 lp) prio

/-- XOFF for `prio` when an occupancy of 128 KiB asks for it; one that is in force already is repeated by its own timer
alone (DEDUCED, log entry 24). -/
def State.askXoff (s : State) (lp prio occ : Nat) : State :=
  if s.sendsXoff lp prio && decide (131072 ≤ occ) && !((s.lp lp).xoff.any fun h => h.prio = prio) then s.xoff lp prio else s

/-- Put a received frame in the buffer, or discard it when the buffer is full, which frees its capture slot. PAUSE is sent as
the occupancy reaches 128 KiB, and a priority's XOFF for a frame that arrives at or above it (R274). -/
def State.bufferRx (s : State) (x : RxItem) : State :=
  let p := s.lp x.lp
  let s := s.askXoff x.lp (framePrio x.frame) p.occupancy
  if 262144 < p.occupancy + x.frame.octets then
    (((s.freeIngress x.lp x.slot).count 0x0804 x.lp [] 1).macErr 2 x.lp 0 0).askXoff x.lp 8 p.occupancy
  else
    let s := s.setLp x.lp { s.lp x.lp with rxbuf := p.rxbuf ++ [x] }
    s.askXoff x.lp 8 (p.occupancy + x.frame.octets)

/-- Take an ingress slot at a frame's arrival (R164, R279). -/
def State.takeIngress (s : State) (lp : Nat) (use : SlotUse) (t : Nat) : State × Option Nat :=
  let x := s.lp lp
  let i := x.nextSlot
  if x.ingress.length < 4 then
    (s.setLp lp { x with ingress := x.ingress ++ [⟨use, i, t⟩], nextSlot := i + 1 }, some i)
  else match use with
    | .probe => (s.satInc F.MAC_TS_PROBE_MISS 0 lp 1, none)
    | .ptp =>
      match x.ingress.reverse.find? (fun c => c.use = .probe) with
      | some c =>
        let e := x.ingress.filter (fun d => d.id ≠ c.id)
        let s := s.setLp lp { x with ingress := e ++ [⟨.ptp, i, t⟩], nextSlot := i + 1 }
        (s.satInc F.MAC_TS_PROBE_MISS 0 lp 1, some i)
      | none => (s.satInc F.MAC_TS_PTP_MISS 0 lp 1, none)

/-- The frame's destination passes the filter of the port; broadcast never does (R271). -/
def State.filterPass (s : State) (lp : Nat) (f : Frame) : Bool :=
  f.dst = 0x0180C2000001 || f.dst = 0x0180C200000E
    || (f.dst ≠ 0xFFFFFFFFFFFF && (upFrom 0 16).any fun e =>
      s.flag F.MAC_FLT_VALID 0 (16 * lp + e) && s.fld F.MAC_FLT_ADDR 0 (16 * lp + e) = f.dst)

/-- An Aqueduct header and its IP and UDP headers are well formed (R235). -/
def pktOk (p : Pkt) : Bool :=
  p.plain && (p.csum = 1 || (p.csum = 0 && !p.v6)) && p.ver = 0x10 && p.reserved = 0
    && p.flags < 16 && p.part < 64 && 1 ≤ p.op && p.op ≤ 9 && p.len = p.payload.length
    && p.udpLen = 8 + 48 + p.len

/-- An error of Aqueduct in the views that cover `part` (64: the physical function's alone). -/
def State.aqdErr (s : State) (b part ctx psn : Nat) : State :=
  s.errIn .aqdErrSts .aqdErrFirst b
    (pack [(F.AQD_EF_CTX, ctx), (F.AQD_EF_PSN, psn), (F.AQD_EF_VALID, 1),
      (F.AQD_EF_PART, if part < 64 then part else 0), (F.AQD_EF_CAUSE, b)])
    (if part < 64 then s.views part else [0]) 0

/-- FRAME_RECEIVE: counted, filtered, dispatched or discarded (R235, R266, R267, R271, R274, R279, R476). A
pause frame goes straight to pause handling; what passes waits in the receive buffer for its consumer. -/
def doFrameReceive (lp : Nat) (f : Frame) (quarter : Nat) (s : State) : State :=
  if !s.lpExists lp || !(s.lp lp).up then s
  else if !f.fec then s.count 0x0801 lp [] 1
  else if !f.fcs then s.count 0x0802 lp [] 1
  else
    let s := (s.countPort lp 2 f.octets).countPort lp 3 1
    if 9238 < f.octets then (s.count 0x0804 lp [] 1).macErr 0 lp 0 0
    else if !s.filterPass lp f then s.count 0x0803 lp [] 1
    else match f.body with
    | .control op _ _ =>
      if op = 1 ∨ op = 0x0101 then { s with mac := { s.mac with rx := s.mac.rx ++ [⟨lp, f, none⟩] } }
      else s.count 0x0803 lp [] 1
    | .lldp _ _ _ _ => s.bufferRx ⟨lp, f, none⟩
    | .ptp m =>
      if m.kind < 4 then
        match s.takeIngress lp .ptp (s.capture quarter) with
        | (s, i) => s.bufferRx ⟨lp, f, i⟩
      else s.bufferRx ⟨lp, f, none⟩
    | .aqd p =>
      if p.dport = 319 ∨ p.dport = 320 then s.bufferRx ⟨lp, f, none⟩
      else if p.dport ≠ s.fld F.AQD_UDP_PORT 0 0 then s.count 0x0803 lp [] 1
      else if s.stopped then s
      else if !pktOk p then (s.count 0x0803 lp [] 1).aqdErr 1 64 0 0
      else if p.op = 7 ∨ p.op = 8 then
        match s.takeIngress lp .probe (s.capture quarter) with
        | (s, i) => s.bufferRx ⟨lp, f, i⟩
      else s.bufferRx ⟨lp, f, none⟩
    | .other _ => s.count 0x0803 lp [] 1

def execFrameReceive (lp : Nat) (f : Frame) (quarter : Nat) (s : State) : Host.Outcome State Fault Refusal :=
  done (doFrameReceive lp f quarter s)

/-- The Clepsydra discards this frame as it reaches it: a message type that it does not use, or what came to its UDP ports
and is no PTP message (R271, R285). -/
def ptpUnused (f : Frame) : Bool :=
  match f.body with
  | .ptp m => decide (m.kind ∉ [0, 8, 9, 11])
  | .aqd p => p.dport = 319 || p.dport = 320
  | _ => false

/-- A frame reaches its consumer. -/
def State.deliverRx (s : State) (i : RxItem) : State :=
  if ptpUnused i.frame then (s.freeIngress i.lp i.slot).ptpDiscard i.lp
  else { s with mac := { s.mac with rx := s.mac.rx ++ [i] } }

/-- RX_BUFFER_DRAIN: the oldest frame goes to its consumer; below 64 KiB the device's XOFFs end (R274). -/
def doRxBufferDrain (lp : Nat) (s : State) : State :=
  let x := s.lp lp
  match x.rxbuf with
  | [] => s
  | i :: rest =>
    let y := { x with rxbuf := rest }
    let s := (s.setLp lp y).deliverRx i
    if y.occupancy < 65536 then x.xoff.foldl (fun s h => s.xon lp h.prio) s else s

def execRxBufferDrain (lp : Nat) (s : State) : Host.Outcome State Fault Refusal := done (doRxBufferDrain lp s)

/-- A received pause on one priority sets, replaces or releases its hold; a priority in holdoff ignores it (R273). A hold
whose quanta have run out has been broken, so the watchdog measures anew (R275). -/
def State.pauseOne (s : State) (lp prio q : Nat) : State :=
  let x := s.lp lp
  if prio ∈ x.offRx then s else
  let old := x.holds.find? fun h => h.prio = prio
  let rest := x.holds.filter fun h => h.prio ≠ prio
  if q = 0 then s.setLp lp { x with holds := rest }
  else
    let since := ((old.filter fun h => decide (s.ns < h.until_)).map (·.since)).getD s.ns
    s.setLp lp { x with holds := rest ++ [⟨prio, since, s.ns + s.quantaNs lp q⟩] }

/-- PAUSE_FRAME (R273): discarded and counted when its kind is not the port's mode, and once where it names priorities that
are not enabled. -/
def doPauseFrame (s : State) : State :=
  match s.takeRx (fun x => match x.frame.body with | .control _ _ _ => true | _ => false) with
  | none => s
  | some (x, s) =>
    match x.frame.body with
    | .control op en qs =>
      if op = 1 ∧ s.fcMode x.lp = 1 then s.pauseOne x.lp 8 (qs.getD 0 0)
      else if op = 0x0101 ∧ s.fcMode x.lp = 2 then
        let on := s.fld F.MAC_PFC_PRIO 0 x.lp
        let s := (upFrom 0 8).foldl (fun s p => if bit en p && bit on p then s.pauseOne x.lp p (qs.getD p 0) else s) s
        if (upFrom 0 8).any fun p => bit en p && !bit on p then s.count 0x0804 x.lp [] 1 else s
      else s.count 0x0804 x.lp [] 1
    | _ => s

def execPauseFrame (s : State) : Host.Outcome State Fault Refusal := done (doPauseFrame s)

/-- PAUSE_HOLD_EXPIRE: the quanta have elapsed (R273). -/
def doPauseHoldExpire (lp prio : Nat) (s : State) : State :=
  let x := s.lp lp
  s.setLp lp { x with holds := x.holds.filter fun h => h.prio ≠ prio || decide (s.ns < h.until_) }

def execPauseHoldExpire (lp prio : Nat) (s : State) : Host.Outcome State Fault Refusal :=
  done (doPauseHoldExpire lp prio s)

/-- XOFF_REPEAT: half the quanta have elapsed; XOFF again, or XON when occupancy is low (R274). -/
def doXoffRepeat (lp prio : Nat) (s : State) : State :=
  let x := s.lp lp
  match x.xoff.find? fun h => h.prio = prio with
  | none => s
  | some h =>
    if x.occupancy < 65536 then s.xon lp prio
    else if s.ns < h.until_ then s else s.xoff lp prio

def execXoffRepeat (lp prio : Nat) (s : State) : Host.Outcome State Fault Refusal :=
  done (doXoffRepeat lp prio s)

/-- PAUSE_BROKEN and MAC_E_PAUSE (R275). -/
def State.pauseBroken (s : State) (lp prio dir held : Nat) : State :=
  let p := if prio = 8 then 0xFF else prio
  let s := s.macErr 3 lp p (held / 1000)
  s.eventPf 0x0502 (toLe 1 lp ++ toLe 1 p ++ toLe 1 dir ++ toLe 4 held)

/-- PAUSE_WATCHDOG: a hold, or the device's own XOFF, has lasted MAC_PAUSE_WD µs (R275). -/
def doPauseWatchdog (lp prio : Nat) (own : Bool) (s : State) : State :=
  let x := s.lp lp
  let wd := 1000 * max 1 (s.fld F.MAC_PAUSE_WD 0 lp)
  let l := if own then x.xoff else x.holds
  match l.find? fun h => h.prio = prio with
  | none => s
  | some h =>
    let held := s.ns - h.since
    if held < wd then s
    else if own then
      let s := s.xon lp prio
      let y := s.lp lp
      (s.setLp lp { y with offTx := y.offTx ++ [prio] }).pauseBroken lp prio 1 held
    else
      let s := s.setLp lp { x with holds := x.holds.filter (fun h => h.prio ≠ prio), offRx := x.offRx ++ [prio] }
      s.pauseBroken lp prio 0 held

def execPauseWatchdog (lp prio : Nat) (own : Bool) (s : State) : Host.Outcome State Fault Refusal :=
  done (doPauseWatchdog lp prio own s)

/-- PAUSE_HOLDOFF_END: pause is honoured, or sent, again (R275); the device's own XOFF goes at once where the buffer still
asks for it (DEDUCED, log entry 24). -/
def doPauseHoldoffEnd (lp prio : Nat) (own : Bool) (s : State) : State :=
  let x := s.lp lp
  if own then
    if prio ∈ x.offTx then (s.setLp lp { x with offTx := x.offTx.filter (· ≠ prio) }).askXoff lp prio x.occupancy else s
  else s.setLp lp { x with offRx := x.offRx.filter (· ≠ prio) }

def execPauseHoldoffEnd (lp prio : Nat) (own : Bool) (s : State) : Host.Outcome State Fault Refusal :=
  done (doPauseHoldoffEnd lp prio own s)

/-- LLDP_TRANSMIT: the TLVs of R276. The EEE TLV asks for the PHY type's minimum, echoes what the partner last asked for, and
offers the transmit wake time resolved with it (R277). -/
def doLldpTransmit (lp : Nat) (s : State) : State :=
  if !s.lpExists lp || !(s.lp lp).up then s else
  let a := s.fld F.MAC_FLT_ADDR 0 (16 * lp)
  let t := Config.minTw (s.phy lp)
  let p := (s.lp lp).eee.getD (0, 0)
  let eee : Option EeeTlv :=
    if s.flag F.MAC_LPI_EN 0 lp && offersLpi (s.phy lp) then some ⟨max t p.2, t, t, p.1, p.2⟩ else none
  let f : Frame := ⟨0x0180C200000E, a, none, 64, true, true, .lldp a lp 120 eee⟩
  s.enqueueTx lp ⟨64, none, .whole f, none⟩

def execLldpTransmit (lp : Nat) (s : State) : Host.Outcome State Fault Refusal := done (doLldpTransmit lp s)

/-- LLDP_RECEIVE: the EEE TLV resolves the wake times, each the longer of what one end offers or asks for and the other
(PRESUMED for Clause 78, log entry 40); every other TLV is ignored (R276, R277). -/
def doLldpReceive (s : State) : State :=
  match s.takeRx (fun x => match x.frame.body with | .lldp _ _ _ _ => true | _ => false) with
  | none => s
  | some (x, s) =>
    match x.frame.body with
    | .lldp _ _ _ (some e) =>
      let t := Config.minTw (s.phy x.lp)
      let s := (s.setFld F.MAC_TW_TX 0 x.lp (max t e.rx)).setFld F.MAC_TW_RX 0 x.lp (max t e.tx)
      s.setLp x.lp { s.lp x.lp with eee := some (e.tx, e.rx) }
    | _ => s

def execLldpReceive (s : State) : Host.Outcome State Fault Refusal := done (doLldpReceive s)

/-- LLDP_TTL_EXPIRY: the wake times are unresolved again (R277). -/
def doLldpTtlExpiry (lp : Nat) (s : State) : State :=
  let s := s.setRegN .macLpiSts 0 lp 0
  s.setLp lp { s.lp lp with eee := none }

def execLldpTtlExpiry (lp : Nat) (s : State) : Host.Outcome State Fault Refusal := done (doLldpTtlExpiry lp s)

/-- An Aqueduct context on the port has a PSN outstanding (R278). -/
def State.portBusy (s : State) (lp : Nat) : Bool :=
  s.aqd.ctxs.any fun e => e.2.state = 2 && leAt e.2.setup 1 1 % 16 = lp && e.2.out ≠ []

/-- LPI_ENTRY: every condition of R278 has held. -/
def doLpiEntry (lp : Nat) (s : State) : State :=
  let x := s.lp lp
  if s.flag F.MAC_LPI_EN 0 lp && offersLpi (s.phy lp) && x.up && x.eee.isSome && x.txq = [] && !s.portBusy lp then
    s.setFld F.MAC_LPI_ACTIVE 0 lp 1
  else s

def execLpiEntry (lp : Nat) (s : State) : Host.Outcome State Fault Refusal := done (doLpiEntry lp s)

/-- The port-state event (R269). -/
def State.portEvent (s : State) (lp up : Nat) : State :=
  s.eventPf 0x0501 (toLe 1 lp ++ toLe 1 up ++ toLe 1 (s.phy lp))

/-- LINK_UP (R269). -/
def doLinkUp (lp : Nat) (s : State) : State :=
  let x := s.lp lp
  if s.lpExists lp && s.flag F.MAC_PORT_EN 0 (lp / 2) && s.phy lp ≠ 0 && !x.up then
    (s.setLp lp { x with up := true }).portEvent lp 1
  else s

def execLinkUp (lp : Nat) (s : State) : Host.Outcome State Fault Refusal := done (doLinkUp lp s)

/-- The link of a logical port goes down (R269). -/
def State.linkFall (s : State) (lp : Nat) : State :=
  let x := s.lp lp
  if x.up then
    let s := (s.setLp lp { x with up := false }).setFld F.MAC_LPI_ACTIVE 0 lp 0
    (s.macErr 1 lp 0 0).portEvent lp 0
  else s

/-- LINK_DOWN (R269). -/
def doLinkDown (lp : Nat) (s : State) : State := s.linkFall lp

def execLinkDown (lp : Nat) (s : State) : Host.Outcome State Fault Refusal := done (doLinkDown lp s)

/-- The PHY type matches MAC_SPLIT, and is not reserved (R266). -/
def phyMatches (phy : Nat) (split : Bool) : Bool :=
  phy = 0 || (!split && 1 ≤ phy && phy ≤ 4) || (split && (phy = 5 || phy = 6))

/-- MAC_PORT_CFG_WRITE: applied, or refused with MAC_E_CFG (R268). A port that is disabled, or of PHY type None, is held
down (R266). -/
def doMacPortCfgWrite (n value : Nat) (s : State) : State :=
  let v := value &&& 0xFFF3
  let old := s.regN .macPortCfg 0 n
  let changed := decide (v / 2 ≠ old / 2)
  let en := bit v 0
  if (bit old 0 && changed) || (en && !bit old 0 && !phyMatches (bits v 7 4) (bit v 1)) then
    s.macErr 4 (2 * n) 0 0
  else
    let s := s.setRegN .macPortCfg 0 n v
    if en && bits v 7 4 ≠ 0 then s else (s.linkFall (2 * n)).linkFall (2 * n + 1)

def execMacPortCfgWrite (n value : Nat) (s : State) : Host.Outcome State Fault Refusal :=
  done (doMacPortCfgWrite n value s)

/-- MAC_FILTER_WRITE: the group bit must suit the entry (R270). -/
def doMacFilterWrite (lp e value : Nat) (s : State) : State :=
  if !s.lpExists lp then s
  else if bit value 40 = decide (8 ≤ e) then
    s.setRegN .macFilter 0 (16 * lp + e) (value &&& 0x8000FFFFFFFFFFFF)
  else s.macErr 4 lp 0 0

def execMacFilterWrite (lp e value : Nat) (s : State) : Host.Outcome State Fault Refusal :=
  done (doMacFilterWrite lp e value s)

end Sys2Proof.Machine
end

