-- ==== Sys2Proof/Machine/Aqd.lean ====
section
/-! DEFINITION. Aqueduct: contexts, operations, regions, the tracker and the commands of its registers
(spec/10). Its packets stand in AqdRx.lean. -/

namespace Sys2Proof.Machine

/-- Update Aqueduct. -/
def State.withAqd (s : State) (f : AqdSt → AqdSt) : State := { s with aqd := f s.aqd }

/-- A flow context. -/
def State.ctx (s : State) (i : Nat) : FlowCtx := sget {} s.aqd.ctxs i

/-- Store a flow context. -/
def State.setCtx (s : State) (i : Nat) (c : FlowCtx) : State :=
  s.withAqd fun a => { a with ctxs := sput {} a.ctxs i c }

/-- A region-table entry. -/
def State.rge (s : State) (i : Nat) : Rge := sget {} s.aqd.regions i

/-- Slots of the region table; larger values read as 0x100_0000. -/
def State.rgnSlots (s : State) : Nat := min 0x1000000 (s.fld F.AQD_RGN_SLOTS 0 0)

/-- The 32 bytes of slot `i` in the table (R247). Initialisation links the entries in ascending order; RGE_NEXT of the last
one is not stated. -/
def rgeBytes (slots i : Nat) (r : Rge) : List Byte :=
  toLe 1 r.state ++ toLe 1 r.gen ++ toLe 1 r.part ++ toLe 1 r.perm ++ toLe 4 r.inflight ++ toLe 8 r.va ++ toLe 8 r.len
    ++ toLe 4 r.era ++ toLe 4 (r.next.getD (if i + 1 < slots then i + 1 else Config.lastNext))

/-- Write slot `i` of the table in device memory (R247). -/
def State.putRge (s : State) (i : Nat) (r : Rge) : State :=
  let a := s.fld F.AQD_RGN_DPA 0 0 * 4096 + 32 * i
  (s.writeUnitDpa {} (aqdRq 64) (a / 64 * 64) (unitPart a (rgeBytes s.rgnSlots i r) (a / 64 * 64)).1
    (unitPart a (rgeBytes s.rgnSlots i r) (a / 64 * 64)).2).1

/-- Change a region-table entry, in Aqueduct and in memory. -/
def State.setRge (s : State) (i : Nat) (r : Rge) : State :=
  (s.withAqd fun a => { a with regions := sput {} a.regions i r }).putRge i r

/-- Tell a using unit. -/
def State.note (s : State) (n : AqdNote) : State := s.withAqd fun a => { a with notes := a.notes ++ [n] }

/-! ### The set-up record (R239) -/

def FlowCtx.v6 (c : FlowCtx) : Bool := bit (leAt c.setup 0 1) 0
def FlowCtx.lp (c : FlowCtx) : Nat := leAt c.setup 1 1 % 16
def FlowCtx.dscp (c : FlowCtx) : Nat := leAt c.setup 2 1 % 64
def FlowCtx.smac (c : FlowCtx) : Nat := leAt c.setup 3 1 % 8
def FlowCtx.vlan (c : FlowCtx) : Nat := leAt c.setup 4 2
def FlowCtx.mtu (c : FlowCtx) : Nat := leAt c.setup 14 2
def FlowCtx.localIp (c : FlowCtx) : Nat := beAt c.setup 16 16
def FlowCtx.peerIp (c : FlowCtx) : Nat := beAt c.setup 32 16
def FlowCtx.peerCtx (c : FlowCtx) : Nat := leAt c.setup 10 2

/-- IP header bytes h of R242. -/
def FlowCtx.ipHeader (c : FlowCtx) : Nat := if c.v6 then 40 else 20

/-- Largest payload a packet of the flow may carry: FSR_MTU − h − 56 (R242). -/
def FlowCtx.room (c : FlowCtx) : Nat := c.mtu - c.ipHeader - 56

/-- MSS of R242. -/
def FlowCtx.mss (c : FlowCtx) : Nat := c.room / 64 * 64

/-- The priority of the flow's frames: the PCP of its tag, or 0. -/
def FlowCtx.prio (c : FlowCtx) : Nat := if bit c.vlan 15 then bits c.vlan 14 12 else 0

/-- Is a set-up record in range (R239, R265)? -/
def State.setupOk (s : State) (r : List Byte) : Bool :=
  leAt r 0 1 < 2 && leAt r 1 1 < 16 && s.lpExists (leAt r 1 1) && leAt r 2 1 < 64 && leAt r 3 1 < 8
    && leAt r 10 2 < 40960 && leAt r 12 1 < 64 && leAt r 13 1 = 0 && 1280 ≤ leAt r 14 2
    && leAt r 14 2 ≤ 9216 && leAt r 62 2 = 0
    && (leAt r 0 1 = 1 || (leAt r 16 12 = 0 && leAt r 32 12 = 0))

/-! ### The tracker (R258) -/

/-- Sequenced packets that have been sent and not acknowledged; one with a PSN that still waits to be sent is none. -/
def FlowCtx.sent (c : FlowCtx) : List TxEnt := c.out.filter fun e => e.ts.isSome

/-- Entries a context holds: packets sent and not acknowledged, packets received and not finished, and
accepted reads. -/
def FlowCtx.entries (c : FlowCtx) : Nat := c.sent.length + c.rx.length + c.jobs.length

/-- AQD_TRK_FREE. -/
def State.trackerFree (s : State) : Nat :=
  1048576 - (s.aqd.ctxs.map fun e => e.2.entries).foldl (· + ·) 0

/-- Is era `a` at or before era `b`, as 32-bit counts? -/
def eraUpTo (a b : Nat) : Bool := decide (signed 32 (a + 2 ^ 32 - b % 2 ^ 32) ≤ 0)

/-- Some tracker entry is of an era up to `e` (R249). -/
def State.eraLive (s : State) (e : Nat) : Bool :=
  s.aqd.ctxs.any fun x => x.2.sent.any (fun t => eraUpTo t.era e) || x.2.rx.any (fun t => eraUpTo t.era e)
    || x.2.jobs.any (fun t => eraUpTo t.era e)

/-- One access fewer in flight under a region (R249). -/
def State.rgeDown (s : State) (slot : Nat) : State :=
  let r := s.rge slot
  s.setRge slot { r with inflight := r.inflight - 1 }

/-! ### Sending -/

/-- `a - b` of 32-bit PSNs as a signed difference. -/
def psnDiff (a b : Nat) : Int := signed 32 (a + 2 ^ 32 - b % 2 ^ 32)

/-- The 48 bytes of an Aqueduct header, big-endian (R7, R236). -/
def aqhBytes (p : Pkt) : List Byte :=
  toBe 1 p.ver ++ toBe 1 p.op ++ toBe 1 p.flags ++ toBe 1 p.part ++ toBe 2 p.dstCtx ++ toBe 2 p.srcCtx
    ++ toBe 4 p.psn ++ toBe 4 p.aux ++ toBe 8 p.ts ++ toBe 4 p.rkey ++ toBe 4 p.len ++ toBe 8 p.va
    ++ toBe 4 p.reqid ++ zeros 4

/-- The Internet checksum of an even number of bytes: the complement of their one's-complement sum. -/
def inetSum (b : List Byte) : Nat :=
  let t := (upFrom 0 (b.length / 2)).foldl (fun a k => a + beAt b (2 * k) 2) 0
  let t := t % 65536 + t / 65536
  0xFFFF - (t % 65536 + t / 65536)

/-- The IP header, every field big-endian: IPv4 of 20 bytes, or IPv6 of 40 (R7, R234). -/
def ipBytes (p : Pkt) : List Byte :=
  if p.v6 then
    toBe 4 (6 * 2 ^ 28 + (4 * p.dscp + p.ecn) * 2 ^ 20 + p.flow) ++ toBe 2 p.udpLen ++ toBe 1 17 ++ toBe 1 p.ttl
      ++ toBe 16 p.srcIp ++ toBe 16 p.dstIp
  else
    let h := toBe 1 0x45 ++ toBe 1 (4 * p.dscp + p.ecn) ++ toBe 2 (20 + p.udpLen) ++ toBe 2 p.ident
      ++ toBe 2 (0x4000 * b2n p.df) ++ toBe 1 p.ttl ++ toBe 1 17
    let a := toBe 4 p.srcIp ++ toBe 4 p.dstIp
    h ++ toBe 2 (inetSum (h ++ zeros 2 ++ a)) ++ a

/-- The UDP header with its checksum over the pseudo-header, the Aqueduct header and the payload; a sum of zero goes out as
0xFFFF (R234). -/
def udpBytes (p : Pkt) : List Byte :=
  let n := if p.v6 then 16 else 4
  let h := toBe 2 p.sport ++ toBe 2 p.dport ++ toBe 2 p.udpLen
  let body := aqhBytes p ++ p.payload
  let all := toBe n p.srcIp ++ toBe n p.dstIp ++ toBe 4 17 ++ toBe 4 p.udpLen ++ h ++ zeros 2 ++ body
    ++ zeros (body.length % 2)
  h ++ toBe 2 (if inetSum all = 0 then 0xFFFF else inetSum all) ++ body

/-- The bytes of an Aqueduct frame from the destination address to the last payload byte, in the order of R234 (the layouts
of IEEE 802.3, IEEE 802.1Q, IPv4, IPv6 and UDP are theirs: PRESUMED, log entry 40). -/
def aqdWire (dst src : Nat) (tag : Option (Nat × Nat)) (p : Pkt) : List Byte :=
  toBe 6 dst ++ toBe 6 src ++ (tag.elim [] fun t => toBe 2 0x8100 ++ toBe 2 (t.1 * 8192 + t.2))
    ++ toBe 2 (if p.v6 then 0x86DD else 0x0800) ++ ipBytes p ++ udpBytes p

/-- The frame around an Aqueduct packet of a flow: with its FCS it has at least 64 octets (R234, R270). -/
def State.aqdFrame (s : State) (c : FlowCtx) (p : Pkt) : Frame :=
  let tag := if bit c.vlan 15 then some (bits c.vlan 14 12, bits c.vlan 11 0) else none
  let dst := beAt c.setup 48 6
  let src := s.fld F.MAC_FLT_ADDR 0 (16 * c.lp + c.smac)
  ⟨dst, src, tag, max 64 ((aqdWire dst src tag p).length + 4), true, true, .aqd p⟩

/-- A packet of context `i` with the header fields that the set-up record gives: DF set, identification 0, ECN 00, flow label
0 and TTL or hop limit 64 (R234, R236). -/
def State.aqdPkt (s : State) (i : Nat) (op flags psn aux ts rkey va reqid : Nat) (payload : List Byte) :
    Pkt :=
  let c := s.ctx i
  let dport := if leAt c.setup 8 2 = 0 then s.fld F.AQD_UDP_PORT 0 0 else leAt c.setup 8 2
  { v6 := c.v6, srcIp := c.localIp, dstIp := c.peerIp, dscp := c.dscp, ecn := 0, df := true, ident := 0, flow := 0,
    ttl := 64, sport := leAt c.setup 6 2,
    dport := dport, plain := true, csum := 1, udpLen := 56 + payload.length, ver := 0x10, op := op,
    flags := flags, part := leAt c.setup 12 1, dstCtx := c.peerCtx, srcCtx := i, psn := psn, aux := aux,
    ts := ts, rkey := rkey, len := payload.length, va := va, reqid := reqid, reserved := 0,
    payload := payload }

/-- Queue an ACK, NAK, PROBE or PROBE_REPLY of context `i`: never paced, ahead of the shaper (R261, R381). -/
def State.sendControl (s : State) (i : Nat) (p : Pkt) (slot : Option Nat) : State :=
  let c := s.ctx i
  s.enqueueTx c.lp ⟨64, some c.prio, .whole (s.aqdFrame c p), slot⟩

/-- Send an ACK: the highest settled PSN in a row, and the map of the 64 above it (R253). The map
is a big-endian field (R7). -/
def State.sendAck (s : State) (i : Nat) : State :=
  let c := s.ctx i
  let cum := (c.rcvNxt + 2 ^ 32 - 1) % 2 ^ 32
  let s := s.setCtx i { c with unacked := 0, rcvAcked := cum }
  s.sendControl i (s.aqdPkt i 4 0 0 cum c.newestTs 0 0 0 (toBe 8 (c.rcvMap % two64))) none

/-- Refuse a packet (R256, R262). -/
def State.sendNak (s : State) (i psn ts status : Nat) : State :=
  let c := s.ctx i
  let s := s.setCtx i { c with nakTx := (c.nakTx + 1) % 2 ^ 32 }
  let s := s.aqdErr 2 c.part i psn
  s.sendControl i (s.aqdPkt i 5 0 psn status ts 0 0 0 []) none

/-- Queue the transmission of a sequenced packet. -/
def State.queueSeq (s : State) (i psn : Nat) (retx : Bool) : State :=
  let c := s.ctx i
  s.enqueueTx c.lp ⟨c.part, some c.prio, .seq i psn retx, none⟩

/-- The next packet of an operation, if it has one: code, offset, length, last. -/
def AqdOp.nextCut (o : AqdOp) (mss : Nat) : Option (Nat × Nat × Nat × Bool) :=
  if o.ended || o.allCut then none
  else match o.kind with
    | 0 => let n := min mss (o.len - o.cut); some (1, o.cut, n, decide (o.len ≤ o.cut + n))
    | 1 => some (2, 0, 0, true)
    | _ => some (6, 0, o.len, true)

/-- The first operation with a packet to cut. -/
def FlowCtx.toCut (c : FlowCtx) : Option (AqdOp × Nat × Nat × Nat × Bool) :=
  c.ops.findSome? fun o => (o.nextCut c.mss).map fun x => (o, x)

/-- Give PSNs to the packets that the window allows, at most `n` of them; they take their tracker entries as they are sent
(R243, R251, R258). -/
def State.aqdFill (s : State) (i : Nat) : Nat → State
  | 0 => s
  | n + 1 =>
    let c := s.ctx i
    if c.state ≠ 2 then s else
    match c.toCut with
    | none => s
    | some (o, code, off, len, last) =>
      if 256 ≤ psnDiff c.sndNxt c.sndUna then s
      else
        let e : TxEnt := { psn := c.sndNxt, ref := o.id, code := code, off := off, len := len,
                           final := o.final && last, last := last, era := s.aqd.era }
        let o' := { o with cut := off + len, allCut := last }
        let ops := c.ops.map fun x => if x.id = o.id then o' else x
        let s := s.setCtx i { c with ops := ops, out := c.out ++ [e], sndNxt := (c.sndNxt + 1) % 2 ^ 32 }
        (s.queueSeq i e.psn false).aqdFill i n

/-- Complete an operation (R244, R262): its record, or word to its unit. -/
def State.aqdEnd (s : State) (env : Env) (i : Nat) (o : AqdOp) (status psn : Nat) : State :=
  let c := s.ctx i
  let s := s.setCtx i { c with ops := c.ops.filter fun x => x.id ≠ o.id }
  let s := if status = 6 then s.aqdErr 5 c.part i psn else s
  match o.src with
  | .ring t =>
    let s := if status = 1 then
        s.event c.part 0x0402 (toLe 2 i ++ toLe 4 o.rkey ++ toLe 4 psn ++ toLe 8 t.tag)
      else s
    s.complete env t 3 status i
  | .cascade => s
  | src => s.note (.mirror src status)

/-- Nothing that context `i` has queued is sent any more; a probe's or a reply's capture slot is freed (R240). -/
def State.dropTx (s : State) (i : Nat) : State :=
  let lp := (s.ctx i).lp
  let mine := fun (x : TxItem) => match x.what with
    | .seq j _ _ => decide (j = i)
    | .whole f => match f.body with
      | .aqd p => decide (p.srcCtx = i)
      | _ => false
  let gone := (s.lp lp).txq.filter mine
  let s := s.setLp lp { s.lp lp with txq := (s.lp lp).txq.filter fun x => !mine x }
  gone.foldl (fun s x => s.freeEgress lp x.slot) s

/-- The flow enters FAILED (R257). -/
def State.flowFail (s : State) (env : Env) (i cause : Nat) : State :=
  let c := s.ctx i
  if c.state ≠ 2 then s else
  let s := s.dropTx i
  let s := c.jobs.foldl (fun s j => s.rgeDown j.slot) s
  let s := (c.rx.filter fun r => !r.placed).foldl
    (fun s r => match r.slot with | some k => s.rgeDown k | none => s) s
  let c' := { c with state := 3, failCause := cause, out := [], jobs := [], rx := c.rx.filter (·.placed) }
  let s := s.setCtx i c'
  let s := c.ops.foldl (fun s o => s.aqdEnd env i o 7 c.sndUna) s
  let s := s.aqdErr 3 c.part i c.sndUna
  let s := s.event c.part 0x0403 (toLe 2 i ++ toLe 1 cause ++ toLe 4 c.sndUna ++ toLe 1 c.retries)
  s.note (.flowFailed c.part i ((c.ops.filter fun o => o.src = .cascade).map (·.data)))

/-- Post an operation to a context; its packets are cut as the window allows (R243). -/
def State.aqdPost (s : State) (i : Nat) (o : AqdOp) : State :=
  let c := s.ctx i
  let o := { o with id := s.aqd.nextOp }
  let s := s.withAqd fun a => { a with nextOp := (a.nextOp + 1) % 2 ^ 32 }
  (s.setCtx i { c with ops := c.ops ++ [o] }).aqdFill i 256

/-- Send one Cascade message over a context of partition `part`; one too long fails the flow (R242). -/
def State.sendCascade (s : State) (env : Env) (part i : Nat) (msg : List Byte) (slotted : Bool) : State :=
  let c := s.ctx i
  if c.state ≠ 2 ∨ c.part ≠ part then s
  else if c.room < msg.length then s.flowFail env i 1
  else s.aqdPost i { id := 0, kind := 2, final := false, len := msg.length, lva := 0, rva := 0, rkey := 0,
                     src := .cascade, data := msg, slotted := slotted }

/-- A descriptor's operation body is well formed and names a context of the partition (R244). -/
def State.aqoOk (s : State) (part : Nat) (b : List Byte) : Bool :=
  leAt b 0 1 < 2 && leAt b 1 1 < 2 && !(leAt b 0 1 = 1 && leAt b 1 1 = 1) && leAt b 2 2 < 40960
    && 1 ≤ leAt b 4 4 && leAt b 4 4 ≤ 0x40000000 && leAt b 28 4 = 0
    && (s.ctx (leAt b 2 2)).part = part && (s.ctx (leAt b 2 2)).state ≠ 0

/-- AQUEDUCT_POST: a posted WRITE or READ is queued, or completes at once (R240, R243, R244). -/
def State.aqdDispatch (s : State) (env : Env) (t : Ticket) (b : List Byte) : State :=
  let part := t.fn - 1
  let i := leAt b 2 2
  if !s.aqoOk part b then s.complete env t 3 9 i else
  match (s.ctx i).state with
  | 2 =>
    s.aqdPost i { id := 0, kind := leAt b 0 1, final := bit (leAt b 1 1) 0, len := leAt b 4 4,
                  lva := leAt b 8 8, rva := leAt b 16 8, rkey := leAt b 24 4, src := .ring t }
  | 3 => s.complete env t 3 7 i
  | _ => s.complete env t 3 9 i

/-! ### Flow commands -/

/-- Contexts of a partition, and those among them that came from the common rest (R238). -/
def State.ctxHeld (s : State) (part : Nat) : Nat :=
  (s.aqd.ctxs.filter fun e => e.2.state ≠ 0 && e.2.part = part).length

/-- Contexts taken from the common rest by anyone. -/
def State.commonHeld (s : State) : Nat := (s.aqd.ctxs.filter fun e => e.2.state ≠ 0 && e.2.common).length

/-- Contexts of the common rest that are free (R164, R238). -/
def State.commonFree (s : State) : Nat :=
  40960 - (s.pte.image.parts.map (·.aqd)).foldl (· + ·) 0 - s.commonHeld

/-- The lowest aligned run of `n` FREE contexts from `i` on, looking at `k` places. -/
def State.freeRun (s : State) (n i : Nat) : Nat → Option Nat
  | 0 => none
  | k + 1 =>
    if (upFrom i n).all fun j => (s.ctx j).state = 0 then some i else s.freeRun n (i + n) k

/-- A command may be given: the function is open, and its BUSY bit is clear; otherwise AQD_E_CMD (R263). -/
def State.flowReady (s : State) (vf : Nat) : Bool := vf ≠ 0 && s.fnOpen vf

/-- Set AQD_FLOW_STATUS. -/
def State.flowStatus (s : State) (vf v : Nat) : State := s.setFld F.AQD_FLOW_STATUS vf 0 v

/-- ALLOC (R238). -/
def doAlloc (vf run : Nat) (s : State) : State :=
  if !s.flowReady vf then s
  else if s.flag F.AQD_FLOW_BUSY vf 0 then s.aqdErr 0 (vf - 1) 0 0 else
  let part := vf - 1
  let s := s.setFld F.AQD_FLOW_RUN vf 0 run
  let n := 2 ^ (run % 4)
  let quota := (s.partRec part).aqd
  let held := (s.aqd.ctxs.filter fun e => e.2.state ≠ 0 && e.2.part = part && !e.2.common).length
  let own := min n (quota - held)
  let found := if n - own ≤ s.commonFree then s.freeRun n 0 (40960 / n) else none
  match found with
  | none =>
    let d := toLe 1 n ++ toLe 2 (s.ctxHeld part) ++ toLe 4 quota ++ toLe 2 s.commonFree
    (s.flowStatus vf 1).event part 0x0401 d
  | some i =>
    let s := (upFrom 0 n).foldl (fun s k =>
      s.setCtx (i + k) { state := 1, part := part, common := decide (own ≤ k) }) s
    (s.setFld F.AQD_FLOW_CTX vf 0 i).flowStatus vf 0

def execAlloc (vf run : Nat) (s : State) : Host.Outcome State Fault Refusal := done (doAlloc vf run s)

/-- CONNECT (R239, R240, R260, R402). -/
def doConnect (vf : Nat) (env : Env) (s : State) : State :=
  if !s.flowReady vf then s
  else if s.flag F.AQD_FLOW_BUSY vf 0 then s.aqdErr 0 (vf - 1) 0 0 else
  let part := vf - 1
  let i := s.fld F.AQD_FLOW_CTX vf 0
  let c := s.ctx i
  if c.state ≠ 1 ∨ c.part ≠ part then s.flowStatus vf 2 else
  match s.readVa env (aqdRq part) (s.fld F.AQD_FLOW_VA vf 0 * 64) 64 with
  | (s, .okay, r) =>
    if !s.setupOk r ∨ s.netShut part then s.flowStatus vf 4 else
    let isn := leAt r 54 4
    let irn := leAt r 58 4
    let s := s.setCtx i { c with
      setup := r, state := 2, rate := 1000 * s.fld F.AQD_CC_INIT (s.drive part) 0,
      rto := 1000 * max 1 (s.fld F.AQD_RTO (s.drive part) 0), sndNxt := isn, sndUna := isn,
      rcvNxt := irn, rcvAcked := (irn + 2 ^ 32 - 1) % 2 ^ 32 }
    s.flowStatus vf 0
  | (s, _, _) => s.flowStatus vf 3

def execConnect (vf : Nat) (env : Env) (s : State) : Host.Outcome State Fault Refusal :=
  done (doConnect vf env s)

/-- A closing context with nothing left to answer becomes FREE (R240), and with the partition's last one CLOSE is done. -/
def State.ctxFree (s : State) (i : Nat) : State :=
  let c := s.ctx i
  if c.state = 4 ∧ c.rx = [] then
    let s := s.setCtx i {}
    if s.aqd.ctxs.any fun e => e.2.state = 4 && e.2.part = c.part then s
    else s.setFld F.AQD_FLOW_BUSY (c.part + 1) 0 0
  else s

/-- Close a context: its operations complete ABORTED and its entries retire (R240). -/
def State.ctxClose (s : State) (env : Env) (i : Nat) : State :=
  let c := s.ctx i
  let s := s.dropTx i
  let s := c.jobs.foldl (fun s j => s.rgeDown j.slot) s
  let s := (c.rx.filter fun r => !r.placed).foldl
    (fun s r => match r.slot with | some k => s.rgeDown k | none => s) s
  let s := s.setCtx i { c with state := 4, out := [], jobs := [], rx := c.rx.filter (·.placed) }
  let s := c.ops.foldl (fun s o => s.aqdEnd env i o 8 c.sndUna) s
  s.ctxFree i

/-- CLOSE (R240); what it tells other units is settled by the command. -/
def State.closeCmd (s : State) (vf : Nat) (env : Env) : State :=
  if !s.flowReady vf then s
  else if s.flag F.AQD_FLOW_BUSY vf 0 then s.aqdErr 0 (vf - 1) 0 0 else
  let i := s.fld F.AQD_FLOW_CTX vf 0
  let c := s.ctx i
  if c.part ≠ vf - 1 ∨ c.state = 0 ∨ c.state = 4 then s.flowStatus vf 2 else
  ((s.flowStatus vf 0).setFld F.AQD_FLOW_BUSY vf 0 1).ctxClose env i

/-- The 256 bytes of QUERY (R241). -/
def ctxBytes (c : FlowCtx) : List Byte :=
  fit 64 c.setup ++ toLe 1 c.state ++ toLe 1 c.part ++ toLe 1 c.failCause ++ toLe 1 c.retries
    ++ toLe 4 c.rate ++ toLe 4 c.srtt ++ toLe 4 c.rto ++ toLe 4 c.sndNxt ++ toLe 4 c.sndUna
    ++ toLe 4 c.rcvNxt ++ toLe 4 c.rcvAcked ++ toLe 32 c.rcvMap ++ toLe 32 c.sndMap
    ++ toLe 8 c.txPkts ++ toLe 8 c.txBytes ++ toLe 8 c.rxPkts ++ toLe 8 c.rxBytes
    ++ toLe 4 c.retx ++ toLe 4 c.dup ++ toLe 4 c.nakTx ++ toLe 4 c.nakRx ++ toLe 4 c.samples
    ++ toLe 4 c.untimed ++ toLe 8 c.lastDec ++ toLe 4 c.ops.length ++ toLe 4 c.entries ++ zeros 24

/-- QUERY (R241). -/
def doQuery (vf : Nat) (env : Env) (s : State) : State :=
  if !s.flowReady vf then s
  else if s.flag F.AQD_FLOW_BUSY vf 0 then s.aqdErr 0 (vf - 1) 0 0 else
  let i := s.fld F.AQD_FLOW_CTX vf 0
  let c := s.ctx i
  if c.part ≠ vf - 1 ∨ c.state = 0 then s.flowStatus vf 2 else
  match s.writeVa env (aqdRq (vf - 1)) (s.fld F.AQD_FLOW_VA vf 0 * 64) (ctxBytes c) with
  | (s, .okay) => s.flowStatus vf 0
  | (s, _) => s.flowStatus vf 5

def execQuery (vf : Nat) (env : Env) (s : State) : Host.Outcome State Fault Refusal :=
  done (doQuery vf env s)

/-! ### Regions -/

/-- The table is enabled and initialised. -/
def State.rgnOn (s : State) : Bool := s.flag F.AQD_RGN_EN 0 0 && !s.flag F.AQD_RGN_INIT_BUSY 0 0

/-- The slot at the head of the free list (R248). -/
def State.rgnHead (s : State) : Option Nat :=
  if s.aqd.fresh < s.rgnSlots then some s.aqd.fresh else s.aqd.freed.head?

/-- Set AQD_RGN_STATUS. -/
def State.rgnStatus (s : State) (vf v : Nat) : State := s.setFld F.AQD_RGN_STATUS vf 0 v

/-- REGISTER (R248, R402). -/
def doRegister (vf perm : Nat) (s : State) : State :=
  if !s.flowReady vf then s
  else if s.flag F.AQD_RGN_BUSY vf 0 then s.aqdErr 0 (vf - 1) 0 0 else
  let s := s.setFld F.AQD_RGN_PERM vf 0 perm
  let va := s.fld F.AQD_RGN_VA vf 0 * 4096
  let len := s.fld F.AQD_RGN_LEN vf 0 * 4096
  if len < 4096 ∨ 2 ^ 48 < va + len ∨ s.netShut (vf - 1) then s.rgnStatus vf 3 else
  match (if s.rgnOn then s.rgnHead else none) with
  | none => s.rgnStatus vf 1
  | some k =>
    let r := s.rge k
    let s := s.withAqd fun a =>
      if k = a.fresh then { a with fresh := a.fresh + 1 } else { a with freed := a.freed.tail }
    let s := s.setRge k { r with state := 1, part := vf - 1, perm := perm % 4, va := va, len := len, inflight := 0 }
    (s.setFld F.AQD_RGN_KEY vf 0 (k * 256 + r.gen)).rgnStatus vf 0

def execRegister (vf perm : Nat) (s : State) : Host.Outcome State Fault Refusal :=
  done (doRegister vf perm s)

/-- The slot a key names for a partition (R249). -/
def State.keySlot (s : State) (part key : Nat) : Option Nat :=
  let r := s.rge (key / 256)
  if s.rgnOn && decide (key / 256 < s.rgnSlots) && r.gen = key % 256 && r.part = part && r.state ≠ 0 then
    some (key / 256)
  else none

/-- Begin the revocation of a slot: the era moves on (R249, R258). -/
def State.revokeSlot (s : State) (k : Nat) : State :=
  let s := s.setRge k { s.rge k with state := 2, era := s.aqd.era }
  s.withAqd fun a => { a with era := (a.era + 1) % 2 ^ 32 }

/-- REVOKE (R249). -/
def doRevoke (vf : Nat) (s : State) : State :=
  if !s.flowReady vf then s
  else if s.flag F.AQD_RGN_BUSY vf 0 then s.aqdErr 0 (vf - 1) 0 0 else
  match s.keySlot (vf - 1) (s.fld F.AQD_RGN_KEY vf 0) with
  | none => s.rgnStatus vf 2
  | some k =>
    if (s.rge k).state ≠ 1 then s.rgnStatus vf 2
    else (s.revokeSlot k).setFld F.AQD_RGN_BUSY vf 0 1

def execRevoke (vf : Nat) (s : State) : Host.Outcome State Fault Refusal := done (doRevoke vf s)

/-- REGION_QUERY: RGE_STATE of the key's slot (R263). -/
def doRegionQuery (vf : Nat) (s : State) : State :=
  if !s.flowReady vf then s
  else if s.flag F.AQD_RGN_BUSY vf 0 then s.aqdErr 0 (vf - 1) 0 0 else
  match s.keySlot (vf - 1) (s.fld F.AQD_RGN_KEY vf 0) with
  | none => s.rgnStatus vf 2
  | some k => (s.setFld F.AQD_RGN_STATE vf 0 (s.rge k).state).rgnStatus vf 0

def execRegionQuery (vf : Nat) (s : State) : Host.Outcome State Fault Refusal := done (doRegionQuery vf s)

/-- REGION_QUARANTINE: nothing is in flight under the region; REVOKE completes (R249). -/
def doRegionQuarantine (slot : Nat) (s : State) : State :=
  let r := s.rge slot
  if r.state = 2 ∧ r.inflight = 0 then
    let s := s.setRge slot { r with state := 3 }
    (s.setFld F.AQD_RGN_BUSY (r.part + 1) 0 0).rgnStatus (r.part + 1) 0
  else s

def execRegionQuarantine (slot : Nat) (s : State) : Host.Outcome State Fault Refusal :=
  done (doRegionQuarantine slot s)

/-- The slot at the tail of the free list (R248). -/
def State.rgnTail (s : State) : Option Nat :=
  match s.aqd.freed.getLast? with
  | some k => some k
  | none => if s.aqd.fresh < s.rgnSlots then some (s.rgnSlots - 1) else none

/-- REGION_FREE: every tracker entry of an era up to RGE_ERA has retired; the slot joins the tail of the free list, whose
RGE_NEXT names it (R248, R249). -/
def doRegionFree (slot : Nat) (s : State) : State :=
  let r := s.rge slot
  if r.state = 3 && !s.eraLive r.era then
    let s := match s.rgnTail with
      | some k => s.setRge k { s.rge k with next := some slot }
      | none => s
    let s := s.setRge slot { r with state := 0, gen := (r.gen + 1) % 256 }
    s.withAqd fun a => { a with freed := a.freed ++ [slot] }
  else s

def execRegionFree (slot : Nat) (s : State) : Host.Outcome State Fault Refusal := done (doRegionFree slot s)

/-- AQD_RGN_EN: a write of AQD_RGN_BASE; EN from 0 to 1 initialises the table (R247). -/
def doAqdRgnEn (value : Nat) (s : State) : State :=
  let was := s.flag F.AQD_RGN_EN 0 0
  let s := s.setFld F.AQD_RGN_DPA 0 0 (bits value 41 12)
  let s := s.setFld F.AQD_RGN_EN 0 0 (bits value 0 0)
  if bit value 0 && !was then
    (s.withAqd fun a => { a with regions := [], fresh := 0, freed := [] }).setFld F.AQD_RGN_INIT_BUSY 0 0 1
  else s

def execAqdRgnEn (value : Nat) (s : State) : Host.Outcome State Fault Refusal := done (doAqdRgnEn value s)

/-- REGION_TABLE_INIT_DONE: every entry stands in memory, FREE with generation 0 and linked in ascending order (R247). -/
def doRegionTableInitDone (s : State) : State :=
  if !s.flag F.AQD_RGN_INIT_BUSY 0 0 then s else
  ((upFrom 0 s.rgnSlots).foldl (fun s k => s.putRge k {}) s).setFld F.AQD_RGN_INIT_BUSY 0 0 0

def execRegionTableInitDone (s : State) : Host.Outcome State Fault Refusal := done (doRegionTableInitDone s)

end Sys2Proof.Machine
end

