-- ==== Sys2Proof/Machine/Float.lean ====
section
/-! DEFINITION. The IEEE formats and their arithmetic: exact values, rounding to nearest even, fused
multiply-add, division, square root, and the stochastic addition of an accumulator (R26 to R31, R49). -/

namespace Sys2Proof.Machine

/-- An exact value of a unit of the device: a NaN, an infinity, or (-1)^neg × m × 2^e, zero keeping its
sign (R27). -/
inductive Val where
  | nan
  | inf (neg : Bool)
  | fin (neg : Bool) (m : Nat) (e : Int)
  deriving DecidableEq, Repr

/-- An IEEE format: precision, exponent of the smallest subnormal, the bits of +infinity, the canonical
NaN (R29), and its width. -/
structure Ieee where
  p : Nat
  qmin : Int
  infBits : Nat
  nanBits : Nat
  width : Nat
  deriving DecidableEq, Repr

/-- FP32 (R27, R29). -/
def fp32 : Ieee := ⟨24, -149, 0x7F800000, 0x7FC00000, 32⟩

/-- BF16 (R27, R29). -/
def bf16 : Ieee := ⟨8, -133, 0x7F80, 0x7FC0, 16⟩

/-- FP16 (R27, R29). -/
def fp16 : Ieee := ⟨11, -24, 0x7C00, 0x7E00, 16⟩

/-- Number of bits of `n`: 0 for 0. -/
def bitLen (n : Nat) : Nat := if n = 0 then 0 else n.log2 + 1

/-- `m / 2^k` rounded to the nearest integer, ties to even. -/
def halfEven (m k : Nat) : Nat :=
  let q := m >>> k
  let r := m - (q <<< k)
  if 2 ^ k < 2 * r ∨ (2 * r = 2 ^ k ∧ q % 2 = 1) then q + 1 else q

/-- The value of a bit pattern. -/
def Ieee.toVal (f : Ieee) (w : Nat) : Val :=
  let neg := bit w (f.width - 1)
  let mag := w % 2 ^ (f.width - 1)
  if f.infBits < mag then .nan
  else if mag = f.infBits then .inf neg
  else
    let e := mag >>> (f.p - 1)
    if e = 0 then .fin neg mag f.qmin
    else .fin neg (mag % 2 ^ (f.p - 1) + 2 ^ (f.p - 1)) (f.qmin + (e : Int) - 1)

/-- The magnitude bits of m × 2^e rounded to nearest, ties to even; an overflow is +infinity (R28). -/
def Ieee.roundMag (f : Ieee) (m : Nat) (e : Int) : Nat :=
  if m = 0 then 0 else
  let q := max (e + bitLen m - f.p) f.qmin
  let n := if q ≤ e then m <<< (e - q).toNat else halfEven m (q - e).toNat
  let w := ((q - f.qmin).toNat <<< (f.p - 1)) + n
  if f.infBits ≤ w then f.infBits else w

/-- The bit pattern of a value under R28 and R29. -/
def Ieee.ofVal (f : Ieee) : Val → Nat
  | .nan => f.nanBits
  | .inf neg => f.infBits + at_ (f.width - 1) (b2n neg)
  | .fin neg m e => f.roundMag m e + at_ (f.width - 1) (b2n neg)

/-- A NaN, an infinity or a finite value. -/
def Val.isFin : Val → Bool
  | .fin _ _ _ => true
  | _ => false

/-- The sign; a NaN counts as positive. -/
def Val.neg : Val → Bool
  | .nan => false
  | .inf n => n
  | .fin n _ _ => n

/-- ±0. -/
def Val.isZero : Val → Bool
  | .fin _ m _ => m = 0
  | _ => false

/-- The negation. -/
def Val.negate : Val → Val
  | .nan => .nan
  | .inf n => .inf (!n)
  | .fin n m e => .fin (!n) m e

/-- The magnitude. -/
def Val.abs : Val → Val
  | .nan => .nan
  | .inf _ => .inf false
  | .fin _ m e => .fin false m e

/-- +0. -/
def Val.zero : Val := .fin false 0 0

/-- Sign and magnitude as an integer. -/
def sgnInt (neg : Bool) (m : Nat) : Int := if neg then -(m : Int) else (m : Int)

/-- The exact sum; an exact zero is −0 only when both terms are negative zeros (R28, R55). -/
def Val.add : Val → Val → Val
  | .nan, _ => .nan
  | _, .nan => .nan
  | .inf a, .inf b => if a = b then .inf a else .nan
  | .inf a, .fin _ _ _ => .inf a
  | .fin _ _ _, .inf b => .inf b
  | .fin a m e, .fin b n g =>
    let q := min e g
    let x := sgnInt a (m <<< (e - q).toNat) + sgnInt b (n <<< (g - q).toNat)
    if x = 0 then .fin (a && b && m = 0 && n = 0) 0 0 else .fin (decide (x < 0)) x.natAbs q

/-- The exact difference. -/
def Val.sub (a b : Val) : Val := a.add b.negate

/-- The exact product. -/
def Val.mul : Val → Val → Val
  | .nan, _ => .nan
  | _, .nan => .nan
  | .inf a, .inf b => .inf (a != b)
  | .inf a, .fin b n _ => if n = 0 then .nan else .inf (a != b)
  | .fin a m _, .inf b => if m = 0 then .nan else .inf (a != b)
  | .fin a m e, .fin b n g => .fin (a != b) (m * n) (e + g)

/-- The quotient carried to 64 bits beyond every format, with a sticky bit, so that one rounding of it is
the rounding of the exact quotient. -/
def Val.div : Val → Val → Val
  | .nan, _ => .nan
  | _, .nan => .nan
  | .inf _, .inf _ => .nan
  | .inf a, .fin b _ _ => .inf (a != b)
  | .fin a _ _, .inf b => .fin (a != b) 0 0
  | .fin a m e, .fin b n g =>
    if n = 0 then (if m = 0 then .nan else .inf (a != b))
    else
      let k := 64 + bitLen n
      let x := (m <<< k) / n
      let r := (m <<< k) % n
      .fin (a != b) (2 * x + b2n (decide (r ≠ 0))) (e - g - k - 1)

/-- One step of the integer square root, from the high bit down. -/
def isqrtFrom (n : Nat) : Nat → Nat → Nat
  | 0, r => r
  | k + 1, r => if (r + 2 ^ k) * (r + 2 ^ k) ≤ n then isqrtFrom n k (r + 2 ^ k) else isqrtFrom n k r

/-- The integer square root. -/
def isqrt (n : Nat) : Nat := isqrtFrom n (bitLen n / 2 + 1) 0

/-- The square root carried with a sticky bit, so that one rounding of it is the rounding of the exact
root; negative values give NaN and −0 gives −0. -/
def Val.sqrt : Val → Val
  | .nan => .nan
  | .inf neg => if neg then .nan else .inf false
  | .fin neg m e =>
    if m = 0 then .fin neg 0 0
    else if neg then .nan
    else
      let k := 128 + (e % 2).toNat
      let x := m <<< k
      let r := isqrt x
      .fin false (2 * r + b2n (decide (r * r ≠ x))) ((e - k) / 2 - 1)

/-- `a < b` for values that are not NaN. -/
def Val.lt (a b : Val) : Bool :=
  match a, b with
  | .inf x, .inf y => x && !y
  | .inf x, _ => x
  | _, .inf y => !y
  | a, b =>
    match a.sub b with
    | .fin n m _ => n && m ≠ 0
    | _ => false

/-- floor(log2) of a positive magnitude. -/
def floorLog2 (m : Nat) (e : Int) : Int := (m.log2 : Int) + e

/-! ### FP32 arithmetic on bit patterns -/

/-- The value of FP32 bits. -/
def fv (w : Nat) : Val := fp32.toVal w

/-- FP32 addition (R28). -/
def fadd (a b : Nat) : Nat := fp32.ofVal ((fv a).add (fv b))

/-- FP32 subtraction (R28). -/
def fsub (a b : Nat) : Nat := fp32.ofVal ((fv a).sub (fv b))

/-- FP32 multiplication (R28). -/
def fmul (a b : Nat) : Nat := fp32.ofVal ((fv a).mul (fv b))

/-- FP32 fused multiply-add: a × b + c with one rounding (R28). -/
def fma32 (a b c : Nat) : Nat := fp32.ofVal (((fv a).mul (fv b)).add (fv c))

/-- FP32 division (R28). -/
def fdiv (a b : Nat) : Nat := fp32.ofVal ((fv a).div (fv b))

/-- FP32 square root (R28). -/
def fsqrt (a : Nat) : Nat := fp32.ofVal (fv a).sqrt

/-- FP32 negation of a result that is not a NaN. -/
def fneg (a : Nat) : Nat := fp32.ofVal (fv a).negate

/-- IEEE 754 maximum, in which NaN propagates and +0 lies above −0 (R117). -/
def fmaximum (a b : Nat) : Nat :=
  match fv a, fv b with
  | .nan, _ => fp32.nanBits
  | _, .nan => fp32.nanBits
  | x, y =>
    if x.lt y then b else if y.lt x then a
    else if x.neg then b else a

/-- FP32 is finite. -/
def ffin (a : Nat) : Bool := (fv a).isFin

/-- Bits of FP32 −infinity. -/
def fNegInf : Nat := 0xFF800000

/-- Bits of FP32 1.0. -/
def fOne : Nat := 0x3F800000

/-- FP32 narrowed to a storage format of R30: 0 FP32, 1 BF16, 2 FP16. -/
def narrow (fmt w : Nat) : Nat :=
  if fmt = 1 then bf16.ofVal (fv w) else if fmt = 2 then fp16.ofVal (fv w) else w

/-- A storage format widened to FP32 (R30). -/
def widen (fmt w : Nat) : Nat :=
  if fmt = 1 then fp32.ofVal (bf16.toVal w) else if fmt = 2 then fp32.ofVal (fp16.toVal w) else w

/-- Element size in bytes of FP32, BF16 and FP16; of a plane of split FP32; of an NB8 code (R26). -/
def fmtSize (fmt : Nat) : Nat := if fmt = 0 then 4 else if fmt ≤ 3 then 2 else 1

/-! ### Stochastic rounding (R49, R50) -/

/-- One draw of the xorshift generator: the new state and the value. -/
def srDraw (x : Nat) : Nat × Nat :=
  let x := (x ^^^ (x <<< 13)) % two64
  let x := x ^^^ (x >>> 7)
  let x := (x ^^^ (x <<< 17)) % two64
  (x, x >>> 48)

/-- The largest FP32 magnitude not above m × 2^e. -/
def truncMag (m : Nat) (e : Int) : Nat :=
  if m = 0 then 0 else
  let q := max (e + bitLen m - 24) (-149)
  let n := if q ≤ e then m <<< (e - q).toNat else m >>> (q - e).toNat
  ((q + 149).toNat <<< 23) + n

/-- The first 16 bits below the ulp that truncation of m × 2^e discards. -/
def truncFrac (m : Nat) (e : Int) : Nat :=
  let q := max (e + bitLen m - 24) (-149)
  if q ≤ e then 0 else
  let k := (q - e).toNat
  ((m % 2 ^ k) * 65536) >>> k

/-- sr_add of R49 with the value already drawn. -/
def srAdd (p : Nat) (t : Val) (u : Nat) : Nat :=
  if !ffin p || !t.isFin then fp32.ofVal ((fv p).add t) else
  match (fv p).add t with
  | .fin neg m e =>
    if m = 0 then fp32.ofVal (.fin neg 0 0) else
    let s := at_ 31 (b2n neg)
    if 128 ≤ floorLog2 m e then 0x7F800000 + s
    else if u < truncFrac m e then truncMag m e + 1 + s
    else truncMag m e + s
  | v => fp32.ofVal v

end Sys2Proof.Machine
end

