-- ==== Sys2Proof/Machine/Nb8.lean ====
section
/-! DEFINITION. NB8 and the 8-bit moment format: element values, quantisation and dequantisation of a
16 × 16 block, and the transpose of a scale entry (R32 to R45). -/

namespace Sys2Proof.Machine

/-- An element encoding (R36). -/
structure ElemFmt where
  ebits : Nat
  mbits : Nat
  bias : Int
  signed : Bool
  deriving DecidableEq, Repr

/-- The encoding that a format code names (R26, R36): 4 NB8-A, 5 NB8-G, 6 NB8-M1, 7 NB8-M2. -/
def elemFmt (code : Nat) : ElemFmt :=
  if code = 4 then ⟨3, 4, 7, true⟩ else if code = 7 then ⟨5, 3, 31, false⟩ else ⟨4, 3, 15, true⟩

/-- The code names an NB8 format that the grid computes on (R54). -/
def isNb8 (fmt : Nat) : Bool := fmt = 4 || fmt = 5

/-- Number of magnitude bits of a code. -/
def ElemFmt.magBits (f : ElemFmt) : Nat := f.ebits + f.mbits

/-- The largest magnitude code. -/
def ElemFmt.maxCode (f : ElemFmt) : Nat := 2 ^ f.magBits - 1

/-- The value of an element code, before its scale (R36). -/
def ElemFmt.value (f : ElemFmt) (code : Nat) : Val :=
  let neg := f.signed && bit code 7
  let mag := code % 2 ^ f.magBits
  let e := mag >>> f.mbits
  let m := mag % 2 ^ f.mbits
  if e = 0 then .fin neg m (1 - f.bias - f.mbits)
  else .fin neg (m + 2 ^ f.mbits) ((e : Int) - f.bias - f.mbits)

/-- round_elem of R41: the code of a value, and whether it saturated. -/
def ElemFmt.round (f : ElemFmt) (v : Val) : Nat × Bool :=
  match v with
  | .fin neg m e =>
    if !f.signed && neg then (0, false) else
    let s := if neg then 0x80 else 0
    if m = 0 then (s, false) else
    let qmin : Int := 1 - f.bias - f.mbits
    let q := max (e + bitLen m - 1 - f.mbits) qmin
    let n := if q ≤ e then m <<< (e - q).toNat else halfEven m (q - e).toNat
    let c := ((q - qmin).toNat <<< f.mbits) + n
    if f.maxCode < c then (s + f.maxCode, true) else (s + c, false)
  | _ => (0, false)

/-- A quantised block: its 256 codes, its scale entry of 8 bytes, and the counts of R43. -/
structure Quant where
  codes : List Nat
  entry : List Byte
  sat : Nat
  flush : Nat
  deriving DecidableEq, Repr

/-- A scale entry (R34). -/
def scaleEntry (x word : Nat) : List Byte := toLe 1 x ++ toLe 4 word ++ zeros 3

/-- The larger of two magnitudes given as FP32 bits without sign: the bits compare as the values do. -/
def maxMag (l : List Nat) : Nat := l.foldl (fun a w => max a (w % 2 ^ 31)) 0

/-- floor(log2) of a positive finite FP32 magnitude. -/
def log2Mag (w : Nat) : Int :=
  match fv w with
  | .fin _ m e => floorLog2 m e
  | _ => 0

/-- The indices of sub-block `n` = 4r + c in a row-major block (R35). -/
def subIdx (n : Nat) : List Nat :=
  (upFrom 0 16).map fun k => 16 * (4 * (n / 4) + k / 4) + 4 * (n % 4) + k % 4

/-- The sub-block of index `k` in a row-major block (R35). -/
def subOf (k : Nat) : Nat := 4 * (k / 16 / 4) + k % 16 / 4

/-- The micro-shift of sub-block `n` in a shift word (R35). -/
def shiftOf (word n : Nat) : Nat := bits word (2 * n + 1) (2 * n)

/-- quantise of R41 on 256 FP32 bit patterns, row-major. A ceiling of 0xFF reads as 0xFE (R42). -/
def quantise (f : ElemFmt) (ceil : Nat) (x : List Nat) : Quant :=
  let ceil := min ceil 0xFE
  let mags := x.map (· % 2 ^ 31)
  let nan := mags.any (0x7F800000 < ·)
  let pinf := x.any (· = 0x7F800000)
  let ninf := x.any (· = 0xFF800000)
  if nan || pinf || ninf then
    let kind := if nan || (pinf && ninf) then 3 else if pinf then 1 else 2
    ⟨List.replicate 256 0, scaleEntry 0xFF kind, 0, 0⟩
  else
    let amax := maxMag x
    if amax = 0 then ⟨x.map fun w => (f.round (fv w)).1, scaleEntry 0 0, 0, 0⟩
    else
      let xx : Int := max 0 (min (log2Mag amax + 127) ceil)
      let sh := (upFrom 0 16).map fun n =>
        let aj := maxMag ((subIdx n).map fun k => x.getD k 0)
        if aj = 0 then 0 else (max 0 (min 3 (xx - 127 - log2Mag aj))).toNat
      let word := (upFrom 0 16).foldl (fun a n => a + at_ (2 * n) (sh.getD n 0)) 0
      let rs := (upFrom 0 256).map fun k =>
        f.round ((fv (x.getD k 0)).mul (.fin false 1 (127 + (sh.getD (subOf k) 0 : Nat) - xx)))
      let flush := ((upFrom 0 256).filter fun k =>
        mags.getD k 0 ≠ 0 && (rs.getD k (0, false)).1 % 2 ^ f.magBits = 0).length
      ⟨rs.map (·.1), scaleEntry xx.toNat word, (rs.filter (·.2)).length, flush⟩

/-- What the elements of a non-finite block count as (R38, R39). -/
def kindVal (word : Nat) : Val := if word = 1 then .inf false else if word = 2 then .inf true else .nan

/-- The value of an element from its code and its block's scale entry, with `n` its sub-block (R37, R39). -/
def nb8Val (f : ElemFmt) (code : Nat) (entry : List Byte) (n : Nat) : Val :=
  let x := leAt entry 0 1
  let word := leAt entry 1 4
  if x = 0xFF then kindVal word
  else (f.value code).mul (.fin false 1 ((x : Int) - 127 - shiftOf word n))

/-- dequantise of R44: the FP32 bits of element `k` of a row-major block. -/
def dequantise (f : ElemFmt) (code : Nat) (entry : List Byte) (k : Nat) : Nat :=
  fp32.ofVal (nb8Val f code entry (subOf k))

/-- The scale entry of the transposed block (R40). -/
def transposeEntry (entry : List Byte) : List Byte :=
  let x := leAt entry 0 1
  let word := leAt entry 1 4
  if x = 0xFF then scaleEntry x word
  else scaleEntry x ((upFrom 0 16).foldl
    (fun a n => a + at_ (2 * n) (shiftOf word (4 * (n % 4) + n / 4))) 0)

/-- A row-major block transposed (R40). -/
def transposeBlock {α : Type} (d : α) (x : List α) : List α :=
  (upFrom 0 256).map fun k => x.getD (16 * (k % 16) + k / 16) d

end Sys2Proof.Machine
end

