-- ==== Sys2Proof/Machine/Operands.lean ====
section
/-! DEFINITION. The operand forms that commands carry as bytes: the tile-operation descriptor and its
regions (R67 to R69, R116). -/

namespace Sys2Proof.Machine

/-- A region of operand SRAM (R58). -/
structure Region where
  base : Nat
  pitch : Nat
  sbase : Nat
  spitch : Nat
  deriving DecidableEq, Repr

/-- The region at offset `o` of a descriptor. -/
def regionAt (d : List Byte) (o : Nat) : Region := ⟨leAt d o 2, leAt d (o + 2) 2, leAt d (o + 4) 2, leAt d (o + 6) 2⟩

/-- A tile-operation descriptor as its fields (R67, R68). -/
structure Td where
  op : Nat
  start : Bool
  finish : Bool
  aTrans : Bool
  bTrans : Bool
  segEnd : Bool
  save : Bool
  long : Bool
  slot : Nat
  geom : Nat
  cell : Nat
  afmt : Nat
  bfmt : Nat
  ofmt : Nat
  sfmt : Nat
  k : Nat
  step : Nat
  tensor : Nat
  ceil : Nat
  ew : Nat
  bcast : Nat
  efmt : Nat
  a : Region
  b : Region
  e : Region
  pair : Nat
  func : Nat
  rows : Nat
  cols : Nat
  outVa : Nat
  outSva : Nat
  outPitch : Nat
  outSpitch : Nat
  saveVa : Nat
  savePitch : Nat
  wmask : Nat
  qpos : Nat
  kpos : Nat
  mask : Nat
  rot : Nat
  tag : Nat
  deriving DecidableEq, Repr

/-- The descriptor that 128 bytes hold (R67). -/
def tdOf (d : List Byte) : Td :=
  let fl := leAt d 1 1
  let sl := leAt d 2 1
  let att := leAt d 96 8
  { op := leAt d 0 1, start := bit fl 0, finish := bit fl 1, aTrans := bit fl 2, bTrans := bit fl 3,
    segEnd := bit fl 4, save := bit fl 5, long := bit fl 6, slot := bits sl 2 0, geom := bits sl 5 3,
    cell := bits (leAt d 3 1) 5 0, afmt := bits (leAt d 4 1) 3 0, bfmt := bits (leAt d 4 1) 7 4,
    ofmt := bits (leAt d 5 1) 3 0, sfmt := bits (leAt d 5 1) 7 4, k := leAt d 6 2, step := leAt d 8 4,
    tensor := leAt d 12 2, ceil := leAt d 14 1, ew := bits (leAt d 15 1) 1 0,
    bcast := bits (leAt d 15 1) 3 2, efmt := bits (leAt d 15 1) 7 4, a := regionAt d 16,
    b := regionAt d 24, e := regionAt d 32, pair := bits (leAt d 40 1) 1 0, func := bits (leAt d 40 1) 3 2,
    rows := leAt d 42 2, cols := leAt d 44 2, outVa := leAt d 48 8, outSva := leAt d 56 8,
    outPitch := leAt d 64 4, outSpitch := leAt d 68 4, saveVa := leAt d 72 8, savePitch := leAt d 80 4,
    wmask := leAt d 88 8, qpos := bits att 19 0, kpos := bits att 39 20, mask := bits att 41 40,
    rot := bits att 43 42, tag := leAt d 104 8 }

/-- ATT_OP of an ATT_RESCALE (R116). -/
def Td.attOp (t : Td) : Nat := bits t.k 5 4

/-- The O slot of an ATT_RESCALE (R116). -/
def Td.oSlot (t : Td) : Nat := bits t.k 2 0

/-- CEL_TD_ATT[43:0] is zero. -/
def Td.attZero (t : Td) : Bool := t.qpos = 0 && t.kpos = 0 && t.mask = 0 && t.rot = 0

/-- The operation runs the output path (R69, R78, R100). -/
def Td.outputs (t : Td) : Bool :=
  (t.op = 1 && t.finish) || t.op = 2 || (t.op = 7 && t.finish) || t.op = 8

/-- The output path of the operation reads E (R78). -/
def Td.readsE (t : Td) : Bool := t.outputs && t.op ≠ 8 && (t.ew ≠ 0 || t.func = 2)

/-- Lines of one 16 × 16 tile of a format (R58). -/
def tileLines (fmt : Nat) : Nat := if fmt = 0 then 8 else if fmt = 1 then 4 else 2

/-- Rows and columns of the logical tile in cells (R70). -/
def geomDims (g : Nat) : Nat × Nat :=
  if g = 0 then (1, 1) else if g = 1 then (4, 4) else if g = 2 then (1, 16)
  else if g = 3 then (4, 16) else (2, 32)

/-! ### Queue descriptors (R307, R309) -/

/-- The stamp of a descriptor. -/
def qdStamp (d : List Byte) : Nat := leAt d 0 2

end Sys2Proof.Machine
end

