-- ==== Sys2Proof/Machine/Rom.lean ====
section
/-! DEFINITION. The rotation tables ROM_C and ROM_S of R115: cos and sin of k/1024 of a turn, each rounded to
FP32, computed from the power series on integers scaled by 2^128. -/

namespace Sys2Proof.Machine

/-- π × 2^128, truncated. -/
def piFix : Nat := 0x3243F6A8885A308D313198A2E03707344

/-- Terms of a power series from term `t`, each the last times x² over n (n + 1), signs alternating. -/
def series (xx : Nat) : Nat → Nat → Nat → Int
  | 0, _, _ => 0
  | fuel + 1, n, t => (t : Int) - series xx fuel (n + 2) (((t * xx) >>> 128) / (n * (n + 1)))

/-- sin (2πk/1024) × 2^128 for k below 256. -/
def sinFix (k : Nat) : Nat :=
  let x := piFix * k / 512
  (series ((x * x) >>> 128) 40 2 x).toNat

/-- cos (2πk/1024) × 2^128 for k below 256, from the sine of the complement. -/
def cosFix (k : Nat) : Nat := if k = 0 then 2 ^ 128 else sinFix (256 - k)

/-- Sine of k/1024 of a turn as FP32: exact at the quadrants, rounded to nearest elsewhere. -/
def romS (k : Nat) : Nat :=
  let q := k / 256 % 4
  let r := k % 256
  let m := if q % 2 = 0 then (if r = 0 then 0 else sinFix r) else cosFix r
  fp32.ofVal (.fin (decide (2 ≤ q) && decide (m ≠ 0)) m (-128))

/-- Cosine of k/1024 of a turn as FP32. -/
def romC (k : Nat) : Nat := romS (k + 256)

end Sys2Proof.Machine
end

