-- ==== Sys2Proof/Machine/Cells.lean ====
section
/-! DEFINITION. The cell: operand SRAM, accumulator memory, slots, generator contexts, the turning path with
rotary positions, one grid pass, and the check array of the Tile Agreement Monitor (spec/03 R54 to R66,
spec/04 R112 to R115, spec/05 R134 to R138). -/

namespace Sys2Proof.Machine

/-! ### Storage -/

/-- The ownership tag of a partition's share: 1 + partition, plus 64 for a Backfill guest's (R406). -/
def ownTag (part : Nat) (guest : Bool) : Nat := 1 + part + 64 * b2n guest

/-- Update the cells. -/
def State.withCell (s : State) (f : CellSt → CellSt) : State := { s with cell := f s.cell }

/-- A byte of operand SRAM as the holder of `tag` reads it: zero in a line it does not hold (R57, R406). -/
def State.sramByte (s : State) (tag c a : Nat) : Byte :=
  if sget 0 s.cell.sramOwn (1536 * c + a / 128) = tag then sget 0 s.cell.sram (196608 * c + a) else 0

/-- A run of bytes of operand SRAM. -/
def State.sramRun (s : State) (tag c a n : Nat) : List Byte := (upFrom a n).map (s.sramByte tag c)

/-- A line comes into the hands of `tag`; it is zeroed when it was not (R406). -/
def State.sramClaim (s : State) (tag c line : Nat) : State :=
  if sget 0 s.cell.sramOwn (1536 * c + line) = tag then s else
  s.withCell fun x => { x with
    sram := sputRun 0 x.sram (196608 * c + 128 * line) (zeros 128),
    sramOwn := sput 0 x.sramOwn (1536 * c + line) tag }

/-- Write bytes of operand SRAM at byte address `a` of cell `c`. -/
def State.sramPut (s : State) (tag c a : Nat) (d : List Byte) : State :=
  let s := (upFrom (a / 128) ((a + d.length - 1) / 128 + 1 - a / 128)).foldl (fun s l => s.sramClaim tag c l) s
  s.withCell fun x => { x with sram := sputRun 0 x.sram (196608 * c + a) d }

/-- Row `i` of a slot of a cell, as a row number of the accumulator memories of all cells (R62). -/
def accRow (c slot i : Nat) : Nat := 64 * (8 * c + slot) + i

/-- A partial as the holder of `tag` reads it (R62, R406). -/
def State.accGet (s : State) (tag c slot i j : Nat) : Nat :=
  if sget 0 s.cell.accOwn (accRow c slot i) = tag then sget 0 s.cell.acc (32 * accRow c slot i + j) else 0

/-- Write a row of a slot whole. -/
def State.accPutRow (s : State) (tag c slot i : Nat) (l : List Nat) : State :=
  s.withCell fun x => { x with acc := sputRun 0 x.acc (32 * accRow c slot i) l,
                               accOwn := sput 0 x.accOwn (accRow c slot i) tag }

/-- Write one partial; the rest of a row that was not the holder's becomes +0 (R406). -/
def State.accPut (s : State) (tag c slot i j v : Nat) : State :=
  s.accPutRow tag c slot i ((upFrom 0 32).map fun k => if k = j then v else s.accGet tag c slot i k)

/-- Write all 2048 partials of a slot, row-major. -/
def State.accPutAll (s : State) (tag c slot : Nat) (l : List Nat) : State :=
  (upFrom 0 64).foldl (fun s i => s.accPutRow tag c slot i ((upFrom 0 32).map fun j => l.getD (32 * i + j) 0)) s

/-- The 2048 partials of a slot, row-major. -/
def State.accAll (s : State) (tag c slot : Nat) : List Nat :=
  (upFrom 0 2048).map fun k => s.accGet tag c slot (k / 32) (k % 32)

/-- A slot beside its partials. -/
def State.slotSt (s : State) (c slot : Nat) : SlotSt := sget {} s.cell.slots (8 * c + slot)

/-- Store it. -/
def State.setSlotSt (s : State) (c slot : Nat) (x : SlotSt) : State :=
  s.withCell fun y => { y with slots := sput {} y.slots (8 * c + slot) x }

/-- Set a slot to +0 with a pass count of zero and a clear overflow flag (R68). -/
def State.clearSlot (s : State) (tag c slot : Nat) : State :=
  (s.accPutAll tag c slot []).setSlotSt c slot { s.slotSt c slot with count := 0, ovf := none }

/-- Record an overflow at logical position `(r, k)`, unless one is recorded (R63). -/
def State.setOvf (s : State) (c slot r k : Nat) : State :=
  let x := s.slotSt c slot
  if x.ovf = none then s.setSlotSt c slot { x with ovf := some (r, k) } else s

/-- The table pair of a cell. -/
def State.pairOf (s : State) (c i : Nat) : Option TablePair := sget none s.cell.pairs (4 * c + i)

/-- The pool's Backfill guest is assigned. -/
def State.guested (s : State) (p : Nat) : Bool := (s.guest p).isSome

/-- Number of operand lines the issuer may address in pool `p` (R60). -/
def State.lineLimit (s : State) (p : Nat) (guest : Bool) : Nat :=
  if guest then 384 else if s.guested p then 1152 else 1536

/-- What the cell adds to a guest's lines (R60). -/
def lineBase (guest : Bool) : Nat := if guest then 1152 else 0

/-- The slot that an issuer's slot number names (R72). -/
def physSlot (guest : Bool) (slot : Nat) : Nat := if guest then slot + 5 else slot

/-! ### Engines and groups -/

/-- First cell and number of cells of the engine of pool `p` (R70). -/
def State.engine (s : State) (p : Nat) : Nat × Nat := if s.composed (p / 4) then (64 * (p / 4), 64) else (16 * p, 16)

/-- A cell of a group with its position (R70). -/
structure Pos where
  c : Nat
  u : Nat
  v : Nat
  deriving DecidableEq, Repr

/-- The cell group of an operation, in ascending index; none when it cannot be formed (R70, R72). -/
def State.group (s : State) (p : Nat) (t : Td) : Option (List Pos) :=
  let base := (s.engine p).1
  let n := (s.engine p).2
  if t.geom = 0 then (if t.cell < n then some [⟨base + t.cell, 0, 0⟩] else none)
  else if (n = 16 && (t.geom = 1 || t.geom = 2)) || (n = 64 && (t.geom = 3 || t.geom = 4)) then
    let gc := (geomDims t.geom).2
    some ((upFrom 0 n).map fun m => ⟨base + m, m / gc, m % gc⟩)
  else none

/-! ### SRAM errors -/

/-- The words of operand SRAM that `n` bytes from byte address `a` take. -/
def byteSites (c a n : Nat) : List Site :=
  (upFrom (a / 8) ((a + n - 1) / 8 + 1 - a / 8)).map fun w => .operand c (w / 16) (w % 16)

/-- The words of a row of a slot. -/
def rowSites (c slot i : Nat) : List Site := (upFrom 0 16).map (Site.partials c (64 * slot + i))

/-- The word of scale entry `e` (R57). -/
def entrySite (c base e : Nat) : Site := .operand c (base + e / 16) (e % 16)

/-- The words that block `(i, j)` of a region takes, with its scale entry's (R57, R58). -/
def blockSites (c base fmt : Nat) (r : Region) (i j : Nat) : List Site :=
  let n := tileLines fmt
  byteSites c (128 * (base + r.base + i * r.pitch + j * n)) (128 * n)
    ++ (if isNb8 fmt then [entrySite c base (r.sbase + i * r.spitch + j)] else [])

/-- A block of an operand as it is stored: turned operands read block `(j, i)` (R61). -/
def turned (trans : Bool) (i j : Nat) : Nat × Nat := if trans then (j, i) else (i, j)

/-- The words that pass `k` reads in cell `c` (R54, R58, R62). Where the command's START has just written the slot's rows with
fresh check bits (`fresh`), an error in them is replaced (R87). -/
def passSites (guest : Bool) (t : Td) (c k : Nat) (fresh : Bool) : List Site :=
  let b := lineBase guest
  (upFrom 0 4).flatMap (fun i => blockSites c b t.afmt t.a (turned t.aTrans i k).1 (turned t.aTrans i k).2)
    ++ (upFrom 0 2).flatMap (fun j => blockSites c b t.bfmt t.b (turned t.bTrans k j).1 (turned t.bTrans k j).2)
    ++ (if fresh then [] else (upFrom 0 64).flatMap (rowSites c (physSlot guest t.slot)))

/-! ### Operands -/

/-- Byte address of element `(i, j)` of a stored region, `size` bytes an element (R57, R58). -/
def elemAddr (base fmt size : Nat) (r : Region) (i j : Nat) : Nat :=
  128 * (base + r.base + i / 16 * r.pitch + j / 16 * tileLines fmt) + size * (16 * (i % 16) + j % 16)

/-- Element `(i, j)` of a stored region as its exact value (R37, R39, R57, R58). -/
def State.stored (s : State) (tag base c fmt : Nat) (r : Region) (i j : Nat) : Val :=
  if isNb8 fmt then
    let code := (s.sramByte tag c (elemAddr base fmt 1 r i j)).toNat
    let e := 16 * base + r.sbase + i / 16 * r.spitch + j / 16
    nb8Val (elemFmt fmt) code (s.sramRun tag c (8 * e) 8) (subOf (16 * (i % 16) + j % 16))
  else if fmt = 1 then bf16.toVal (leNat (s.sramRun tag c (elemAddr base fmt 2 r i j) 2))
  else fv (leNat (s.sramRun tag c (elemAddr base fmt 4 r i j) 4))

/-- Element `(i, j)` of an operand after the turning path (R61). -/
def State.operand (s : State) (tag base c fmt : Nat) (r : Region) (trans : Bool) (i j : Nat) : Val :=
  if trans then s.stored tag base c fmt r j i else s.stored tag base c fmt r i j

/-- The shadow of an operand element of the watched cell, if its line has one (R134, R136). -/
def TamSt.shadowOf (x : TamSt) (base fmt : Nat) (r : Region) (trans : Bool) (i j : Nat) : Option Val :=
  let a := if trans then elemAddr base fmt 1 r j i else elemAddr base fmt 1 r i j
  match sget [] x.shadow (a / 128) with
  | [] => none
  | l => some (bf16.toVal (l.getD (a % 128) 0))

/-- The rotation of a pair of BF16 values at a position, with angle step `w`, by the procedure of R115. With a step of 0 the
rule's prose has the pair unchanged, and the procedure makes +0 of a −0 and a NaN of what stands beside an infinity: the
model follows the procedure (DESIGN CHOICE, log entry 37). -/
def rotate (a b pos w : Nat) : Nat × Nat :=
  let ph := pos * w % 2 ^ 32
  let k := ph >>> 22
  let r := fmul (fp32.ofVal (.fin false (ph % 2 ^ 22) 0)) 0x30C90FDB
  let cr := fma32 0xBF000000 (fmul r r) fOne
  let c := fma32 (romC k) cr (fneg (fmul (romS k) r))
  let s := fma32 (romS k) cr (fmul (romC k) r)
  let a1 := fma32 a c (fneg (fmul b s))
  let b1 := fma32 a s (fmul b c)
  (bf16.ofVal (fv a1), bf16.ofVal (fv b1))

/-- One element of a rotated operand: `x` and `y` are the pair's values, `odd` its second (R114). -/
def rotated (x y : Val) (odd : Bool) (pos w : Nat) : Val :=
  let q := rotate (fp32.ofVal x) (fp32.ofVal y) pos w
  bf16.toVal (if odd then q.2 else q.1)

/-- What the grid of one cell needs of an operation. -/
structure GridCtx where
  t : Td
  tag : Nat
  base : Nat
  slot : Nat
  rot : List Nat
  pos : Pos
  deriving DecidableEq, Repr

/-- a(i, x) as it enters the grid (R55, R61, R114). -/
def State.aVal (s : State) (g : GridCtx) (i x : Nat) : Val :=
  let get := fun x => s.operand g.tag g.base g.pos.c g.t.afmt g.t.a g.t.aTrans i x
  if g.t.rot = 1 ∨ g.t.rot = 3 then
    rotated (get (x - x % 2)) (get (x - x % 2 + 1)) (x % 2 = 1) (g.t.qpos + 64 * g.pos.u + i) (g.rot.getD (x / 2) 0)
  else get x

/-- b(x, j) as it enters the grid (R55, R61, R114). -/
def State.bVal (s : State) (g : GridCtx) (x j : Nat) : Val :=
  let get := fun x => s.operand g.tag g.base g.pos.c g.t.bfmt g.t.b g.t.bTrans x j
  if g.t.rot = 2 ∨ g.t.rot = 3 then
    rotated (get (x - x % 2)) (get (x - x % 2 + 1)) (x % 2 = 1) (g.t.kpos + 32 * g.pos.v + j) (g.rot.getD (x / 2) 0)
  else get x

/-- The exact sum of sixteen products; −0 when all are −0 (R55, R56). -/
def dot16 (a b : Nat → Val) : Val := (upFrom 0 16).foldl (fun t q => t.add ((a q).mul (b q))) (.fin true 0 0)

/-- Some operand of the sixteen products is not finite (R56). -/
def dotNonfinite (a b : Nat → Val) : Bool := (upFrom 0 16).any fun q => !(a q).isFin || !(b q).isFin

/-! ### Generator contexts -/

/-- sr_seed (R50). -/
def srSeed (step c : Nat) (guest : Bool) : Nat :=
  let x := splitmix64 ((step % 2 ^ 32) * 2 ^ 32 + b2n guest * 65536 + c)
  if x = 0 then 0x9E3779B97F4A7C15 else x

/-- Seed the context before a draw when R50 asks for it. -/
def State.seedGen (s : State) (c step : Nat) (guest : Bool) : State :=
  let k := 2 * c + b2n guest
  let fresh := match sget none s.cell.gens k with
    | none => true
    | some (_, st) => st ≠ step
  if fresh then s.withCell fun x => { x with gens := sput none x.gens k (some (srSeed step c guest, step)) }
  else s

/-- 2048 draws: the values and the state after them (R51). -/
def srDraws (x : Nat) : Nat → List Nat × Nat
  | 0 => ([], x)
  | n + 1 =>
    let y := srDraw x
    let r := srDraws y.1 n
    (y.2 :: r.1, r.2)

/-! ### A pass -/

/-- The result of one pass for element `n` of the part, and whether an infinity begins there (R53 to R56). -/
def State.passElem (s : State) (g : GridCtx) (k : Nat) (sr : Bool) (u n : Nat) : Nat × Bool :=
  let i := n / 32
  let j := n % 32
  let a := fun q => s.aVal g i (16 * k + q)
  let b := fun q => s.bVal g (16 * k + q) j
  let t := dot16 a b
  let p := s.accGet g.tag g.pos.c g.slot i j
  let r := if sr then srAdd p t u else fp32.ofVal ((fv p).add t)
  (r, ffin p && !dotNonfinite a b && !ffin r)

/-- The wide sum of a check-block element, and whether a shadow entered it (R136). -/
def State.wideSum (s : State) (x : TamSt) (g : GridCtx) (k i j : Nat) : Val × Bool :=
  let wa := fun q => x.shadowOf g.base g.t.afmt g.t.a g.t.aTrans i (16 * k + q)
  let wb := fun q => x.shadowOf g.base g.t.bfmt g.t.b g.t.bTrans (16 * k + q) j
  (dot16 (fun q => (wa q).getD (s.aVal g i (16 * k + q))) (fun q => (wb q).getD (s.bVal g (16 * k + q) j)),
   (upFrom 0 16).any fun q => (wa q).isSome || (wb q).isSome)

/-- The monitor of a basin. -/
def State.tamOf (s : State) (b : Nat) : TamSt := sget {} s.tam b

/-- Store it. -/
def State.setTam (s : State) (b : Nat) (x : TamSt) : State := { s with tam := sput {} s.tam b x }

/-- The sample that the chain on this slot of this cell is under, if any (R135). -/
def State.sampleHere (s : State) (g : GridCtx) : Option Sample :=
  let x := s.tamOf (g.pos.c / 64)
  if x.watched = some g.pos.c then
    match x.sample with
    | some m => if m.slot = g.slot ∧ g.tag = ownTag m.part false then some m else none
    | none => none
  else none

/-- The check array's part of a pass (R136). -/
def State.checkPass (s : State) (g : GridCtx) (k : Nat) : State :=
  match s.sampleHere g with
  | none => s
  | some m =>
    let b := g.pos.c / 64
    let x := s.tamOf b
    let w := (upFrom 0 256).map fun n => s.wideSum x g k (m.row + n / 16) (m.col + n % 16)
    let s1 := (upFrom 0 16).foldl (fun s' i =>
      s'.accPutRow g.tag g.pos.c 7 i ((upFrom 0 32).map fun j =>
        let p := s.accGet g.tag g.pos.c 7 i j
        if j < 16 then fp32.ofVal ((fv p).add (w.getD (16 * i + j) (.zero, false)).1) else p)) s
    s1.setTam b { x with sample := some { m with wide := m.wide || w.any (·.2) } }

/-- One pass of an operation in one cell: the grid, the check array and the pass count (R46, R47, R51, R55).
`sr` is CEL_SR_CTRL as read when the operation started. -/
def State.pass (s : State) (g : GridCtx) (sr k part : Nat) (guest : Bool) : State :=
  let c := g.pos.c
  let cnt := satTo 0xFFFF ((s.slotSt c g.slot).count + 1)
  let st := !bit sr 16 && decide (bits sr 15 0 < cnt)
  let s := s.checkPass g k
  let s := if st then (s.seedGen c g.t.step guest).count 0x0104 c (ofPart part) 1 else s
  let key := 2 * c + b2n guest
  let gen := match sget none s.cell.gens key with
    | some (x, _) => x
    | none => 0
  let dr := if st then srDraws gen 2048 else ([], gen)
  let res := (upFrom 0 2048).map fun n => s.passElem g k st (dr.1.getD n 0) n
  let s := if st then s.withCell fun x => { x with gens := sput none x.gens key (some (dr.2, g.t.step)) } else s
  let s := s.accPutAll g.tag c g.slot (res.map (·.1))
  let s := match (upFrom 0 2048).find? fun n => (res.getD n (0, false)).2 with
    | some n => s.setOvf c g.slot (64 * g.pos.u + n / 32) (32 * g.pos.v + n % 32)
    | none => s
  let s := s.setSlotSt c g.slot { s.slotSt c g.slot with count := cnt }
  if isNb8 g.t.afmt then s.count 0x0101 c (ofPart part) 16 else s.count 0x0102 c (ofPart part) 64

/-- What a cell finds in the words that it is about to read: corrected errors and uncorrectable ones are reported, lowest
cause bit first, and an uncorrectable one stops it (R87, R90). -/
def State.sramLook (s : State) (env : Env) (c slot op step : Nat) (sites : List Site) : State × Bool :=
  let s := if upset env false sites then s.celErr 2 c slot op step else s
  if upset env true sites then (s.celErr 3 c slot op step, true) else (s, false)

/-- Passes `k` to `k + n - 1`, stopping before one that meets an uncorrectable word: the state, the passes
made, and whether it stopped (R87). -/
def State.passes (s : State) (env : Env) (g : GridCtx) (sr part : Nat) (guest fresh : Bool) (k : Nat) :
    Nat → State × Nat × Bool
  | 0 => (s, 0, false)
  | n + 1 =>
    match s.sramLook env g.pos.c g.slot g.t.op g.t.step (passSites guest g.t g.pos.c k fresh) with
    | (s, true) => (s, 0, true)
    | (s, false) =>
      match (s.pass g sr k part guest).passes env g sr part guest fresh (k + 1) n with
      | (s, m, b) => (s, m + 1, b)

/-- Masked elements become −infinity after the last pass (R113). -/
def State.maskSlot (s : State) (g : GridCtx) : State :=
  if g.t.mask = 0 then s else
  let c := g.pos.c
  s.accPutAll g.tag c g.slot ((upFrom 0 2048).map fun n =>
    let q := g.t.qpos + 64 * g.pos.u + n / 32
    let k := g.t.kpos + 32 * g.pos.v + n % 32
    if (g.t.mask = 1 ∧ q < k) ∨ (g.t.mask = 2 ∧ k < q) then fNegInf else s.accGet g.tag c g.slot (n / 32) (n % 32))

/-- The SEG_END addition of slot `s` into the reserve slot (R65). -/
def State.segEnd (s : State) (g : GridCtx) : State :=
  let c := g.pos.c
  let old := s.accAll g.tag c 7
  let add := s.accAll g.tag c g.slot
  let sum := (upFrom 0 2048).map fun n => fadd (old.getD n 0) (add.getD n 0)
  let s1 := match (s.slotSt c g.slot).ovf with
    | some (r, k) => s.setOvf c 7 r k
    | none => s
  let s1 := match (upFrom 0 2048).find? fun n =>
      ffin (old.getD n 0) && ffin (add.getD n 0) && !ffin (sum.getD n 0) with
    | some n => s1.setOvf c 7 (64 * g.pos.u + n / 32) (32 * g.pos.v + n % 32)
    | none => s1
  (s1.accPutAll g.tag c 7 sum).clearSlot g.tag c g.slot

/-! ### The Tile Agreement Monitor -/

/-- The pool claims the reserve slot for the monitor, and its owner holds the basin's check buffer (R134). -/
def State.tamClaims (s : State) (p : Nat) : Bool :=
  (s.poolEnt p).reserve = 1 && (s.owner p).isSome
    && (s.pte.image.basins.getD (p / 4) ⟨0, 0xFF⟩).check = (s.poolEnt p).owner

/-- The cells of a basin that the monitor may watch, ascending (R134). -/
def State.tamCells (s : State) (b : Nat) : List Nat :=
  (upFrom (64 * b) 64).filter fun c => s.tamClaims (c / 16)

/-- The cell after `c` among those watched, wrapping round (R134). -/
def nextCell (l : List Nat) (c : Nat) : Option Nat :=
  match l.find? fun x => c < x with
  | some x => some x
  | none => l.head?

/-- The sample of a basin ends: its outcome goes to the merger and the watched cell advances (R134, R139). -/
def State.tamEnd (s : State) (b : Nat) (o : TamOutcome) : State :=
  let x := s.tamOf b
  let w := match x.watched with
    | some c => nextCell (s.tamCells b) c
    | none => none
  let s := s.setTam b { x with sample := none, shadow := [], watched := w }
  { s with sta := { s.sta with outcomes := s.sta.outcomes ++ [o] } }

/-- The open sample of basin `b` is abandoned, counted under tensor `tensor` (R137). -/
def State.tamAbandon (s : State) (b tensor step : Nat) : State :=
  let x := s.tamOf b
  match x.sample with
  | none => s
  | some m => s.tamEnd b ⟨m.part, tensor, step, x.watched.getD 0, 18, 0⟩

/-- An operation that breaks the chain on a slot of these cells abandons its sample (R137). -/
def State.tamBreak (s : State) (gr : List Pos) (part : Nat) (slots : List Nat) : State :=
  match gr.head? with
  | none => s
  | some q =>
    let b := q.c / 64
    let x := s.tamOf b
    match x.sample with
    | some m =>
      if (gr.any fun y => x.watched = some y.c) && m.part = part && decide (m.slot ∈ slots) then
        s.tamAbandon b m.tensor m.step
      else s
    | none => s

/-- The MMA meets the conditions of an eligible chain apart from START (R135). -/
def eligible (t : Td) (guest : Bool) : Bool :=
  t.op = 1 && isNb8 t.afmt && isNb8 t.bfmt && !t.long && t.mask = 0 && t.rot = 0 && !guest

/-- 2^TAM_SAMPLE_RATE as it reads (R141). -/
def State.tamRate (s : State) (v : Nat) : Nat := 2 ^ max 4 (min 16 (s.fld F.TAM_SAMPLE_RATE v 0))

/-- An MMA of the owner starts in a group: chains are counted, samples opened, continued or abandoned (R135,
R137). -/
def State.tamStart (s : State) (p : Nat) (gr : List Pos) (op : TileOp) (t : Td) : State :=
  let b := p / 4
  let x := s.tamOf b
  let slot := physSlot op.guest t.slot
  let here := gr.any fun y => x.watched = some y.c
  if !here then s
  else if !eligible t op.guest then s.tamBreak gr op.part [slot]
  else
    let s := match x.sample with
      | some m =>
        if m.slot = slot then s.setTam b { x with sample := some { m with tensor := t.tensor, step := t.step } }
        else s
      | none => s
    if !t.start || !s.tamClaims ((x.watched.getD 0) / 16) then s else
    let x := s.tamOf b
    let v := s.drive op.part
    let en := s.flag F.TAM_ENABLE v 0
    let n := x.n
    let s := s.setTam b { x with n := (n + 1) % 2 ^ 32 }
    if en && n % s.tamRate v = 0 && x.sample = none then
      let h := splitmix64 (s.fld F.TAM_SEED v 0 * 2 ^ 32 + n)
      let m : Sample := { part := op.part, slot := slot, tensor := t.tensor, step := t.step,
                          row := 16 * (h % 4), col := 16 * (h / 4 % 2), wide := false }
      (s.setTam b { s.tamOf b with sample := some m })
    else s

/-- START clears the check positions of the reserve slot (R136). -/
def State.tamClear (s : State) (g : GridCtx) : State :=
  match s.sampleHere g with
  | none => s
  | some _ =>
    (upFrom 0 16).foldl (fun s i => s.accPutRow g.tag g.pos.c 7 i
      ((upFrom 0 32).map fun j => if j < 16 then 0 else s.accGet g.tag g.pos.c 7 i j)) s

/-- `a ≥ b` for finite magnitudes. -/
def magGe (a b : Val) : Bool := !a.lt b

/-- tam_bin of R138 over pairs of narrow and wide values: kind 16 for NONFINITE, and D / W as FP32, a W of 0 counting as
+infinity (R139). -/
def tamBin (l : List (Nat × Nat)) : Nat × Nat :=
  if l.any fun e => !ffin e.1 || !ffin e.2 then (16, 0) else
  let mx := fun (a b : Val) => if a.lt b then b else a
  let w := l.foldl (fun a e => mx a (fv e.2).abs) Val.zero
  let d := l.foldl (fun a e => mx a ((fv e.1).sub (fv e.2)).abs) Val.zero
  let ratio := if w.isZero then 0x7F800000 else if d.isZero then 0 else fp32.ofVal (d.div w)
  if d.isZero then (0, ratio) else if w.isZero then (15, ratio) else
  match ((upFrom 1 15).reverse).find? fun (b : Nat) => magGe d (w.mul (.fin false 1 ((b : Int) - 16))) with
  | some b => (b, ratio)
  | none => (0, ratio)

/-- The FINISH MMA of a sampled chain has made its last pass (R137, R138). -/
def State.tamCompare (s : State) (g : GridCtx) : State :=
  match s.sampleHere g with
  | none => s
  | some m =>
    let c := g.pos.c
    let inside := (upFrom 0 256).filter fun n =>
      decide (64 * g.pos.u + m.row + n / 16 < g.t.rows) && decide (32 * g.pos.v + m.col + n % 16 < g.t.cols)
    let l := inside.map fun n =>
      (s.accGet g.tag c g.slot (m.row + n / 16) (m.col + n % 16), s.accGet g.tag c 7 (n / 16) (n % 16))
    let r := tamBin l
    let o : TamOutcome := ⟨m.part, g.t.tensor, g.t.step, c,
      if l = [] || !m.wide then 17 else r.1, if l = [] || !m.wide then 0 else r.2⟩
    s.tamEnd (c / 64) o

end Sys2Proof.Machine
end

