-- ==== Sys2Proof/Machine/Output.lean ====
section
/-! DEFINITION. The output path: function tables, the element-wise and table stages, conversion, statistics
reports and write-back (R71, R78 to R86). -/

namespace Sys2Proof.Machine

/-! ### Tables -/

/-- Coefficient `i` at 16-byte entry `n` of a part (R84). -/
def coef (part : List Byte) (n i : Nat) : Nat := leAt part (16 * n + 4 * i) 4

/-- A NaN read from memory is passed on as the canonical one; every other value is unchanged (R29). -/
def canonNan (w : Nat) : Nat := if fv w = .nan then fp32.nanBits else w

/-- table_eval of R85 on FP32 bits: the part's bytes, its values at the infinities, and EMIN. A value at an infinity that is a
NaN in the file is produced as the canonical one (R29). -/
def tableEval (part : List Byte) (pinf ninf : Nat) (emin : Int) (x : Nat) : Nat :=
  match fv x with
  | .nan => fp32.nanBits
  | .inf false => canonNan pinf
  | .inf true => canonNan ninf
  | .fin neg m e =>
    if m = 0 ∨ floorLog2 m e < emin then fma32 (coef part 256 1) x (coef part 256 0)
    else if emin + 16 ≤ floorLog2 m e then
      if neg then fma32 (coef part 258 1) x (coef part 258 0)
      else fma32 (coef part 257 1) x (coef part 257 0)
    else
      let ex := floorLog2 m e
      let mag := x % 2 ^ 31
      let f := (mag >>> 20) % 8
      let n := 128 * b2n neg + 8 * (ex - emin).toNat + f
      let base : Val := .fin false (8 + f) (ex - 3)
      let u := fp32.ofVal ((fv mag).sub base)
      fma32 (fma32 (coef part n 2) u (coef part n 1)) u (coef part n 0)

/-- The function part of a pair. -/
def TablePair.evalFn (t : TablePair) (x : Nat) : Nat := tableEval t.fn t.fnPinf t.fnNinf t.emin x

/-- The derivative part of a pair. -/
def TablePair.evalDv (t : TablePair) (x : Nat) : Nat := tableEval (t.dv.getD []) t.dvPinf t.dvNinf t.emin x

/-! ### Stages 1 and 2 -/

/-- Element `(i, j)` of E for a cell, as FP32 (R39, R78). -/
def State.eVal (s : State) (g : GridCtx) (i j : Nat) : Nat :=
  let i := if g.t.bcast = 1 then 0 else i
  let j := if g.t.bcast = 2 then 0 else j
  fp32.ofVal (s.stored g.tag g.base g.pos.c g.t.efmt g.t.e i j)

/-- Stages 1 and 2 of R78 for one partial: the value to save and the value to convert. -/
def State.stage12 (s : State) (g : GridCtx) (i j v : Nat) : Nat × Nat :=
  let e := if g.t.readsE then s.eVal g i j else 0
  let v := if g.t.ew = 1 then fadd v e else if g.t.ew = 2 then fmul v e else v
  match g.t.func, s.pairOf g.pos.c g.t.pair with
  | 1, some p => (v, p.evalFn v)
  | 2, some p => (v, fmul v (p.evalDv e))
  | _, _ => (v, v)

/-! ### Stages 3 and 4 -/

/-- Logical row and column of an element of a cell's part (R70). -/
def Pos.row (q : Pos) (i : Nat) : Nat := 64 * q.u + i
def Pos.col (q : Pos) (j : Nat) : Nat := 32 * q.v + j

/-- The element lies in the extent and in an unmasked column group (R71, R80, R81). -/
def Td.live (t : Td) (q : Pos) (i j : Nat) : Bool :=
  decide (q.row i < t.rows) && decide (q.col j < t.cols) && bit t.wmask (2 * q.v + j / 16)

/-- The bytes of FP32 values in a row-major format. -/
def rowBytes (fmt : Nat) (l : List Nat) : List Byte := l.flatMap fun w => toLe (fmtSize fmt) (narrow fmt w)

/-- Write half-row `(i, h)` of a cell's part in a row-major format at an origin and pitch: the columns of
group 2v + h inside the extent (R79, R80). -/
def State.writeRow (s : State) (env : Env) (part : Nat) (t : Td) (q : Pos) (fmt va pitch i h : Nat)
    (vals : List Nat) : State × Resp :=
  let js := (upFrom (16 * h) 16).filter fun j => t.live q i j
  if js = [] then (s, .okay) else
  s.writeVa env (cellRq (q.c / 16) part) (va + q.row i * pitch + q.col (16 * h) * fmtSize fmt)
    (rowBytes fmt (js.map fun j => vals.getD (32 * i + j) 0))

/-- Write the rows from `r0` up to `stop` of a cell's part in a row-major format. -/
def State.writeRows (s : State) (env : Env) (part : Nat) (t : Td) (q : Pos) (fmt va pitch r0 stop : Nat)
    (vals : List Nat) : State × Resp :=
  (upFrom r0 (stop - r0)).foldl (fun (a : State × Resp) i =>
    match a.1.writeRow env part t q fmt va pitch i 0 vals with
    | (s, r) =>
      match s.writeRow env part t q fmt va pitch i 1 vals with
      | (s, r') => (s, (a.2.join r).join r')) (s, .okay)

/-- The 256 inputs of block `(bi, bj)` of a cell's part; outside the extent they are +0 (R80). -/
def blockOf (t : Td) (q : Pos) (bi bj : Nat) (vals : List Nat) : List Nat :=
  (upFrom 0 256).map fun k =>
    let i := 16 * bi + k / 16
    let j := 16 * bj + k % 16
    if q.row i < t.rows ∧ q.col j < t.cols then vals.getD (32 * i + j) 0 else 0

/-- A block is written: it lies partly inside the extent and its group is unmasked. -/
def Td.blockLive (t : Td) (q : Pos) (bi bj : Nat) : Bool :=
  decide (q.row (16 * bi) < t.rows) && decide (q.col (16 * bj) < t.cols) && bit t.wmask (2 * q.v + bj)

/-- The NB8 blocks of a cell's part, numbered 2I + J, that are written once the rows from `r0` up to `stop` are made: a block
is written with its last row. -/
def Td.blocks (t : Td) (q : Pos) (r0 stop : Nat) : List Nat :=
  (upFrom 0 8).filter fun n =>
    t.blockLive q (n / 2) (n % 2) && decide (r0 < 16 * (n / 2) + 16) && decide (16 * (n / 2) + 16 ≤ stop)

/-- Block `n` quantised (R79). -/
def Td.quant (t : Td) (q : Pos) (vals : List Nat) (n : Nat) : Quant :=
  quantise (elemFmt t.ofmt) t.ceil (blockOf t q (n / 2) (n % 2) vals)

/-- Write the NB8 blocks that end in the rows from `r0` up to `stop` (R79, R80). -/
def State.writeBlocks (s : State) (env : Env) (part : Nat) (t : Td) (q : Pos) (r0 stop : Nat) (vals : List Nat) :
    State × Resp :=
  (t.blocks q r0 stop).foldl
    (fun (a : State × Resp) n =>
      let z := t.quant q vals n
      let bi := 4 * q.u + n / 2
      let bj := 2 * q.v + n % 2
      match a.1.writeVa env (cellRq (q.c / 16) part) (t.outVa + bi * t.outPitch + 256 * bj)
          (z.codes.map (BitVec.ofNat 8)) with
      | (s, r) =>
        match s.writeVa env (cellRq (q.c / 16) part) (t.outSva + bi * t.outSpitch + 8 * bj) z.entry with
        | (s, r') => (s, (a.2.join r).join r')) (s, .okay)

/-- What an IEEE output counts as saturated or flushed (R121). -/
def ieeeSat (fmt w : Nat) : Bool :=
  (fmt = 1 || fmt = 2) && ffin w && !(if fmt = 1 then bf16.toVal (narrow fmt w) else fp16.toVal (narrow fmt w)).isFin

def ieeeFlush (fmt w : Nat) : Bool :=
  (fmt = 1 || fmt = 2) && !(fv w).isZero && narrow fmt w % 2 ^ 15 = 0

/-- The report of the first `rows` rows of a cell's part (R81, R121); none when they have no element. -/
def reportOf (op : TileOp) (t : Td) (q : Pos) (rows : Nat) (vals : List Nat) (zs : List Quant) : Option Report :=
  let live := (upFrom 0 (32 * rows)).filter fun n => t.live q (n / 32) (n % 32)
  let l := live.map fun n => vals.getD n 0
  if l = [] then none else
  let nb := isNb8 t.ofmt
  some { op := op.id, part := op.part, tensor := t.tensor, step := t.step, elems := l.length,
         zeros := (l.filter fun w => (fv w).isZero).length,
         flush := if nb then (zs.map (·.flush)).foldl (· + ·) 0 else (l.filter (ieeeFlush t.ofmt)).length,
         sat := if nb then (zs.map (·.sat)).foldl (· + ·) 0 else (l.filter (ieeeSat t.ofmt)).length,
         nonfin := (zs.filter fun z => leAt z.entry 0 1 = 0xFF).length,
         amax := maxMag (l.filter ffin) }

/-- Stage 3 for the rows from `r0` up to `stop` of a cell's part, from its stage-3 inputs, and with `last` the report of stage
4: whether every write was answered OKAY (R79 to R81, R88). A cell that an uncorrectable error stops before its last row
reports the elements it has converted, which for an NB8 output are those of the whole blocks before that row; the spec does
not say what such a cell reports (DESIGN CHOICE, log entry 37). -/
def State.stage34 (s : State) (env : Env) (op : TileOp) (t : Td) (q : Pos) (r0 stop : Nat) (last : Bool) (vals : List Nat) :
    State × Bool :=
  let r := if isNb8 t.ofmt then s.writeBlocks env op.part t q r0 stop vals
    else s.writeRows env op.part t q t.ofmt t.outVa t.outPitch r0 stop vals
  let s := r.1.count 0x0103 q.c (ofPart op.part) (stop - r0)
  let rows := if isNb8 t.ofmt then stop / 16 * 16 else stop
  let zs := if isNb8 t.ofmt then (t.blocks q 0 stop).map (t.quant q vals) else []
  let s := match (if last then reportOf op t q rows vals zs else none) with
    | some x => { s with sta := { s.sta with reports := s.sta.reports ++ [x] } }
    | none => s
  (s, decide (r.2 = .okay))

/-- The words of operand SRAM that output row `i` reads from E (R78, R87). -/
def eSites (g : GridCtx) (i : Nat) : List Site :=
  if !g.t.readsE then [] else
  let bi := if g.t.bcast = 1 then 0 else i / 16
  let bjs := if g.t.bcast = 2 then [0] else [0, 1]
  bjs.flatMap fun bj =>
    let size := if isNb8 g.t.efmt then 1 else fmtSize g.t.efmt
    let y := if g.t.bcast = 1 then 0 else i % 16
    let a := 128 * (g.base + g.t.e.base + bi * g.t.e.pitch + bj * tileLines g.t.efmt) + size * 16 * y
    byteSites g.pos.c a (if g.t.bcast = 2 then size else 16 * size)
      ++ (if isNb8 g.t.efmt then [entrySite g.pos.c g.base (g.t.e.sbase + bi * g.t.e.spitch + bj)] else [])

/-- The words that the output path reads for row `i` of slot `src`. -/
def outSites (g : GridCtx) (src i : Nat) : List Site := rowSites g.pos.c src i ++ eSites g i

/-- The first row from `r0` up to `r1` that reads an uncorrectable word, `r1` when none does (R87). -/
def rowsBefore (env : Env) (sites : Nat → List Site) (r0 r1 : Nat) : Nat :=
  ((upFrom r0 (r1 - r0)).find? fun i => upset env true (sites i)).getD r1

/-- What one cell reports of the words and writes of the rows from `r0` up to `r1`, of which it made those before `stop`: the
errors lowest cause bit first, and the status. A cell with an uncorrectable error and a write error reports WRITE_ERR, the
higher number, as a group does of its cells (DEDUCED from R75, log entry 37). -/
def State.rowErrs (s : State) (env : Env) (sites : Nat → List Site) (c slot op step r0 stop r1 : Nat) (good : Bool) :
    State × Nat :=
  let ce := (upFrom r0 (min (stop + 1) r1 - r0)).any fun i => upset env false (sites i)
  let s := if ce then s.celErr 2 c slot op step else s
  let s := if stop < r1 then s.celErr 3 c slot op step else s
  if good then (s, if stop < r1 then 2 else 0) else (s.celErr 5 c slot op step, 4)

/-- The rows from `r0` up to `r1` of the output path of one cell on slot `src`: its status, and whether an uncorrectable word
stopped it (R78 to R81, R87, R88). -/
def State.outCell (s : State) (env : Env) (op : TileOp) (g : GridCtx) (src r0 r1 : Nat) : State × Nat × Bool :=
  let t := g.t
  let stop := rowsBefore env (outSites g src) r0 r1
  let both := (upFrom 0 2048).map fun n => s.stage12 g (n / 32) (n % 32) (s.accGet g.tag g.pos.c src (n / 32) (n % 32))
  let sv := if t.save then
      s.writeRows env op.part t g.pos t.sfmt t.saveVa t.savePitch r0 stop (both.map (·.1))
    else (s, .okay)
  match sv.1.stage34 env op t g.pos r0 stop (decide (stop < r1 ∨ r1 = 64)) (both.map (·.2)) with
  | (s, good) =>
    match s.rowErrs env (outSites g src) g.pos.c src t.op t.step r0 stop r1 (good && decide (sv.2 = .okay)) with
    | (s, st) => (s, st, decide (stop < r1))

/-- ACC_NONFINITE for the flagged cells of a group that is read at slot `src` (R82). -/
def State.reportOvf (s : State) (op : TileOp) (t : Td) (gr : List Pos) (src : Nat) : State :=
  let fl := gr.filter fun q => (s.slotSt q.c src).ovf.isSome
  match fl.head? with
  | none => s
  | some q =>
    let pos := ((s.slotSt q.c src).ovf).getD (0, 0)
    let masked := t.op ≠ 4 && !bit t.wmask (pos.2 / 16)
    let s := fl.foldl (fun s q =>
      (s.celErr 1 q.c src t.op t.step).setSlotSt q.c src { s.slotSt q.c src with ovf := none }) s
    s.event op.part 0x0101 (toLe 2 q.c ++ toLe 1 src ++ toLe 2 t.tensor ++ toLe 4 t.step ++ toLe 1 pos.1
      ++ toLe 2 pos.2 ++ toLe 1 (b2n masked))

/-! ### Table files -/

/-- The file's header and parts are as R83 and R86 require. -/
def tableOk (h parts : List Byte) : Bool :=
  leAt h 0 4 = 0x42545847 && leAt h 4 2 = 1
    && decide (-126 ≤ signed 8 (leAt h 6 1)) && decide (signed 8 (leAt h 6 1) ≤ 111)
    && leAt h 7 1 < 2 && zeroAt h 28 36 && leAt h 24 4 = crc32 parts

/-- The pair that a table file holds. -/
def tableOf (h parts : List Byte) : TablePair :=
  { emin := signed 8 (leAt h 6 1), fnPinf := leAt h 8 4, fnNinf := leAt h 12 4, dvPinf := leAt h 16 4,
    dvNinf := leAt h 20 4, fn := slice parts 0 4160,
    dv := if bit (leAt h 7 1) 0 then some (slice parts 4160 4160) else none }

/-- TABLE_LOAD in one cell: its status (R86). The operation has no slot: CEL_EF_SLOT captures 0 for its errors (DESIGN CHOICE,
log entry 37). -/
def State.loadTable (s : State) (env : Env) (op : TileOp) (t : Td) (q : Pos) : State × Nat :=
  let put := fun (s : State) (p : Option TablePair) =>
    s.withCell fun x => { x with pairs := sput none x.pairs (4 * q.c + t.pair) p }
  match s.readVa env (cellRq (q.c / 16) op.part) t.outVa 64 with
  | (s, r1, h) =>
    let n := if bit (leAt h 7 1) 0 then 8320 else 4160
    match s.readVa env (cellRq (q.c / 16) op.part) (t.outVa + 64) n with
    | (s, r2, parts) =>
      if r1 ≠ .okay ∨ r2 ≠ .okay then ((put s none).celErr 6 q.c 0 t.op t.step, 3)
      else if tableOk h parts then (put s (some (tableOf h parts)), 0)
      else ((put s none).celErr 4 q.c 0 t.op t.step, 5)

end Sys2Proof.Machine
end

