-- ==== Sys2Proof/Machine/Tiles.lean ====
section
/-! DEFINITION. Tile operations: rejection, issue to the cells, each opcode, the output path, completion, and
the Backfill guest's operations (spec/03 R67 to R88, spec/04 R100 to R118, spec/16 R384, R385). The cells of
a group act in one step, in ascending order of their index (log entry 5). -/

namespace Sys2Proof.Machine

/-- A pool beside its registers. -/
def State.poolSt (s : State) (p : Nat) : PoolSt := sget {} s.pool p

/-- Store it. -/
def State.setPool (s : State) (p : Nat) (x : PoolSt) : State := { s with pool := sput {} s.pool p x }

/-! ### Rejection (R72) -/

/-- The pool's owner holds a claim on the reserve slot, and it is the owner that asks (R164). -/
def State.claim (s : State) (p v : Nat) (guest : Bool) : Bool := !guest && (s.poolEnt p).reserve = v

/-- The last line and the last scale entry of a region lie within what the issuer may address. -/
def regionOk (lim fmt : Nat) (r : Region) (ni nj : Nat) : Bool :=
  decide (r.base + (ni - 1) * r.pitch + nj * tileLines fmt ≤ lim)
    && (!isNb8 fmt || decide (r.sbase + (ni - 1) * r.spitch + nj ≤ 16 * lim))

/-- The slot number is beyond the issuer's. -/
def State.badSlot (s : State) (p slot : Nat) (guest : Bool) : Bool :=
  if guest then decide (1 < slot) else if s.guested p then decide (4 < slot) else decide (6 < slot)

/-- A format an output may have. -/
def outFmt (f : Nat) : Bool := f ≤ 2 || f = 4 || f = 5

/-- The output format's alignment (R72). -/
def outAligned (t : Td) : Bool :=
  if isNb8 t.ofmt then t.outVa % 256 = 0 && t.outPitch % 256 = 0 && t.outSva % 8 = 0 && t.outSpitch % 8 = 0
  else t.outVa % 64 = 0 && t.outPitch % 64 = 0

/-- The saved values' alignment. -/
def saveAligned (t : Td) : Bool := t.saveVa % 64 = 0 && t.savePitch % 64 = 0

/-- Rows and columns lie within the logical tile. -/
def extentOk (t : Td) : Bool :=
  decide (1 ≤ t.rows) && decide (t.rows ≤ 64 * (geomDims t.geom).1)
    && decide (1 ≤ t.cols) && decide (t.cols ≤ 32 * (geomDims t.geom).2)

/-- Some cell of the group holds an empty pair, or one without the part that is asked for. -/
def State.pairLacks (s : State) (gr : List Pos) (i : Nat) (dv : Bool) : Bool :=
  gr.any fun q => match s.pairOf q.c i with
    | none => true
    | some x => dv && x.dv = none

/-- What the output path of MMA, OUT and TIE_SUM checks (R72). -/
def State.outputBad (s : State) (gr : List Pos) (lim : Nat) (t : Td) : Bool :=
  !outFmt t.ofmt || !outAligned t || t.ew = 3 || t.bcast = 3 || t.func = 3
    || (t.readsE && !(t.efmt = 0 || t.efmt = 1 || isNb8 t.efmt))
    || (t.readsE && !regionOk lim t.efmt t.e (if t.bcast = 1 then 1 else 4) (if t.bcast = 2 then 1 else 2))
    || (t.func ≠ 0 && s.pairLacks gr t.pair false)
    || (t.func = 2 && (s.pairLacks gr t.pair true || t.ew ≠ 0))

/-- What SAVE checks. -/
def saveBad (t : Td) : Bool := t.save && (decide (2 < t.sfmt) || !saveAligned t)

/-- An MMA is malformed (R72, R112 to R114). -/
def State.mmaBad (s : State) (p : Nat) (gr : List Pos) (t : Td) (guest : Bool) : Bool :=
  let lim := s.lineLimit p guest
  let af := t.afmt = 1 || isNb8 t.afmt
  let bf := t.bfmt = 1 || isNb8 t.bfmt
  let slot := physSlot guest t.slot
  s.badSlot p t.slot guest || !af || !bf || isNb8 t.afmt != isNb8 t.bfmt || t.k = 0 || decide (1023 < t.k)
    || !(if t.aTrans then regionOk lim t.afmt t.a t.k 4 else regionOk lim t.afmt t.a 4 t.k)
    || !(if t.bTrans then regionOk lim t.bfmt t.b 2 t.k else regionOk lim t.bfmt t.b t.k 2)
    || (t.finish && (s.outputBad gr lim t || !extentOk t || saveBad t))
    || ((t.long || t.segEnd) && !s.claim p 2 guest) || (t.segEnd && !t.long)
    || (t.long && gr.any fun q => (upFrom 0 8).any fun x => x ≠ slot && (s.slotSt q.c x).long)
    || t.mask = 3
    || ((t.mask ≠ 0 || t.rot ≠ 0) && (decide (0x100000 < t.qpos + t.rows) || decide (0x100000 < t.kpos + t.cols)))
    || (t.rot ≠ 0 && decide (8 < t.k))
    || ((t.rot = 1 || t.rot = 3) && t.afmt ≠ 1) || ((t.rot = 2 || t.rot = 3) && t.bfmt ≠ 1)

/-- A TIE_SUM is malformed (R72, R102). -/
def State.tieBad (s : State) (p : Nat) (gr : List Pos) (t : Td) (guest : Bool) : Bool :=
  s.badSlot p t.slot guest || decide (1 < t.afmt) || t.k ≠ 0 || t.save || t.aTrans || t.bTrans || t.segEnd || t.long
    || !t.attZero || !saveAligned t || !extentOk t
    || (t.finish && s.outputBad gr (s.lineLimit p guest) t)

/-- An ATT_RESCALE is malformed (R72, R116, R118). -/
def State.attBad (s : State) (p : Nat) (gr : List Pos) (t : Td) (guest : Bool) : Bool :=
  let op := t.attOp
  s.badSlot p t.slot guest || s.badSlot p t.oSlot guest || t.oSlot = t.slot
    || (decide (op < 2) && !s.claim p 3 guest)
    || (if op = 1 then t.pair ≠ 0 || t.func ≠ 0 else t.func ≠ 1 || s.pairLacks gr t.pair false)
    || t.finish || t.aTrans || t.bTrans || t.segEnd || t.long || (t.start && op ≠ 0) || (t.save && op ≠ 1)
    || (t.save && t.sfmt ≠ 0) || t.ew ≠ 0 || t.bcast = 3 || !t.attZero || !outFmt t.ofmt || !outAligned t || !extentOk t
    || ((t.save || decide (2 ≤ op)) && !saveAligned t)

/-- An operation matches a line of R72's table, given its group. The alignment line names TABLE_LOAD for address and pitch, so
its OUT_PITCH is checked though no row is read with it (DEDUCED, log entry 37). -/
def State.tileBad (s : State) (p : Nat) (gr : List Pos) (t : Td) (guest : Bool) : Bool :=
  match t.op with
  | 1 => s.mmaBad p gr t guest
  | 2 => s.badSlot p t.slot guest || s.outputBad gr (s.lineLimit p guest) t || !extentOk t || saveBad t || !t.attZero
  | 3 => s.badSlot p t.slot guest || t.outVa % 64 ≠ 0 || t.outPitch % 64 ≠ 0 || !t.attZero
  | 4 => s.badSlot p t.slot guest || t.outVa % 64 ≠ 0 || t.outPitch % 64 ≠ 0 || !t.attZero
  | 5 => s.badSlot p t.slot guest || !t.attZero
  | 6 => t.outVa % 64 ≠ 0 || t.outPitch % 64 ≠ 0 || !t.attZero
  | 7 => s.tieBad p gr t guest
  | 8 => s.attBad p gr t guest
  | _ => true

/-- The cells that reject a malformed operation: the group, or the engine's first cell (R72). -/
def State.rejecters (s : State) (p : Nat) (gr : Option (List Pos)) : List Nat :=
  match gr with
  | some l => l.map (·.c)
  | none => [(s.engine p).1]

/-! ### Queues -/

/-- The queue of the owner or of the guest. -/
def PoolSt.ops (x : PoolSt) (guest : Bool) : List TileOp := if guest then x.gqueue else x.queue

/-- Replace an operation of a pool. -/
def State.setOp (s : State) (p : Nat) (o : TileOp) : State :=
  let x := s.poolSt p
  let put := fun l : List TileOp => l.map fun y => if y.id = o.id then o else y
  s.setPool p (if o.guest then { x with gqueue := put x.gqueue } else { x with queue := put x.queue })

/-- The oldest operation that no cell has started. -/
def PoolSt.nextOp (x : PoolSt) (guest : Bool) : Option TileOp := (x.ops guest).find? fun o => o.phase = 0

/-- The state of guard `n` of a pool (R108): 0 idle, 1 pending, 2 passed, 3 failed. -/
def State.guardState (s : State) (p n : Nat) : Nat := s.fld F.POOL_SG_STATE 0 (4 * p + n)

/-- The guards of a pool that cover a tensor. -/
def State.covering (s : State) (p tensor : Nat) : List Nat :=
  (upFrom 0 4).filter fun n =>
    decide (s.fld F.POOL_SG_TENSOR_LO 0 (4 * p + n) ≤ tensor) && decide (tensor ≤ s.fld F.POOL_SG_TENSOR_HI 0 (4 * p + n))

/-- A covering guard has failed: the operation completes ABORTED (R108). -/
def State.guardFailed (s : State) (p : Nat) (o : TileOp) : Bool :=
  !o.guest && (s.covering p (tdOf o.d).tensor).any fun n => s.guardState p n = 3

/-- A covering guard is pending: the operation waits (R108). -/
def State.guardHolds (s : State) (p : Nat) (o : TileOp) : Bool :=
  !o.guest && (s.covering p (tdOf o.d).tensor).any fun n => s.guardState p n = 1

/-- Slots that an operation reads or writes (R74). -/
def opSlots (o : TileOp) : List Nat :=
  let t := tdOf o.d
  [physSlot o.guest t.slot] ++ (if t.op = 8 then [physSlot o.guest t.oSlot] else [])
    ++ (if t.long || t.op = 8 then [7] else [])

/-- An earlier operation still has the output path ahead of it on a slot, or with a pair, that this one
uses (R74). -/
def waitsFor (o e : TileOp) : Bool :=
  let t := tdOf o.d
  e.phase = 2 && (t.op = 2 || t.op = 4 || t.op = 8 || (opSlots o).any (fun x => decide (x ∈ opSlots e))
    || (t.op = 6 && (tdOf e.d).func ≠ 0 && (tdOf e.d).pair = t.pair))

/-- The cells of two operations of one engine overlap. -/
def overlap (a b : Option (List Pos)) : Bool :=
  match a, b with
  | some x, some y => x.any fun q => y.any fun r => q.c = r.c
  | _, _ => false

/-- The owner's next operation may start: nothing holds it, and no guest operation has its cells (R74, R77,
R108, R298, R375). -/
def State.mayStart (s : State) (p : Nat) (o : TileOp) : Bool :=
  let x := s.poolSt p
  !s.stopped && !s.guardHolds p o && !s.guardFailed p o && !s.heldByBarrier o.part p
    && !((sget {} s.prt.resets o.part).phase ≥ 4)
    && !(x.queue.any fun e => decide (e.id < o.id) && waitsFor o e)
    && !(x.grun && (x.gqueue.head?.any fun g => overlap (s.group p (tdOf g.d)) (s.group p (tdOf o.d))))

/-- An operation has finished in its cells. With a status other than DONE it abandons the sample of the chain on its slot, if
it names one: TABLE_LOAD does not (R137). -/
def State.opDone (s : State) (p : Nat) (o : TileOp) : State :=
  let t := tdOf o.d
  let s := if o.status = 0 ∨ t.op = 6 then s
    else s.tamBreak ((s.group p t).getD []) o.part [physSlot o.guest t.slot]
  s.setOp p { o with phase := 3 }

/-- Reject a malformed operation (R72). CEL_EF_SLOT captures the descriptor's slot number, a guest's too, since the slot may be
none that the issuer has; every other error captures the cell's own slot (DESIGN CHOICE, log entry 37). -/
def State.rejectOp (s : State) (p : Nat) (o : TileOp) : State :=
  let t := tdOf o.d
  let s := (s.rejecters p (s.group p t)).foldl (fun s c => s.celErr 0 c t.slot t.op t.step) s
  s.opDone p { o with status := 1, t1 := 0 }

/-- What the grid of a cell needs of an operation. -/
def gridCtx (o : TileOp) (t : Td) (q : Pos) : GridCtx :=
  { t := t, tag := ownTag o.part o.guest, base := lineBase o.guest, slot := physSlot o.guest t.slot,
    rot := o.rot, pos := q }

/-- The registers an operation reads once, when it starts (R48, R114). -/
def State.begin (s : State) (o : TileOp) : TileOp :=
  let v := s.drive o.part
  { o with sr := s.regN .celSrCtrl v 0, t1 := s.ns,
           rot := if (tdOf o.d).rot = 0 then [] else (upFrom 0 64).map fun i => s.regN .celRotFreq v i }

/-- Take the next operation of the owner when its opcode is one of `codes`: reject it, or run `f` on its
group. -/
def State.startOp (s : State) (p : Nat) (codes : Nat → Bool)
    (f : State → TileOp → Td → List Pos → State) : State :=
  match (s.poolSt p).nextOp false with
  | none => s
  | some o =>
    let t := tdOf o.d
    if !codes t.op || !s.mayStart p o then s else
    match s.group p t with
    | none => s.rejectOp p o
    | some gr => if s.tileBad p gr t o.guest then s.rejectOp p o else f s (s.begin o) t gr

/-- Fold an operation over its cells, joining their statuses into the operation (R75). -/
def State.eachCell (s : State) (o : TileOp) (gr : List Pos) (f : State → TileOp → Pos → State × Nat) :
    State × TileOp :=
  gr.foldl (fun (a : State × TileOp) q =>
    if q.c ∈ a.2.bad then a else
    match f a.1 a.2 q with
    | (s, st) => (s, if st = 0 then a.2 else { a.2 with status := max a.2.status st, bad := a.2.bad ++ [q.c] })) (s, o)

/-! ### MMA -/

/-- START in one cell: the slot, and for LONG the reserve slot, become +0 (R65, R68, R136). -/
def State.startCell (s : State) (g : GridCtx) : State :=
  let s := s.clearSlot g.tag g.pos.c g.slot
  let s := if g.t.long then
      let s := s.clearSlot g.tag g.pos.c 7
      s.setSlotSt g.pos.c g.slot { s.slotSt g.pos.c g.slot with long := true }
    else s
  s.tamClear g

/-- After the last pass in one cell: masks, the comparison and the long-sum addition (R65, R113, R138); whether an uncorrectable
word of the reserve slot stopped the cell before the addition, which then changes neither slot (R87; an addition stops as a
pass does: DEDUCED, log entry 37). START with LONG in the same command (`fresh`) has just written that slot. -/
def State.lastPass (s : State) (env : Env) (g : GridCtx) (fresh : Bool) : State × Bool :=
  let s := s.maskSlot g
  let s := if g.t.finish then s.tamCompare g else s
  if !(g.t.segEnd || (g.t.finish && g.t.long)) then (s, false) else
  match s.sramLook env g.pos.c g.slot g.t.op g.t.step
      (if fresh then [] else (upFrom 0 64).flatMap (rowSites g.pos.c 7)) with
  | (s, true) => (s, true)
  | (s, false) => (s.segEnd g, false)

/-- Run `f` in every cell of a group that has not stopped; it answers with the cells' state and whether the cell stops, which
gives the operation SRAM_UE (R87). -/
def State.liveCells (s : State) (o : TileOp) (gr : List Pos) (f : State → TileOp → Pos → State × TileOp × Bool) :
    State × TileOp :=
  gr.foldl (fun (a : State × TileOp) q =>
    if q.c ∈ a.2.bad then a else
    match f a.1 a.2 q with
    | (s, o, stop) => (s, if stop then { o with status := max o.status 2, bad := o.bad ++ [q.c] } else o)) (s, o)

/-- Passes `k` to `k + n - 1` of an MMA in every cell that has not stopped, and what follows the last one. A sampled chain whose
group has failed by then is abandoned, not compared (R137). -/
def State.mmaRun (s : State) (env : Env) (o : TileOp) (t : Td) (gr : List Pos) (fresh : Bool) (k n : Nat) :
    State × TileOp :=
  match s.liveCells o gr (fun s o q =>
    match s.passes env (gridCtx o t q) o.sr o.part o.guest fresh k n with
    | (s, m, stop) => (s, { o with made := sput 0 o.made q.c (sget 0 o.made q.c + m) }, stop)) with
  | (s, o) =>
    if k + n < t.k then (s, o) else
    let s := if o.status = 0 then s else s.tamBreak gr o.part [physSlot o.guest t.slot]
    s.liveCells o gr fun s o q =>
      match s.lastPass env (gridCtx o t q) fresh with
      | (s, stop) => (s, o, stop)

/-- MMA: the passes of C += A·B in every cell of the group (R55, R65, R69, R135). -/
def State.runMma (s : State) (env : Env) (o : TileOp) (t : Td) (gr : List Pos) (p : Nat) : State :=
  let s := s.tamStart p gr o t
  let s := if t.start then gr.foldl (fun s q => s.startCell (gridCtx o t q)) s else s
  match s.mmaRun env o t gr t.start 0 t.k with
  | (s, o) => if t.finish then s.setOp p { o with phase := 2, t2 := s.ns } else s.opDone p { o with t2 := s.ns }

/-- MMA, and the reserved opcodes, which are malformed (R69, R72). -/
def doMma (p : Nat) (env : Env) (s : State) : State :=
  s.startOp p (fun c => c = 1 || c = 0 || decide (8 < c)) fun s o t gr => s.runMma env o t gr p

def execMma (p : Nat) (env : Env) (s : State) : Host.Outcome State Fault Refusal := done (doMma p env s)

/-! ### The other opcodes -/

/-- OUT: the output path on the slot, with no passes (R69). -/
def doOut (p : Nat) (_env : Env) (s : State) : State :=
  s.startOp p (fun c => c = 2) fun s o _ _ => s.setOp p { o with phase := 2, t2 := s.ns }

def execOut (p : Nat) (env : Env) (s : State) : Host.Outcome State Fault Refusal := done (doOut p env s)

/-- The 2048 FP32 partials read for a cell, row by row: 64 rows of 128 bytes (R69). -/
def State.readPart (s : State) (env : Env) (part : Nat) (q : Pos) (va pitch : Nat) : State × Resp × List Nat :=
  (upFrom 0 64).foldl (fun (a : State × Resp × List Nat) i =>
    match a.1.readVa env (cellRq (q.c / 16) part) (va + q.row i * pitch + 128 * q.v) 128 with
    | (s, r, d) => (s, a.2.1.join r, a.2.2 ++ (upFrom 0 32).map fun j => leAt d (4 * j) 4)) (s, .okay, [])

/-- ACC_LOAD in one cell (R69, R88); a NaN comes into the slot as the canonical one, since the device passes no payload or sign
on (R29; DEDUCED, log entry 37). -/
def State.loadAcc (s : State) (env : Env) (o : TileOp) (t : Td) (q : Pos) : State × Nat :=
  let slot := physSlot o.guest t.slot
  let tag := ownTag o.part o.guest
  match s.readPart env o.part q t.outVa t.outPitch with
  | (s, .okay, l) =>
    let s := s.accPutAll tag q.c slot (l.map canonNan)
    (s.setSlotSt q.c slot { s.slotSt q.c slot with count := t.k, ovf := none }, 0)
  | (s, _, _) => ((s.clearSlot tag q.c slot).celErr 6 q.c slot t.op t.step, 3)

/-- Run an opcode that has no output path after it on the operation's cells. -/
def State.runPlain (s : State) (o : TileOp) (t : Td) (gr : List Pos) (p : Nat)
    (f : State → TileOp → Pos → State × Nat) : State :=
  let s := s.tamBreak gr o.part [physSlot o.guest t.slot]
  match s.eachCell o gr f with
  | (s, o) => s.opDone p { o with t2 := s.ns }

/-- ACC_LOAD. -/
def State.runAccLoad (s : State) (env : Env) (o : TileOp) (t : Td) (gr : List Pos) (p : Nat) : State :=
  s.runPlain o t gr p fun s o q => s.loadAcc env o t q

/-- ACC_LOAD: partials come back from memory into the slot, or values into a part of it (R62, R69, R98). -/
def doAccLoad (p : Nat) (env : Env) (s : State) : State :=
  s.startOp p (fun c => c = 3) fun s o t gr => s.runAccLoad env o t gr p

def execAccLoad (p : Nat) (env : Env) (s : State) : Host.Outcome State Fault Refusal := done (doAccLoad p env s)

/-- ACC_STORE in one cell: 64 rows of 128 bytes, stopping before an uncorrectable row (R69, R87, R88). -/
def State.storeAcc (s : State) (env : Env) (o : TileOp) (t : Td) (q : Pos) : State × Nat :=
  let slot := physSlot o.guest t.slot
  let tag := ownTag o.part o.guest
  let stop := rowsBefore env (rowSites q.c slot) 0 64
  let a := (upFrom 0 stop).foldl (fun (a : State × Resp) i =>
    match a.1.writeVa env (cellRq (q.c / 16) o.part) (t.outVa + q.row i * t.outPitch + 128 * q.v)
        ((upFrom 0 32).flatMap fun j => toLe 4 (a.1.accGet tag q.c slot i j)) with
    | (s, r) => (s, a.2.join r)) (s, .okay)
  a.1.rowErrs env (rowSites q.c slot) q.c slot t.op t.step 0 stop 64 (decide (a.2 = .okay))

/-- ACC_STORE. -/
def State.runAccStore (s : State) (env : Env) (o : TileOp) (t : Td) (gr : List Pos) (p : Nat) : State :=
  (s.reportOvf o t gr (physSlot o.guest t.slot)).runPlain o t gr p fun s o q => s.storeAcc env o t q

/-- ACC_STORE: the slot is written to memory, after its overflow flag is reported (R62, R69, R82). -/
def doAccStore (p : Nat) (env : Env) (s : State) : State :=
  s.startOp p (fun c => c = 4) fun s o t gr => s.runAccStore env o t gr p

def execAccStore (p : Nat) (env : Env) (s : State) : Host.Outcome State Fault Refusal := done (doAccStore p env s)

/-- CLEAR (R69). -/
def State.runClear (s : State) (o : TileOp) (t : Td) (gr : List Pos) (p : Nat) : State :=
  s.runPlain o t gr p fun s o q => (s.clearSlot (ownTag o.part o.guest) q.c (physSlot o.guest t.slot), 0)

/-- CLEAR: the slot is cleared in every cell of the group (R69). -/
def doClear (p : Nat) (_env : Env) (s : State) : State :=
  s.startOp p (fun c => c = 5) fun s o t gr => s.runClear o t gr p

def execClear (p : Nat) (env : Env) (s : State) : Host.Outcome State Fault Refusal := done (doClear p env s)

/-- TABLE_LOAD (R86). -/
def State.runTableLoad (s : State) (env : Env) (o : TileOp) (t : Td) (gr : List Pos) (p : Nat) : State :=
  match s.eachCell o gr (fun s o q => s.loadTable env o t q) with
  | (s, o) => s.opDone p { o with t2 := s.ns }

/-- TABLE_LOAD: the file is read, checked and loaded into a pair of every cell of the group (R86). -/
def doTableLoad (p : Nat) (env : Env) (s : State) : State :=
  s.startOp p (fun c => c = 6) fun s o t gr => s.runTableLoad env o t gr p

def execTableLoad (p : Nat) (env : Env) (s : State) : Host.Outcome State Fault Refusal := done (doTableLoad p env s)

/-- The source elements of a TIE_SUM in a cell's part, inside the extent (R100). -/
def State.tieSource (s : State) (env : Env) (part : Nat) (t : Td) (q : Pos) : State × Resp × List (List Nat) :=
  (upFrom 0 64).foldl (fun (a : State × Resp × List (List Nat)) i =>
    let n := min 32 (t.cols - 32 * q.v)
    if t.rows ≤ q.row i ∨ n = 0 then (a.1, a.2.1, a.2.2 ++ [[]]) else
    let z := fmtSize t.afmt
    match a.1.readVa env (cellRq (q.c / 16) part) (t.saveVa + q.row i * t.savePitch + 32 * q.v * z) (n * z) with
    | (s, r, d) =>
      (s, a.2.1.join r, a.2.2 ++ [(upFrom 0 n).map fun j => widen t.afmt (leAt d (j * z) z)])) (s, .okay, [])

/-- TIE_SUM in one cell (R87, R100, R102). -/
def State.tieCell (s : State) (env : Env) (o : TileOp) (t : Td) (q : Pos) : State × Nat :=
  let g := gridCtx o t q
  let rows := if t.start then [] else (upFrom 0 64).flatMap (rowSites q.c g.slot)
  let s := if t.start then s.clearSlot g.tag q.c g.slot else s
  match s.sramLook env q.c g.slot t.op t.step rows with
  | (s, true) => (s, 2)
  | (s, false) =>
  match s.tieSource env o.part t q with
  | (s, .okay, src) =>
    let old := s.accAll g.tag q.c g.slot
    let inside := fun n => decide (n % 32 < (src.getD (n / 32) []).length)
    let add := fun n => (src.getD (n / 32) []).getD (n % 32) 0
    let new := (upFrom 0 2048).map fun n => if inside n then fadd (old.getD n 0) (add n) else old.getD n 0
    let s := s.accPutAll g.tag q.c g.slot new
    (match (upFrom 0 2048).find? fun n =>
        inside n && ffin (old.getD n 0) && ffin (add n) && !ffin (new.getD n 0) with
      | some n => s.setOvf q.c g.slot (q.row (n / 32)) (q.col (n % 32))
      | none => s, 0)
  | (s, _, _) => ((s.clearSlot g.tag q.c g.slot).celErr 6 q.c g.slot t.op t.step, 3)

/-- TIE_SUM. A read error in one cell clears that cell's slot and leaves the sums of the others; with FINISH no cell then runs the
output path, since the operation completes READ_ERR and is issued anew (R102 speaks of one slot: DESIGN CHOICE, log entry
37). -/
def State.runTieSum (s : State) (env : Env) (o : TileOp) (t : Td) (gr : List Pos) (p : Nat) : State :=
  let s := s.tamBreak gr o.part [physSlot o.guest t.slot]
  match s.eachCell o gr (fun s o q => s.tieCell env o t q) with
  | (s, o) =>
    if t.finish && o.status ≠ 3 then s.setOp p { o with phase := 2, t2 := s.ns } else s.opDone p { o with t2 := s.ns }

/-- TIE_SUM: one gradient slot is added into a tile slot, with the output path on FINISH (R100 to R102). -/
def doTieSum (p : Nat) (env : Env) (s : State) : State :=
  s.startOp p (fun c => c = 7) fun s o t gr => s.runTieSum env o t gr p

def execTieSum (p : Nat) (env : Env) (s : State) : Host.Outcome State Fault Refusal := done (doTieSum p env s)

/-! ### ATT_RESCALE (R116, R117) -/

/-- The cells of a logical row in ascending column order, and the row within them. -/
def rowCells (gr : List Pos) (r : Nat) : List Pos := gr.filter fun q => q.u = r / 64

/-- The scores of a logical row, all its columns. -/
def State.rowVals (s : State) (tag slot : Nat) (gr : List Pos) (r : Nat) : List Nat :=
  (rowCells gr r).flatMap fun q => (upFrom 0 32).map fun j => s.accGet tag q.c slot (r % 64) j

/-- The exp of the named pair in the first cell of the row: a row is computed once for all its cells, and where they hold
different tables the spec does not say whose counts (DESIGN CHOICE, log entry 37). -/
def State.attExp (s : State) (gr : List Pos) (r i x : Nat) : Nat :=
  match (rowCells gr r).head? with
  | none => 0
  | some q => match s.pairOf q.c i with
    | none => 0
    | some p => p.evalFn x

/-- What one logical row gives: the row to emit, and for STEP the new m, l and the factor of O. -/
structure AttRow where
  out : List Nat
  m : Nat
  l : Nat
  alpha : Nat
  deriving DecidableEq, Repr

/-- STEP for one logical row (R117). -/
def State.attStep (s : State) (t : Td) (tag slot : Nat) (gr : List Pos) (r : Nat) : AttRow :=
  let x := s.rowVals tag slot gr r
  let c := ((rowCells gr r).head?.map (·.c)).getD 0
  let m0 := if t.start then fNegInf else s.accGet tag c 7 (r % 64) 0
  let l0 := if t.start then 0 else s.accGet tag c 7 (r % 64) 1
  let m1 := (x.take t.cols).foldl fmaximum m0
  let p := (upFrom 0 x.length).map fun j =>
    if t.cols ≤ j ∨ m1 = fNegInf then 0 else s.attExp gr r t.pair (fsub (x.getD j 0) m1)
  let alpha := if m1 = fNegInf then fOne else s.attExp gr r t.pair (fsub m0 m1)
  let ps := (p.take t.cols).foldl fadd 0
  ⟨p, m1, fma32 alpha l0 ps, alpha⟩

/-- NORM for one logical row: O divided by l (R117). -/
def State.attNorm (s : State) (tag oslot : Nat) (gr : List Pos) (r : Nat) : AttRow :=
  let c := ((rowCells gr r).head?.map (·.c)).getD 0
  let m := s.accGet tag c 7 (r % 64) 0
  let l := s.accGet tag c 7 (r % 64) 1
  ⟨(s.rowVals tag oslot gr r).map fun o => if (fv l).isZero then 0 else fdiv o l, m, l, 0⟩

/-- REPLAY_P and REPLAY_DS for one logical row, from its statistics m, l and D (R117). -/
def State.attReplay (s : State) (t : Td) (tag slot oslot : Nat) (gr : List Pos) (r m l d : Nat) : AttRow :=
  let x := s.rowVals tag slot gr r
  let o := s.rowVals tag oslot gr r
  let rcp := if (fv l).isZero ∨ m = fNegInf then 0 else fdiv fOne l
  let p := (upFrom 0 x.length).map fun j =>
    if (fv rcp).isZero ∨ t.cols ≤ j then 0 else fmul (s.attExp gr r t.pair (fsub (x.getD j 0) m)) rcp
  ⟨(upFrom 0 x.length).map fun j =>
    if t.attOp = 2 then p.getD j 0 else fmul (p.getD j 0) (fsub (o.getD j 0) d), m, l, 0⟩

/-- The row-statistics rows of the extent, read from memory (R116). -/
def State.readStats (s : State) (env : Env) (rq : Rq) (t : Td) : State × Resp × List (List Byte) :=
  (upFrom 0 t.rows).foldl (fun (a : State × Resp × List (List Byte)) r =>
    match a.1.readVa env rq (t.saveVa + r * t.savePitch) 16 with
    | (s, x, d) => (s, a.2.1.join x, a.2.2 ++ [d])) (s, .okay, [])

/-- The row-statistics rows of the extent, written (R117). -/
def State.writeStats (s : State) (env : Env) (rq : Rq) (t : Td) (rows : List AttRow) : State × Resp :=
  (upFrom 0 t.rows).foldl (fun (a : State × Resp) r =>
    let x := rows.getD r ⟨[], 0, 0, 0⟩
    match a.1.writeVa env rq (t.saveVa + r * t.savePitch) (toLe 4 x.m ++ toLe 4 x.l ++ zeros 8) with
    | (s, y) => (s, a.2.join y)) (s, .okay)

/-- What STEP stores in a cell for its rows before `stop`: m and l in the reserve slot, and O rescaled (R116, R117). With START
all of O and of the reserve slot's rows is written (R87). -/
def State.stepCell (s : State) (g : GridCtx) (oslot stop : Nat) (rows : List AttRow) : State :=
  let c := g.pos.c
  let row := fun i => rows.getD (64 * g.pos.u + i) ⟨[], 0, 0, 0⟩
  let o := (upFrom 0 2048).map fun n =>
    let v := s.accGet g.tag c oslot (n / 32) (n % 32)
    if g.t.start then 0 else if n / 32 < stop then fmul v (row (n / 32)).alpha else v
  let s := (upFrom 0 stop).foldl (fun s i => (s.accPut g.tag c 7 i 0 (row i).m).accPut g.tag c 7 i 1 (row i).l) s
  let s := s.accPutAll g.tag c oslot o
  if g.t.start then s.setSlotSt c oslot { s.slotSt c oslot with count := 0, ovf := none } else s

/-- What NORM stores in a cell for its rows before `stop`: O divided (R117). -/
def State.normCell (s : State) (g : GridCtx) (oslot stop : Nat) (rows : List AttRow) : State :=
  s.accPutAll g.tag g.pos.c oslot ((upFrom 0 2048).map fun n =>
    if n / 32 < stop then (rows.getD (64 * g.pos.u + n / 32) ⟨[], 0, 0, 0⟩).out.getD (32 * g.pos.v + n % 32) 0
    else s.accGet g.tag g.pos.c oslot (n / 32) (n % 32))

/-- The words that a cell reads for row `i` of an ATT_RESCALE: of S but for NORM, of O but for REPLAY_P and a STEP with START, and
of the reserve slot for NORM and a STEP without START (R87, R117). -/
def attSites (t : Td) (guest : Bool) (c i : Nat) : List Site :=
  (if t.attOp = 1 then [] else rowSites c (physSlot guest t.slot) i)
    ++ (if t.attOp = 2 || t.start then [] else rowSites c (physSlot guest t.oSlot) i)
    ++ (if t.attOp < 2 && !t.start then rowSites c 7 i else [])

/-- One cell of an ATT_RESCALE: what it stores, then stages 3 and 4 of its part, for the rows before the first that reads an
uncorrectable word (R87). -/
def State.attCell (s : State) (env : Env) (o : TileOp) (t : Td) (rows : List AttRow) (q : Pos) : State × Nat :=
  let g := gridCtx o t q
  let os := physSlot o.guest t.oSlot
  let stop := rowsBefore env (attSites t o.guest q.c) 0 64
  let s := if t.attOp = 0 then s.stepCell g os stop rows else if t.attOp = 1 then s.normCell g os stop rows else s
  match s.stage34 env o t q 0 stop true ((upFrom 0 2048).map fun n =>
    (rows.getD (64 * q.u + n / 32) ⟨[], 0, 0, 0⟩).out.getD (32 * q.v + n % 32) 0) with
  | (s, good) => s.rowErrs env (attSites t o.guest q.c) q.c g.slot t.op t.step 0 stop 64 good

/-- The rows an ATT_RESCALE computes, from the statistics rows that REPLAY has read. -/
def State.attRows (s : State) (o : TileOp) (t : Td) (gr : List Pos) (st : List (List Byte)) : List AttRow :=
  let tag := ownTag o.part o.guest
  let ss := physSlot o.guest t.slot
  let os := physSlot o.guest t.oSlot
  (upFrom 0 (64 * (geomDims t.geom).1)).map fun r =>
    match t.attOp with
    | 0 => s.attStep t tag ss gr r
    | 1 => s.attNorm tag os gr r
    | _ =>
      let d := st.getD r []
      s.attReplay t tag ss os gr r (leAt d 0 4) (leAt d 4 4) (leAt d 8 4)

/-- ATT_RESCALE. -/
def State.runAtt (s : State) (env : Env) (o : TileOp) (t : Td) (gr : List Pos) (p : Nat) : State :=
  let s := s.tamBreak gr o.part [physSlot o.guest t.slot, physSlot o.guest t.oSlot]
  let rd := if 2 ≤ t.attOp then s.readStats env (cellRq p o.part) t else (s, .okay, [])
  let c0 := ((gr.head?).map (·.c)).getD 0
  if rd.2.1 ≠ .okay then
    (rd.1.celErr 6 c0 (physSlot o.guest t.slot) t.op t.step).opDone p { o with status := 3, t2 := s.ns }
  else
    let rows := rd.1.attRows o t gr rd.2.2
    match rd.1.eachCell o gr (fun s o q => s.attCell env o t rows q) with
    | (s, o) =>
      let w := if t.save then s.writeStats env (cellRq p o.part) t rows else (s, .okay)
      let o := { o with t2 := s.ns, t3 := s.ns }
      if w.2 = .okay then w.1.opDone p o
      else (w.1.celErr 5 c0 (physSlot o.guest t.slot) t.op t.step).opDone p { o with status := max o.status 4 }

/-- ATT_RESCALE: STEP, NORM, REPLAY_P or REPLAY_DS, as its ATT_OP says, over the rows of the group (R116 to R118). -/
def doAttRescale (p : Nat) (env : Env) (s : State) : State :=
  s.startOp p (fun c => c = 8) fun s o t gr => s.runAtt env o t gr p

def execAttRescale (p : Nat) (env : Env) (s : State) : Host.Outcome State Fault Refusal :=
  done (doAttRescale p env s)

/-! ### The output path -/

/-- The slot that the output path of an operation reads (R65). -/
def outSrc (o : TileOp) (t : Td) : Nat := if t.op = 1 && t.long then 7 else physSlot o.guest t.slot

/-- Run `n` more rows of the output path of an operation that waits for it; after row 63 it has finished. A FINISH with LONG
removes the long-sum mark in every cell of the group, one that an uncorrectable error has stopped too (the spec does not say:
DESIGN CHOICE, log entry 37). -/
def State.runOutput (s : State) (env : Env) (p n : Nat) (o : TileOp) : State :=
  let t := tdOf o.d
  match s.group p t with
  | none => s
  | some gr =>
    let r1 := min 64 (o.outRow + n)
    let s := if o.outRow = 0 then s.reportOvf o t (gr.filter fun q => q.c ∉ o.bad) (outSrc o t) else s
    match s.liveCells o gr (fun s x q =>
      match s.outCell env x (gridCtx x t q) (outSrc x t) o.outRow r1 with
      | (s, st, stop) => (s, { x with status := max x.status st }, stop)) with
    | (s, o) =>
      if r1 < 64 then s.setOp p { o with outRow := r1 } else
      let s := if t.op = 1 && t.long then gr.foldl (fun s q =>
          s.setSlotSt q.c (physSlot o.guest t.slot) { s.slotSt q.c (physSlot o.guest t.slot) with long := false }) s
        else s
      s.opDone p { o with outRow := r1, t3 := s.ns }

/-- The owner has work for a cell that the guest's head operation uses (R385). -/
def State.ownerWants (s : State) (p : Nat) (o : TileOp) : Bool :=
  (s.poolSt p).queue.any fun e => e.phase ≠ 3 && overlap (s.group p (tdOf e.d)) (s.group p (tdOf o.d))

/-- OUTPUT_PATH: the rows that are left of the oldest operation that waits for the output path (R74, R78); a guest's while the
owner has nothing for its cells (R77, R385). -/
def doOutputPath (p : Nat) (guest : Bool) (env : Env) (s : State) : State :=
  if s.stopped then s else
  match ((s.poolSt p).ops guest).find? fun o => o.phase = 2 with
  | none => s
  | some o =>
    if !guest then s.runOutput env p 64 o
    else if s.ownerWants p o then s
    else (s.setPool p { s.poolSt p with grun := true }).runOutput env p 64 o

def execOutputPath (p : Nat) (guest : Bool) (env : Env) (s : State) : Host.Outcome State Fault Refusal :=
  done (doOutputPath p guest env s)

/-! ### Guest operations and completion -/

/-- The guest issue unit reads the descriptors that its queue of 16 has room for, at most `n` (R384). -/
def State.guestFill (s : State) (env : Env) (p : Nat) : Nat → State
  | 0 => s
  | n + 1 =>
    let x := s.poolSt p
    match x.gwork with
    | none => s
    | some w =>
      if w.stopped ∨ w.count ≤ w.next ∨ 16 ≤ x.gqueue.length then s else
      let part := w.ticket.fn - 1
      match s.readVa env (otherRq part (.tier (p / 16))) (w.va + 128 * w.next) 128 with
      | (s, .okay, d) =>
        let o : TileOp := { id := s.cell.nextOp, part := part, guest := true, d := d, t0 := s.ns }
        let s := s.withCell fun c => { c with nextOp := c.nextOp + 1 }
        (s.setPool p { s.poolSt p with gqueue := (s.poolSt p).gqueue ++ [o],
                                       gwork := some { w with next := w.next + 1 } }).guestFill env p n
      | (s, _, _) => s.setPool p { s.poolSt p with gwork := some { w with stopped := true, worst := 7 } }

/-- A guest work order with nothing left to run completes with class 1 (R384). -/
def State.guestSettle (s : State) (env : Env) (p : Nat) : State :=
  let x := s.poolSt p
  match x.gwork with
  | none => s
  | some w =>
    if x.gqueue = [] ∧ (w.stopped ∨ w.count ≤ w.next) then
      (s.setPool p { x with gwork := none, grun := false }).complete env w.ticket 1 w.worst p
    else s

/-- The slot counters and tag record of a completed operation (R477 to R479). -/
def State.opRecords (s : State) (env : Env) (p : Nat) (o : TileOp) : State :=
  let t := tdOf o.d
  let clk := if isNb8 t.afmt then 16 else 64
  let s := { s with pwr := { s.pwr with ran := s.pwr.ran ++ [(o.part, ((s.group p t).getD []).map Pos.c)] } }
  let s := o.made.foldl (fun s e => s.countCell e.1 (if o.status = 0 then 0 else 1) (clk * e.2)) s
  let s := s.count 0x0201 p (ofPart o.part) 1
  if o.tagged then
    s.tagRecord env (toLe 1 1 ++ toLe 1 o.status ++ toLe 1 p ++ toLe 1 (o.part + 64 * b2n o.guest) ++ toLe 1 t.op
      ++ toLe 1 t.geom ++ toLe 2 t.k ++ toLe 8 t.tag ++ toLe 8 o.t0 ++ toLe 8 o.t1 ++ toLe 8 o.t2 ++ toLe 8 o.t3
      ++ toLe 8 s.ns)
  else s

/-- Complete operation `o` of a pool (R75, R152, R384). -/
def State.finishOp (s : State) (env : Env) (p : Nat) (o : TileOp) : State :=
  let s := s.opRecords env p o
  let t := tdOf o.d
  let x := s.poolSt p
  if o.guest then
    let s := s.setPool p { x with gqueue := x.gqueue.filter (fun y => y.id ≠ o.id), grun := false,
                                  gwork := x.gwork.map fun w => { w with worst := max w.worst o.status } }
    (s.guestFill env p 16).guestSettle env p
  else
    s.setPool p { x with queue := x.queue.filter (fun y => y.id ≠ o.id),
                         cpls := x.cpls ++ [⟨t.tag, o.status, t.op, t.slot⟩] }

/-- TILE_OP_COMPLETE: the `i`-th operation of the queue completes when it has finished and its reports have
reached the merger, or ABORTED when it is the next one and a guard that covers it has failed (R75, R108,
R120, R442). -/
def doTileOpComplete (p : Nat) (guest : Bool) (i : Nat) (env : Env) (s : State) : State :=
  if s.stopped then s else
  match ((s.poolSt p).ops guest)[i]? with
  | none => s
  | some o =>
    if o.phase = 3 ∧ !(s.sta.reports.any fun r => r.op = o.id) then s.finishOp env p o
    else if (s.poolSt p).nextOp guest = some o ∧ s.guardFailed p o then
      (s.opDone p { o with status := 6 }).finishOp env p { o with status := 6 }
    else s

def execTileOpComplete (p : Nat) (guest : Bool) (i : Nat) (env : Env) (s : State) :
    Host.Outcome State Fault Refusal :=
  done (doTileOpComplete p guest i env s)

/-- GUEST_YIELD: the guest's operation gives its cells up at a pass or row boundary (R77). -/
def doGuestYield (p : Nat) (s : State) : State :=
  let x := s.poolSt p
  match x.gqueue.head? with
  | none => s
  | some o => if x.grun && s.ownerWants p o then s.setPool p { x with grun := false } else s

def execGuestYield (p : Nat) (s : State) : Host.Outcome State Fault Refusal := done (doGuestYield p s)

/-- Run `n` more passes of a guest MMA that has started. -/
def State.guestPasses (s : State) (env : Env) (p : Nat) (o : TileOp) (t : Td) (gr : List Pos) (fresh : Bool) (n : Nat) :
    State :=
  let n := min n (t.k - o.passes)
  match s.mmaRun env o t gr fresh o.passes n with
  | (s, o) =>
    let k := o.passes + n
    if k < t.k then s.setOp p { o with passes := k, phase := 1 }
    else if t.finish then s.setOp p { o with passes := k, phase := 2, t2 := s.ns }
    else s.opDone p { o with passes := k, t2 := s.ns }

/-- Start a guest operation whose group and descriptor are good: an MMA makes `n` passes, any other opcode
runs whole. -/
def State.guestStart (s : State) (env : Env) (p n : Nat) (o : TileOp) (t : Td) (gr : List Pos) : State :=
  let s := s.setPool p { s.poolSt p with grun := true }
  match t.op with
  | 1 =>
    let s := s.tamStart p gr o t
    let s := if t.start then gr.foldl (fun s q => s.startCell (gridCtx o t q)) s else s
    s.guestPasses env p o t gr t.start n
  | 2 => s.setOp p { o with phase := 2, t2 := s.ns }
  | 3 => s.runAccLoad env o t gr p
  | 4 => s.runAccStore env o t gr p
  | 5 => s.runClear o t gr p
  | 6 => s.runTableLoad env o t gr p
  | 7 => s.runTieSum env o t gr p
  | _ => s.runAtt env o t gr p

/-- GUEST_TILE_ISSUE: the head of the guest's queue starts, or resumes from where it stood for `n` passes or output rows, when
the owner has nothing for its cells (R77, R385). From step 4 of its partition's reset on only one that has started goes on
(R76, R375). -/
def doGuestTileIssue (p n : Nat) (env : Env) (s : State) : State :=
  if s.stopped then s else
  match (s.poolSt p).gqueue.head? with
  | none => s
  | some o =>
    let t := tdOf o.d
    if s.ownerWants p o
        ∨ (o.phase = 0 ∧ ((sget {} s.prt.resets o.part).phase ≥ 4 ∨ s.heldByBarrier o.part p)) then s else
    match s.group p t with
    | none => s.rejectOp p o
    | some gr =>
      if o.phase = 0 then
        if s.tileBad p gr t true then s.rejectOp p o else s.guestStart env p n (s.begin o) t gr
      else if o.phase = 1 then
        (s.setPool p { s.poolSt p with grun := true }).guestPasses env p o t gr false n
      else if o.phase = 2 then (s.setPool p { s.poolSt p with grun := true }).runOutput env p n o
      else s

def execGuestTileIssue (p n : Nat) (env : Env) (s : State) : Host.Outcome State Fault Refusal :=
  done (doGuestTileIssue p n env s)

end Sys2Proof.Machine
end

