-- ==== Sys2Proof/Machine/Numerics.lean ====
section
/-! DEFINITION. The statistics merger: reports, step closes, silent gradients, the scale ledger, and the
outcomes of the Tile Agreement Monitor (spec/05 R119 to R133, R139 to R143). -/

namespace Sys2Proof.Machine

/-- Class 9: the merger, in the plinth, which competes for memory as the partition whose tables it works on (R119, R124). -/
def staRq (part : Nat) : Rq := ⟨9, part, part, .plinth⟩

/-- An error of the merger for partition `part`, 64 being a command through the physical function (R142,
R143). -/
def State.staErr (s : State) (b part step tensor : Nat) : State :=
  s.errIn .staErrSts .staErrFirst b
    (pack [(F.STA_EF_STEP, step), (F.STA_EF_TENSOR, tensor), (F.STA_EF_VALID, 1), (F.STA_EF_CAUSE, b)])
    (if part < 64 then s.views part else [0]) 0

/-- An error of the monitor (R139, R140, R143). -/
def State.tamErr (s : State) (b part step tensor : Nat) : State :=
  s.errIn .tamErrSts .tamErrFirst b
    (pack [(F.TAM_EF_STEP, step), (F.TAM_EF_TENSOR, tensor), (F.TAM_EF_VALID, 1), (F.TAM_EF_CAUSE, b)])
    (s.views part) 0

/-- Step `a` is after step `b` (R123). -/
def stepAfter (a b : Nat) : Bool := 0 < signed 32 (a + 2 ^ 32 - b % 2 ^ 32)

/-- Entries of the statistics table of a view (R141). -/
def State.staLen (s : State) (v : Nat) : Nat := min 65536 (s.fld F.STA_TABLE_LEN v 0)

/-- Partition virtual address of statistics entry `i` (R121). -/
def State.staVa (s : State) (v i : Nat) : Nat := s.fld F.STA_TABLE_VA v 0 * 64 + 64 * i

/-- Partition virtual address of ledger entry `i` (R127). -/
def State.ledgerVa (s : State) (v i : Nat) : Nat := s.staVa v (s.staLen v) + 96 * i

/-- A statistics entry (R122). -/
structure StaEnt where
  flags : Nat
  run : Nat
  state : Nat
  rsvd : Nat
  openStep : Nat
  closedStep : Nat
  elems : Nat
  zeros : Nat
  flush : Nat
  sat : Nat
  nonfin : Nat
  amax : Nat
  lastAmax : Nat
  tail : Nat
  deriving DecidableEq, Repr

/-- An entry from its bytes. -/
def staEnt (d : List Byte) : StaEnt :=
  ⟨leAt d 0 2, leAt d 2 2, leAt d 4 1 % 8, leAt d 5 3, leAt d 8 4, leAt d 12 4, leAt d 16 8, leAt d 24 8, leAt d 32 8,
    leAt d 40 8, leAt d 48 4, leAt d 52 4, leAt d 56 4, leAt d 60 4⟩

/-- The bytes of an entry; reserved bytes keep what they held. -/
def StaEnt.bytes (e : StaEnt) : List Byte :=
  toLe 2 e.flags ++ toLe 2 e.run ++ toLe 1 e.state ++ toLe 3 e.rsvd ++ toLe 4 e.openStep ++ toLe 4 e.closedStep
    ++ toLe 8 e.elems ++ toLe 8 e.zeros ++ toLe 8 e.flush ++ toLe 8 e.sat ++ toLe 4 e.nonfin ++ toLe 4 e.amax
    ++ toLe 4 e.lastAmax ++ toLe 4 e.tail

/-- open() of R123. -/
def StaEnt.open_ (e : StaEnt) (step : Nat) : StaEnt :=
  { e with elems := 0, zeros := 0, flush := 0, sat := 0, nonfin := 0, amax := 0, openStep := step,
           state := setBits e.state 0 0 1 }

/-- add() of R123; counters saturate (R122). -/
def StaEnt.add (e : StaEnt) (r : Report) : StaEnt :=
  let m := 2 ^ 64 - 1
  { e with elems := satTo m (e.elems + r.elems), zeros := satTo m (e.zeros + r.zeros),
           flush := satTo m (e.flush + r.flush), sat := satTo m (e.sat + r.sat),
           nonfin := satTo (2 ^ 32 - 1) (e.nonfin + r.nonfin), amax := max e.amax r.amax }

/-- What closing a step raises, to be written once the entry is. -/
inductive StaNote where
  | silent (tensor step run elems nz : Nat)
  | cold (tensor step : Nat)
  deriving DecidableEq, Repr

/-- Raise it (R126, R132). -/
def State.staRaise (s : State) (part : Nat) : StaNote → State
  | .silent t step run elems nz =>
    s.event part 0x0102 (toLe 2 t ++ toLe 4 step ++ toLe 2 run ++ toLe 8 elems ++ toLe 8 nz)
  | .cold t step => s.event part 0x0104 (toLe 1 2 ++ toLe 3 1 ++ toLe 2 t ++ toLe 2 t ++ toLe 4 step)

/-- R126 on a closed step: the entry, and GRAD_SILENT when it is raised. -/
def State.silentCheck (s : State) (v tensor : Nat) (e : StaEnt) : StaEnt × List StaNote :=
  let nz := (e.elems + two64 + two64 - e.zeros - e.flush) % two64
  if nz * 65536 < s.fld F.STA_SILENT_FRAC v 0 * e.elems then
    let e := { e with run := satTo 0xFFFF (e.run + 1) }
    if e.run = s.fld F.STA_GRAD_SILENT_STEPS v 0 + 1 ∧ !bit e.state 2 then
      ({ e with state := setBits e.state 2 2 1 }, [.silent tensor e.closedStep e.run e.elems nz])
    else (e, [])
  else ({ e with run := 0, state := setBits e.state 2 2 0 }, [])

/-! ### The scale ledger -/

/-- A ledger entry (R127). -/
structure LgrEnt where
  tensor : Nat
  fill : Nat
  head : Nat
  step : Nat
  ceil : Nat
  rsvd : Nat
  amax : List Nat
  crc : Nat
  tail : Nat
  deriving DecidableEq, Repr

/-- A ledger entry from its bytes. -/
def lgrEnt (d : List Byte) : LgrEnt :=
  ⟨leAt d 0 2, leAt d 2 1, leAt d 3 1, leAt d 4 4, leAt d 8 1, leAt d 9 7,
    (upFrom 0 16).map fun i => leAt d (16 + 4 * i) 4, leAt d 80 4, leAt d 84 12⟩

/-- Bytes 0 to 79 of a ledger entry. -/
def LgrEnt.body (e : LgrEnt) : List Byte :=
  toLe 2 e.tensor ++ toLe 1 e.fill ++ toLe 1 e.head ++ toLe 4 e.step ++ toLe 1 e.ceil ++ toLe 7 e.rsvd
    ++ (upFrom 0 16).flatMap fun i => toLe 4 (e.amax.getD i 0)

/-- The bytes of a ledger entry with its CRC recomputed. -/
def LgrEnt.bytes (e : LgrEnt) : List Byte := e.body ++ toLe 4 (crc32 e.body) ++ toLe 12 e.tail

/-- A cold entry, as step 3 of R131 states; its reserved bytes keep what they held. -/
def LgrEnt.coldAt (e : LgrEnt) (i ledgerStep : Nat) : LgrEnt :=
  { e with tensor := i, fill := 0, head := 0, step := (ledgerStep + 2 ^ 32 - 1) % 2 ^ 32, ceil := 0xFE,
           amax := List.replicate 16 0 }

/-- A record is finite and has its sign bit clear. -/
def amaxOk (w : Nat) : Bool := w < 0x7F800000

/-- ceil_of() of R128, from the FP32 bits of `m`. -/
def ceilOf (m margin : Nat) : Nat :=
  if m = 0 then 0xFE else (max 0 (min 0xFE (log2Mag m + 127 + margin))).toNat

/-- LGR_CEIL as step 3 of R128 sets it. -/
def LgrEnt.ceilFor (e : LgrEnt) (margin : Nat) : Nat :=
  if e.fill = 16 then ceilOf (e.amax.foldl max 0) margin else 0xFE

/-- The push of R128 into an entry whose fields are good. -/
def LgrEnt.push (e : LgrEnt) (amax step margin : Nat) : LgrEnt :=
  let e := { e with amax := e.amax.set e.head amax }
  let e := { e with head := (e.head + 1) % 16, fill := min (e.fill + 1) 16, step := step }
  { e with ceil := e.ceilFor margin }

/-- The ledger push of a closed step (R128). -/
def State.ledgerPush (s : State) (env : Env) (part v i : Nat) (e : StaEnt) : State × List StaNote :=
  let va := s.ledgerVa v i
  match s.readVa env (staRq part) va 96 with
  | (s, .okay, d) =>
    let l := lgrEnt d
    let bad := decide (15 < l.head) || decide (16 < l.fill) || !l.amax.all amaxOk
    let l1 := if bad then l.coldAt i (s.fld F.STA_LEDGER_STEP v 0) else l
    let notes := if bad then [StaNote.cold i e.closedStep] else []
    match s.writeVa env (staRq part) va (l1.push e.lastAmax e.closedStep (s.fld F.STA_LEDGER_MARGIN v 0)).bytes with
    | (s, .okay) => (s, notes)
    | (s, _) => (s.staErr 2 part e.closedStep i, notes)
  | (s, _, _) => (s.staErr 2 part e.closedStep i, [])

/-- close_step() (R124). -/
def State.closeStep (s : State) (env : Env) (part v i : Nat) (e : StaEnt) : State × StaEnt × List StaNote :=
  let e := { e with lastAmax := e.amax, closedStep := e.openStep,
                    state := setBits (setBits e.state 1 1 1) 0 0 0 }
  if e.elems = 0 then (s, e, []) else
  let q := if bit e.flags 0 then (e, []) else s.silentCheck v i e
  if bit e.flags 1 then (s, q.1, q.2) else
  match s.ledgerPush env part v i q.1 with
  | (s, n) => (s, q.1, q.2 ++ n)

/-- Raise what stands whether or not the statistics entry could be written: a ledger entry that was made cold (R128). -/
def State.coldRaise (s : State) (part : Nat) : StaNote → State
  | .silent .. => s
  | .cold t step => s.staRaise part (.cold t step)

/-- Write a statistics entry back and raise what closing it raised. A write error discards the report and the silent run it
would have stored (R123). -/
def State.putSta (s : State) (env : Env) (part v i step : Nat) (e : StaEnt) (notes : List StaNote) : State :=
  match s.writeVa env (staRq part) (s.staVa v i) e.bytes with
  | (s, .okay) => notes.foldl (fun s n => s.staRaise part n) s
  | (s, _) => notes.foldl (fun s n => s.coldRaise part n) (s.staErr 2 part step i)

/-! ### Reports -/

/-- apply() of R123. -/
def State.applyReport (s : State) (env : Env) (r : Report) : State :=
  let v := s.drive r.part
  let len := s.staLen v
  if len = 0 then s
  else if len ≤ r.tensor then s.staErr 1 r.part r.step r.tensor
  else match s.readVa env (staRq r.part) (s.staVa v r.tensor) 64 with
    | (s, .okay, d) =>
      let e := staEnt d
      if bit e.state 0 then
        if r.step = e.openStep then s.putSta env r.part v r.tensor r.step (e.add r) []
        else if stepAfter r.step e.openStep then
          match s.closeStep env r.part v r.tensor e with
          | (s, e, n) => s.putSta env r.part v r.tensor r.step ((e.open_ r.step).add r) n
        else s.staErr 0 r.part r.step r.tensor
      else if !bit e.state 1 || stepAfter r.step e.closedStep then
        s.putSta env r.part v r.tensor r.step ((e.open_ r.step).add r) []
      else s.staErr 0 r.part r.step r.tensor
    | (s, _, _) => s.staErr 2 r.part r.step r.tensor

/-- The reset of a partition has reached the step from which the merger discards its reports (R375). -/
def State.cutOff (s : State) (part : Nat) : Bool := decide (4 ≤ (sget {} s.prt.resets part).phase)

/-! ### Sweeps -/

/-- The partitions that a function's registers govern (R141). -/
def State.governed (s : State) (fn : Nat) : List Nat :=
  if fn = 0 then (upFrom 0 (Config.parts s.part)).filter fun n => s.partEnabled n && !s.vfExists (n + 1)
  else [fn - 1]

/-- Count one entry made cold. -/
def addCold (l : List (Nat × Nat × Nat × Nat)) (part i : Nat) : List (Nat × Nat × Nat × Nat) :=
  if l.any fun e => e.1 = part then
    l.map fun e => if e.1 = part then (part, e.2.1 + 1, min e.2.2.1 i, max e.2.2.2 i) else e
  else l ++ [(part, 1, i, i)]

/-- One entry of a close sweep (R124). -/
def State.closeEntry (s : State) (env : Env) (part v i c : Nat) : State :=
  match s.readVa env (staRq part) (s.staVa v i) 64 with
  | (s, .okay, d) =>
    let e := staEnt d
    if !bit e.state 0 || stepAfter e.openStep c then s else
    match s.closeStep env part v i e with
    | (s, e, n) => s.putSta env part v i c e n
  | (s, _, _) => s.staErr 2 part c i

/-- A ledger entry is valid (R131 step 1). -/
def lgrValid (d : List Byte) (i step : Nat) : Bool :=
  let e := lgrEnt d
  decide (e.crc = crc32 (slice d 0 80)) && decide (e.tensor = i) && decide (e.fill ≤ 16)
    && (if e.fill < 16 then decide (e.head = e.fill) else decide (e.head ≤ 15))
    && !stepAfter e.step ((step + 2 ^ 32 - 1) % 2 ^ 32) && e.amax.all amaxOk

/-- Make a ledger entry cold. -/
def State.makeCold (s : State) (env : Env) (part v i step : Nat) (old : LgrEnt) : State × Bool :=
  match s.writeVa env (staRq part) (s.ledgerVa v i) (old.coldAt i step).bytes with
  | (s, .okay) => (s, true)
  | (s, _) => (s.staErr 2 part step i, true)

/-- One entry of a ledger check or initialisation: whether it was made cold (R131). -/
def State.ledgerEntry (s : State) (env : Env) (kind part v i step : Nat) : State × Bool :=
  match s.readVa env (staRq part) (s.ledgerVa v i) 96 with
  | (s, .okay, d) =>
    let e := lgrEnt d
    if kind = 1 ∧ lgrValid d i step then
      match s.writeVa env (staRq part) (s.ledgerVa v i)
          ({ e with ceil := e.ceilFor (s.fld F.STA_LEDGER_MARGIN v 0) }).bytes with
      | (s, .okay) => (s, false)
      | (s, _) => (s.staErr 2 part step i).makeCold env part v i step e
    else s.makeCold env part v i step e
  | (s, _, _) => (s.staErr 2 part step i).makeCold env part v i step (lgrEnt [])

/-- What runs for the tables of a function. -/
def State.sweep (s : State) (fn : Nat) : Option Sweep := sget none s.sta.sweeps fn

/-- Store it. -/
def State.setSweep (s : State) (fn : Nat) (w : Option Sweep) : State :=
  { s with sta := { s.sta with sweeps := sput none s.sta.sweeps fn w } }

/-- The next `n` steps of what runs for a function: an entry each, or the move to the next partition. -/
def State.sweepRun (s : State) (env : Env) (fn : Nat) : Nat → State
  | 0 => s
  | n + 1 =>
    match s.sweep fn with
    | none => s
    | some w =>
      match w.parts with
      | [] => s
      | p :: rest =>
        if s.staLen fn ≤ w.idx ∨ s.resetting p then
          (s.setSweep fn (some { w with parts := rest, idx := 0 })).sweepRun env fn n
        else
          let r := if w.kind = 0 then (s.closeEntry env p fn w.idx w.step, false)
            else s.ledgerEntry env w.kind p fn w.idx w.step
          let w := { w with idx := w.idx + 1, cold := if r.2 then addCold w.cold p w.idx else w.cold }
          (r.1.setSweep fn (some w)).sweepRun env fn n

/-- Steps that are enough for all of it. -/
def State.sweepFuel (s : State) (fn : Nat) (w : Sweep) : Nat := w.parts.length * (s.staLen fn + 1)

/-- STATS_REPORT: the merger takes the oldest report; `n` entries of a sweep over the partition's tables pass
first, as the sweep is on its way (R119, R120, R123, R124). -/
def doStatsReport (n : Nat) (env : Env) (s : State) : State :=
  if s.stopped then s else
  match s.sta.reports with
  | [] => s
  | r :: rest =>
    let s := { s with sta := { s.sta with reports := rest } }
    if s.cutOff r.part then s else (s.sweepRun env (s.drive r.part) n).applyReport env r

def execStatsReport (n : Nat) (env : Env) (s : State) : Host.Outcome State Fault Refusal :=
  done (doStatsReport n env s)

/-- A close or ledger command runs for a function. -/
def State.staBusy (s : State) (fn : Nat) : Bool := s.flag F.STA_CLOSE_BUSY fn 0 || s.flag F.STA_LEDGER_BUSY fn 0

/-- A command ignored under R142. The spec names no tensor for it, so STA_EF_TENSOR is a free value. -/
def State.staIgnored (s : State) (fn step : Nat) : State :=
  (s.staErr 3 (if fn = 0 then 64 else fn - 1) step (s.freeBits 16)).bump

/-- STA_CLOSE_STEP: a write of the register (R124, R141, R142). -/
def doStaCloseStep (fn value : Nat) (s : State) : State :=
  if !s.fnOpen fn then s
  else if s.staBusy fn then s.staIgnored fn (value % 2 ^ 32)
  else if s.governed fn = [] then s
  else (s.setFld F.STA_CLOSE_BUSY fn 0 1).setSweep fn
    (some { kind := 0, step := value % 2 ^ 32, parts := s.governed fn })

def execStaCloseStep (fn value : Nat) (s : State) : Host.Outcome State Fault Refusal :=
  done (doStaCloseStep fn value s)

/-- STA_CLOSE_SWEEP_END: the sweep passes its last entry and STA_CLOSE_BUSY clears (R124). -/
def doStaCloseSweepEnd (fn : Nat) (env : Env) (s : State) : State :=
  if s.stopped then s else
  match s.sweep fn with
  | none => s
  | some w =>
    if w.kind ≠ 0 then s else
    ((s.sweepRun env fn (s.sweepFuel fn w)).setSweep fn none).setFld F.STA_CLOSE_BUSY fn 0 0

def execStaCloseSweepEnd (fn : Nat) (env : Env) (s : State) : Host.Outcome State Fault Refusal :=
  done (doStaCloseSweepEnd fn env s)

/-- Start a ledger command of kind 1 or 2 (R131, R141, R142). -/
def State.ledgerStart (s : State) (fn kind : Nat) : State :=
  let step := s.fld F.STA_LEDGER_STEP fn 0
  if !s.fnOpen fn then s
  else if s.staBusy fn then s.staIgnored fn step
  else if s.governed fn = [] then s.setFld F.STA_LEDGER_COLD fn 0 0
  else (s.setFld F.STA_LEDGER_BUSY fn 0 1).setSweep fn (some { kind := kind, step := step, parts := s.governed fn })

/-- STA_LEDGER_CHECK: a write of STA_LEDGER_CTRL with the bit set and STA_LEDGER_INIT clear (R131). STA_LEDGER_MARGIN is stored
also where the command itself is ignored under R142 (DESIGN CHOICE, log entry 38). -/
def doStaLedgerCheck (fn value : Nat) (s : State) : State :=
  if !s.fnOpen fn then s else
  (s.setFld F.STA_LEDGER_MARGIN fn 0 (bits value 1 0)).ledgerStart fn 1

def execStaLedgerCheck (fn value : Nat) (s : State) : Host.Outcome State Fault Refusal :=
  done (doStaLedgerCheck fn value s)

/-- STA_LEDGER_INIT: a write of STA_LEDGER_CTRL with the bit set, whatever STA_LEDGER_CHECK is (R131); STA_LEDGER_MARGIN as
above (DESIGN CHOICE, log entry 38). -/
def doStaLedgerInit (fn value : Nat) (s : State) : State :=
  if !s.fnOpen fn then s else
  (s.setFld F.STA_LEDGER_MARGIN fn 0 (bits value 1 0)).ledgerStart fn 2

def execStaLedgerInit (fn value : Nat) (s : State) : Host.Outcome State Fault Refusal :=
  done (doStaLedgerInit fn value s)

/-- A write of STA_LEDGER_CTRL, whichever bits are set. -/
def State.ledgerCtrl (s : State) (fn value : Nat) : State :=
  if bit value 9 then doStaLedgerInit fn value s
  else if bit value 8 then doStaLedgerCheck fn value s
  else if s.fnOpen fn then s.setFld F.STA_LEDGER_MARGIN fn 0 (bits value 1 0)
  else s

/-- SCALE_COLD of a check (cause 0) or an initialisation (cause 1) for one partition (R132). The count takes three bytes
(DEDUCED, log entry 38). -/
def State.scaleCold (s : State) (kind step : Nat) (c : Nat × Nat × Nat × Nat) : State :=
  s.event c.1 0x0104 (toLe 1 (kind - 1) ++ toLe 3 c.2.1 ++ toLe 2 c.2.2.1 ++ toLe 2 c.2.2.2 ++ toLe 4 step)

/-- STA_LEDGER_COLD takes the number of entries made cold; a sum that its 17 bits cannot hold leaves it a free
value. -/
def State.setCold (s : State) (fn n : Nat) : State :=
  if n < 2 ^ 17 then s.setFld F.STA_LEDGER_COLD fn 0 n else (s.setFld F.STA_LEDGER_COLD fn 0 (s.freeBits 17)).bump

/-- An initialisation through a virtual function raises SCALE_COLD whatever the length; with no entry made
cold there is no lowest and highest tensor, and both are free values. -/
def State.coldNone (s : State) (fn : Nat) (w : Sweep) : State :=
  if w.kind = 2 ∧ fn ≠ 0 ∧ w.cold = [] then
    (s.scaleCold 2 w.step (fn - 1, 0, s.freeBits 16, s.bump.freeBits 16)).bump.bump
  else s

/-- LEDGER_COMMAND_DONE: the command passes its last entry (R131 steps 4 and 5, R132, R141). -/
def doLedgerCommandDone (fn : Nat) (env : Env) (s : State) : State :=
  if s.stopped then s else
  match s.sweep fn with
  | none => s
  | some w0 =>
    if w0.kind = 0 then s else
    let s := s.sweepRun env fn (s.sweepFuel fn w0)
    let w := (s.sweep fn).getD w0
    let s := s.setCold fn ((w.cold.map fun c => c.2.1).foldl (· + ·) 0)
    let s := (s.setSweep fn none).setFld F.STA_LEDGER_BUSY fn 0 0
    (w.cold.foldl (fun s c => s.scaleCold w.kind w.step c) s).coldNone fn w

def execLedgerCommandDone (fn : Nat) (env : Env) (s : State) : Host.Outcome State Fault Refusal :=
  done (doLedgerCommandDone fn env s)

/-! ### Outcomes of the Tile Agreement Monitor -/

/-- Ones among the low 32 bits. -/
def popcount32 (w : Nat) : Nat := ((upFrom 0 32).filter fun i => bit w i).length

/-- Add one to the 32-bit counter at offset `o` of an entry, saturating (R139). -/
def incAt (d : List Byte) (o : Nat) : List Byte :=
  d.take o ++ toLe 4 (satTo (2 ^ 32 - 1) (leAt d o 4 + 1)) ++ d.drop (o + 4)

/-- Replace `n` bytes at offset `o` by `v`. -/
def putAt (d : List Byte) (o n v : Nat) : List Byte := d.take o ++ toLe n v ++ d.drop (o + n)

/-- A checked sample's entry (R139, R140): the bytes, pop, and whether TAM_DRIFT is raised. -/
def State.tamEntry (s : State) (v : Nat) (o : TamOutcome) (d : List Byte) : List Byte × Nat × Bool :=
  let recent := (2 * leAt d 76 4 + b2n (decide (s.fld F.TAM_DRIFT_BIN v 0 ≤ o.kind))) % 2 ^ 32
  let pop := popcount32 recent
  let raised := bit (leAt d 90 1) 0
  let drift := !raised && decide (max 1 (min 32 (s.fld F.TAM_DRIFT_COUNT v 0)) ≤ pop)
  let st := b2n ((raised || drift) && decide (pop ≠ 0))
  let d := putAt (putAt (incAt d (4 * o.kind)) 76 4 recent) 90 1 (setBits (leAt d 90 1) 0 0 st)
  let d := if leAt d 80 4 < o.ratio then putAt (putAt (putAt d 80 4 o.ratio) 84 4 o.step) 88 2 o.cell else d
  (d, pop, drift)

/-- An outcome applied to its entry (R139, R140). -/
def State.applyOutcome (s : State) (env : Env) (o : TamOutcome) : State :=
  let v := s.drive o.part
  if min 65536 (s.fld F.TAM_TABLE_LEN v 0) ≤ o.tensor then s.tamErr 0 o.part o.step o.tensor else
  let va := s.fld F.TAM_TABLE_VA v 0 * 32 + 96 * o.tensor
  match s.readVa env (staRq o.part) va 96 with
  | (s, .okay, d) =>
    let x := if o.kind = 17 then (incAt d 64, 0, false)
      else if o.kind = 18 then (incAt d 68, 0, false)
      else if o.kind = 16 then (incAt d 72, 0, false)
      else s.tamEntry v o d
    match s.writeVa env (staRq o.part) va x.1 with
    | (s, .okay) =>
      if x.2.2 then
        (s.tamErr 2 o.part o.step o.tensor).event o.part 0x0103
          (toLe 2 o.tensor ++ toLe 4 o.step ++ toLe 2 o.cell ++ toLe 1 o.kind ++ toLe 1 x.2.1 ++ toLe 4 o.ratio)
      else s
    | (s, _) => s.tamErr 1 o.part o.step o.tensor
  | (s, _, _) => s.tamErr 1 o.part o.step o.tensor

/-- TAM_OUTCOME: the merger takes the oldest outcome of a sample (R139, R140). -/
def doTamOutcome (env : Env) (s : State) : State :=
  if s.stopped then s else
  match s.sta.outcomes with
  | [] => s
  | o :: rest =>
    let s := { s with sta := { s.sta with outcomes := rest } }
    if s.cutOff o.part then s else s.applyOutcome env o

def execTamOutcome (env : Env) (s : State) : Host.Outcome State Fault Refusal := done (doTamOutcome env s)

end Sys2Proof.Machine
end

