-- ==== Sys2Proof/Machine/UpdMath.lean ====
section
/-! DEFINITION. The Update Engine's record, its arithmetic and its pass over a bucket's state in memory (spec/08
R184 to R190, R192, R193). -/

namespace Sys2Proof.Machine

/-! ### The update record (R184) -/

/-- An update record. -/
structure Upd where
  alg : Nat
  nesterov : Bool
  nfSkip : Bool
  mirror : Bool
  facMom : Bool
  mfmt : Nat
  count : Nat
  first : Nat
  cols : Nat
  rows : Nat
  hi : Nat
  lo : Nat
  m : Nat
  ms : Nat
  v : Nat
  vs : Nat
  c : Nat
  cs : Nat
  lr : Nat
  wd : Nat
  b1 : Nat
  b2 : Nat
  eps : Nat
  gscale : Nat
  b1pow : Nat
  b2pow : Nat
  lastEpoch : Nat
  mirDone : Nat
  /-- used freeze ranges: first element and count -/
  freeze : List (Nat × Nat)
  mirOff : Nat
  /-- a reserved field or bit is not zero -/
  rsvd : Bool
  deriving DecidableEq, Repr

/-- A record from its 192 bytes. -/
def updOf (d : List Byte) : Upd :=
  let f := leAt d 1 1
  { alg := leAt d 0 1, nesterov := bit f 0, nfSkip := bit f 1, mirror := bit f 2, facMom := bit f 3,
    mfmt := leAt d 2 1, count := leAt d 4 4, first := leAt d 8 8, cols := leAt d 16 4, rows := leAt d 20 4,
    hi := leAt d 24 8, lo := leAt d 32 8, m := leAt d 40 8, ms := leAt d 48 8, v := leAt d 56 8, vs := leAt d 64 8,
    c := leAt d 72 8, cs := leAt d 80 8, lr := leAt d 88 4, wd := leAt d 92 4, b1 := leAt d 96 4, b2 := leAt d 100 4,
    eps := leAt d 104 4, gscale := leAt d 108 4, b1pow := leAt d 112 4, b2pow := leAt d 116 4,
    lastEpoch := leAt d 120 2, mirDone := leAt d 122 2,
    freeze := ((upFrom 0 4).map fun i => (leAt d (128 + 8 * i) 4, leAt d (132 + 8 * i) 4)).filter fun r => r.2 ≠ 0,
    mirOff := leAt d 160 8,
    rsvd := !(decide (f < 16) && zeroAt d 3 1 && zeroAt d 124 4 && zeroAt d 168 24) }

/-- The algorithm keeps a first moment. -/
def Upd.usesM (u : Upd) : Bool := u.alg = 1 || u.alg = 2 || u.alg = 3 || (u.alg = 4 && u.facMom)

/-- The algorithm keeps a second moment, or row statistics. -/
def Upd.usesV (u : Upd) : Bool := u.alg = 2 || u.alg = 4

/-- The algorithm keeps column statistics. -/
def Upd.usesC (u : Upd) : Bool := u.alg = 4

/-- The moments are in 8 bits. -/
def Upd.small (u : Upd) : Bool := u.mfmt = 1

/-- A plane meets the alignment of its format (R186). -/
def Upd.planeOk (u : Upd) (va sva : Nat) : Bool :=
  if u.small then va % 256 = 0 && sva % 64 = 0 else va % 64 = 0

/-- The record is rejected; `e` is the bucket's element count (R186, R207). -/
def Upd.rejected (u : Upd) (e : Nat) : Bool :=
  decide (4 < u.alg) || decide (1 < u.mfmt) || u.rsvd || u.count = 0 || u.count ≠ e
    || decide (u.rows * u.cols < u.first + u.count)
    || u.freeze.any (fun r => decide (u.count < r.1 + r.2))
    || u.hi % 64 ≠ 0 || u.lo % 64 ≠ 0
    || (u.usesM && !u.planeOk u.m u.ms) || (u.usesV && !u.planeOk u.v u.vs) || (u.usesC && !u.planeOk u.c u.cs)
    || (u.small && (u.first % (16 * u.cols) ≠ 0
        || ((u.first + u.count) % (16 * u.cols) ≠ 0 && u.first + u.count ≠ u.rows * u.cols)))
    || (u.alg = 4 && (u.first % u.cols ≠ 0 || u.count % u.cols ≠ 0 || decide (65536 < u.cols)))

/-- Element `e` of the bucket lies in a freeze range. -/
def Upd.frozen (u : Upd) (e : Nat) : Bool := u.freeze.any fun r => decide (r.1 ≤ e) && decide (e < r.1 + r.2)

/-! ### Arithmetic (R187, R188) -/

/-- The per-bucket constants of R187. -/
structure UpdK where
  decay : Nat
  omb1 : Nat
  omb2 : Nat
  b1p : Nat
  b2p : Nat
  st : Nat
  r2 : Nat
  deriving DecidableEq, Repr

/-- Their computation, in the order they are listed. -/
def Upd.consts (u : Upd) : UpdK :=
  let dp := fmul u.lr u.wd
  let b1p := fmul u.b1pow u.b1
  let b2p := fmul u.b2pow u.b2
  { decay := fsub fOne dp, omb1 := fsub fOne u.b1, omb2 := fsub fOne u.b2, b1p := b1p, b2p := b2p,
    st := fdiv u.lr (fsub fOne b1p), r2 := fdiv fOne (fsqrt (fsub fOne b2p)) }

/-- An element's state: w, m and v as FP32. -/
structure ElemSt where
  w : Nat
  m : Nat
  v : Nat
  deriving DecidableEq, Repr

/-- One element under SGD, momentum, AdamW or Lion, with gradient sum `gs` (R187). -/
def Upd.elem (u : Upd) (k : UpdK) (gs : Nat) (x : ElemSt) : ElemSt :=
  let g := fmul gs u.gscale
  let w1 := fmul x.w k.decay
  match u.alg with
  | 0 => { x with w := fma32 (fneg u.lr) g w1 }
  | 1 =>
    let m := fma32 u.b1 x.m g
    { x with m := m, w := fma32 (fneg u.lr) (if u.nesterov then fma32 u.b1 m g else m) w1 }
  | 2 =>
    let m := fma32 u.b1 x.m (fmul k.omb1 g)
    let v := fma32 u.b2 x.v (fmul k.omb2 (fmul g g))
    ⟨fma32 (fneg k.st) (fdiv m (fma32 (fsqrt v) k.r2 u.eps)) w1, m, v⟩
  | _ =>
    let c := fma32 u.b1 x.m (fmul k.omb1 g)
    let d := match fv c with
      | .nan => 0x7FC00000
      | .inf n => if n then fneg fOne else fOne
      | .fin n m _ => if m = 0 then 0 else if n then fneg fOne else fOne
    { x with w := fma32 (fneg u.lr) d w1, m := fma32 u.b2 x.m (fmul k.omb2 g) }

/-- What the factored pass has made: new elements, row statistics and column buffer. -/
structure FacOut where
  elems : List ElemSt
  rows : List Nat
  acc : List Nat
  deriving DecidableEq, Repr

/-- The factored variant over whole rows (R188): `g` the scaled gradients, `xs` the elements, row-major. -/
def Upd.factored (u : Upd) (k : UpdK) (g : Nat → Nat) (xs : List ElemSt) (row col : List Nat) : FacOut :=
  let nc := u.cols
  let nr := u.count / nc
  let invc := fdiv fOne (fp32.ofVal (.fin false nc 0))
  let cmean := fmul ((upFrom 0 nc).foldl (fun a j => fadd a (col.getD j 0)) 0) invc
  let rcm := if (fv cmean).isZero then 0 else fdiv fOne cmean
  (upFrom 0 nr).foldl (fun (o : FacOut) i =>
    let a := fun j => fma32 (g (i * nc + j)) (g (i * nc + j)) u.eps
    let q := (upFrom 0 nc).foldl (fun t j => fadd t (a j)) 0
    let acc := (upFrom 0 nc).map fun j => fadd (o.acc.getD j 0) (a j)
    let r := fma32 u.b2 (row.getD i 0) (fmul k.omb2 (fmul q invc))
    let es := (upFrom 0 nc).map fun j =>
      let x := xs.getD (i * nc + j) ⟨0, 0, 0⟩
      if u.frozen (i * nc + j) then x else
      let vh := if (fv rcm).isZero then r else fmul (fmul r (col.getD j 0)) rcm
      let den := fsqrt vh
      let uu := if (fv den).isZero then 0 else fdiv (g (i * nc + j)) den
      let m := if u.facMom then fma32 u.b1 x.m (fmul k.omb1 uu) else x.m
      let d := if u.facMom then m else uu
      { x with m := m, w := fma32 (fneg u.lr) d (fmul x.w k.decay) }
    ⟨o.elems ++ es, o.rows ++ [r], acc⟩) ⟨[], [], List.replicate nc 0⟩

/-- The column statistics after the last row (R188). -/
def Upd.newCols (u : Upd) (col acc : List Nat) : List Nat :=
  let invr := fdiv fOne (fp32.ofVal (.fin false (u.count / u.cols) 0))
  let omb2 := fsub fOne u.b2
  (upFrom 0 u.cols).map fun j => fma32 u.b2 (col.getD j 0) (fmul omb2 (fmul (acc.getD j 0) invr))

/-! ### Planes in memory -/

/-- A run of memory as read: its bytes, and which of them came with a good response. -/
structure Plane where
  va : Nat
  bytes : List Byte
  good : List Bool
  deriving DecidableEq, Repr

/-- Read `n` units from `va`: the bytes, and for each whether its unit was good. -/
def State.planeUnits (s : State) (env : Env) (rq : Rq) (va : Nat) : Nat → State × List Byte × List Bool
  | 0 => (s, [], [])
  | n + 1 =>
    match s.readUnit env rq va with
    | (s, r, d) =>
      match s.planeUnits env rq (va + 64) n with
      | (s, d', g') => (s, d ++ d', List.replicate 64 (decide (r = .okay)) ++ g')

/-- Read `len` bytes at `va`. -/
def State.readPlane (s : State) (env : Env) (rq : Rq) (va len : Nat) : State × Plane :=
  match s.planeUnits env rq (va / 64 * 64) (unitsOf va len) with
  | (s, d, g) => (s, ⟨va, slice d (va % 64) len, (g.drop (va % 64)).take len⟩)

/-- Bytes `[o, o + n)` of a plane are good. -/
def Plane.ok (p : Plane) (o n : Nat) : Bool := (upFrom o n).all fun i => p.good.getD i false

/-- Write the units `u`, `u + 64`, …, `n` of them, of a plane's new bytes under a byte mask, and say at which
bytes a write was refused. -/
def State.planePut (s : State) (env : Env) (rq : Rq) (va : Nat) (d : List Byte) (m : List Bool) (u : Nat) :
    Nat → State × List Nat
  | 0 => (s, [])
  | n + 1 =>
    let mm := (upFrom 0 64).map fun i => decide (va ≤ u + i) && m.getD (u + i - va) false
    let dd := (upFrom 0 64).map fun i => if va ≤ u + i then d.getD (u + i - va) 0 else 0
    let bad := (upFrom 0 64).filterMap fun i => if mm.getD i false then some (u + i - va) else none
    if bad = [] then s.planePut env rq va d m (u + 64) n else
    match s.writeUnit env rq u dd mm with
    | (s, r) =>
      match s.planePut env rq va d m (u + 64) n with
      | (s, l) => (s, if r = .okay then l else bad ++ l)

/-- Write a plane's new bytes under a mask: the bytes refused. -/
def State.writePlane (s : State) (env : Env) (rq : Rq) (va : Nat) (d : List Byte) (m : List Bool) : State × List Nat :=
  s.planePut env rq va d m (va / 64 * 64) (unitsOf va d.length)

/-- What a pass leaves: the first element that could not be read and the first whose write was refused. -/
structure PassOut where
  ue : Option Nat := none
  wr : Option Nat := none
  deriving DecidableEq, Repr

/-- The lower of two first elements. -/
def firstOf (a b : Option Nat) : Option Nat :=
  match a, b with
  | some x, some y => some (min x y)
  | some x, none => some x
  | none, y => y

/-- Write a plane of `size` bytes an element whose elements `new` gives, except those without one; the first
element refused. -/
def State.writeElems (s : State) (env : Env) (rq : Rq) (va size n : Nat) (new : Nat → Option Nat) : State × Option Nat :=
  let d := (upFrom 0 n).flatMap fun e => toLe size ((new e).getD 0)
  let m := (upFrom 0 n).flatMap fun e => List.replicate size (new e).isSome
  match s.writePlane env rq va d m with
  | (s, bad) => (s, (bad.head?).map (· / size))

/-- Element `e` of a plane of `size` bytes an element. -/
def Plane.elem (p : Plane) (size e : Nat) : Nat := leAt p.bytes (size * e) size

/-- Element `e` of it is good. -/
def Plane.elemOk (p : Plane) (size e : Nat) : Bool := p.ok (size * e) size

/-! ### 8-bit moments (R190) -/

/-- Columns of the block grid. -/
def Upd.nj (u : Upd) : Nat := cdiv u.cols 16

/-- First block of the bucket, and how many it has: whole rows of blocks (R186). -/
def Upd.blockRange (u : Upd) : Nat × Nat :=
  let i0 := u.first / u.cols / 16
  let i1 := cdiv (cdiv (u.first + u.count) u.cols) 16
  (i0 * u.nj, (i1 - i0) * u.nj)

/-- The block of bucket element `e`, and its place in it. -/
def Upd.blockOf (u : Upd) (e : Nat) : Nat × Nat :=
  let r := (u.first + e) / u.cols
  let c := (u.first + e) % u.cols
  (r / 16 * u.nj + c / 16, 16 * (r % 16) + c % 16)

/-- The bucket element at place `k` of block `b`, if the tensor has one there. -/
def Upd.elemAt (u : Upd) (b k : Nat) : Option Nat :=
  let r := 16 * (b / u.nj) + k / 16
  let c := 16 * (b % u.nj) + k % 16
  if c < u.cols ∧ u.first ≤ r * u.cols + c ∧ r * u.cols + c < u.first + u.count then
    some (r * u.cols + c - u.first)
  else none

/-- A run of 8-bit blocks as read: the element bytes and the scale entries. -/
structure Small where
  b0 : Nat
  el : Plane
  sc : Plane
  deriving DecidableEq, Repr

/-- Read `n` blocks from block `b0` of a plane pair. -/
def State.readSmall (s : State) (env : Env) (rq : Rq) (va sva b0 n : Nat) : State × Small :=
  match s.readPlane env rq (va + 256 * b0) (256 * n) with
  | (s, el) =>
    match s.readPlane env rq (sva + 8 * b0) (8 * n) with
    | (s, sc) => (s, ⟨b0, el, sc⟩)

/-- Value `k` of block `b`. -/
def Small.val (x : Small) (fmt b k : Nat) : Nat :=
  dequantise (elemFmt fmt) (x.el.bytes.getD (256 * (b - x.b0) + k) 0).toNat (slice x.sc.bytes (8 * (b - x.b0)) 8) k

/-- Block `b` and its scale entry are good. -/
def Small.ok (x : Small) (b : Nat) : Bool := x.el.ok (256 * (b - x.b0)) 256 && x.sc.ok (8 * (b - x.b0)) 8

/-- Write back the blocks for which `new` gives 256 FP32 values: the blocks refused. -/
def State.writeSmall (s : State) (env : Env) (rq : Rq) (fmt va sva b0 n : Nat) (new : Nat → Option (List Nat)) :
    State × List Nat :=
  let q := (upFrom b0 n).map fun b => (new b).map (quantise (elemFmt fmt) 0xFE)
  let cut := fun (w : Nat) (f : Quant → List Byte) => q.flatMap fun x =>
    match x with
    | some z => f z
    | none => zeros w
  let mask := fun (w : Nat) => q.flatMap fun x => List.replicate w x.isSome
  match s.writePlane env rq (va + 256 * b0) (cut 256 fun z => z.codes.map (BitVec.ofNat 8)) (mask 256) with
  | (s, e1) =>
    match s.writePlane env rq (sva + 8 * b0) (cut 8 fun z => z.entry) (mask 8) with
    | (s, e2) => (s, e1.map (fun o => b0 + o / 256) ++ e2.map (fun o => b0 + o / 8))

/-! ### A pass -/

/-- Moments of the bucket as read, in either format. -/
inductive Moments where
  | none
  | full (p : Plane)
  | small (x : Small)
  deriving DecidableEq, Repr

/-- The moment of element `e`. -/
def Moments.val (x : Moments) (u : Upd) (fmt e : Nat) : Nat :=
  match x with
  | .none => 0
  | .full p => p.elem 4 e
  | .small y => y.val fmt (u.blockOf e).1 (u.blockOf e).2

/-- It was read with good responses. -/
def Moments.ok (x : Moments) (u : Upd) (e : Nat) : Bool :=
  match x with
  | .none => true
  | .full p => p.elemOk 4 e
  | .small y => y.ok (u.blockOf e).1

/-- Read the moments of the bucket's elements at `va`. -/
def State.readMoments (s : State) (env : Env) (rq : Rq) (u : Upd) (used : Bool) (va sva : Nat) : State × Moments :=
  if !used then (s, .none)
  else if u.small then
    match s.readSmall env rq va sva u.blockRange.1 u.blockRange.2 with
    | (s, x) => (s, .small x)
  else
    match s.readPlane env rq (va + 4 * u.first) (4 * u.count) with
    | (s, p) => (s, .full p)

/-- A block holds an element whose state could not be read: on the 8-bit path it stays unwritten (R193). -/
def Upd.blockGood (u : Upd) (good : Nat → Bool) (b : Nat) : Bool :=
  (upFrom 0 256).all fun k => match u.elemAt b k with
    | some e => good e
    | none => true

/-- Write the moments back: `good` says which elements may be written and `val` their new values; a frozen
element of a block is quantised with its old value (R190). -/
def State.writeMoments (s : State) (env : Env) (rq : Rq) (u : Upd) (x : Moments) (fmt va sva : Nat)
    (good : Nat → Bool) (val : Nat → Nat) : State × Option Nat :=
  match x with
  | .none => (s, none)
  | .full _ => s.writeElems env rq (va + 4 * u.first) 4 u.count fun e =>
      if good e && !u.frozen e then some (val e) else none
  | .small _ =>
    match s.writeSmall env rq fmt va sva u.blockRange.1 u.blockRange.2 (fun b =>
        if u.blockGood good b then some ((upFrom 0 256).map fun k => ((u.elemAt b k).map val).getD 0) else none) with
    | (s, bad) => (s, bad.foldl (fun a b => firstOf a ((upFrom 0 256).findSome? (u.elemAt b))) none)

/-- Row or column statistics as read. -/
def State.readStat (s : State) (env : Env) (rq : Rq) (u : Upd) (va sva n : Nat) : State × List Nat × List Bool :=
  if u.small then
    match s.readSmall env rq va sva 0 (cdiv n 256) with
    | (s, x) => (s, (upFrom 0 n).map (fun k => x.val 7 (k / 256) (k % 256)), (upFrom 0 n).map fun k => x.ok (k / 256))
  else
    match s.readPlane env rq va (4 * n) with
    | (s, p) => (s, (upFrom 0 n).map (p.elem 4), (upFrom 0 n).map (p.elemOk 4))

/-- Statistics written back, except where they could not be read; whether every write was good. -/
def State.writeStat (s : State) (env : Env) (rq : Rq) (u : Upd) (va sva : Nat) (new : List Nat) (good : List Bool) :
    State × Bool :=
  let n := new.length
  if u.small then
    match s.writeSmall env rq 7 va sva 0 (cdiv n 256) (fun b =>
        if good.getD (256 * b) false then some ((upFrom 0 256).map fun k => new.getD (256 * b + k) 0) else none) with
    | (s, bad) => (s, bad.isEmpty)
  else
    match s.writeElems env rq va 4 n (fun e => if good.getD e false then some (new.getD e 0) else none) with
    | (s, r) => (s, r.isNone)

/-- Write the parameters and the moments of every element that could be read (R187, R193). -/
def State.putElems (s : State) (env : Env) (rq : Rq) (u : Upd) (mm vv : Moments) (good : Nat → Bool)
    (new : List ElemSt) : State × Option Nat :=
  let e := fun i => new.getD i ⟨0, 0, 0⟩
  let go := fun i => if good i && !u.frozen i then some (e i).w else none
  match s.writeElems env rq (u.hi + 2 * u.first) 2 u.count (fun i => (go i).map (· / 65536)) with
  | (s, w1) =>
    match s.writeElems env rq (u.lo + 2 * u.first) 2 u.count (fun i => (go i).map (· % 65536)) with
    | (s, w2) =>
      match s.writeMoments env rq u mm 6 u.m u.ms good (fun i => (e i).m) with
      | (s, w3) =>
        match s.writeMoments env rq u vv 7 u.v u.vs good (fun i => (e i).v) with
        | (s, w4) => (s, firstOf (firstOf w1 w2) (firstOf w3 w4))

/-- The pass over a bucket with gradient sums `gs` (R187 to R190, R193). -/
def State.updPass (s : State) (env : Env) (part tier : Nat) (u : Upd) (gs : Nat → Nat) : State × PassOut :=
  let rq := casRq part tier
  let k := u.consts
  match s.readPlane env rq (u.hi + 2 * u.first) (2 * u.count) with
  | (s, hi) =>
  match s.readPlane env rq (u.lo + 2 * u.first) (2 * u.count) with
  | (s, lo) =>
  match s.readMoments env rq u u.usesM u.m u.ms with
  | (s, mm) =>
  let w := fun e => hi.elem 2 e * 65536 + lo.elem 2 e
  let base := fun e => hi.elemOk 2 e && lo.elemOk 2 e && mm.ok u e
  if u.alg = 4 then
    let nr := u.count / u.cols
    match s.readStat env rq u u.v u.vs nr with
    | (s, row, rok) =>
    match s.readStat env rq u u.c u.cs u.cols with
    | (s, col, cok) =>
      let el := fun e => base e && rok.getD (e / u.cols) false && cok.getD (e % u.cols) false
      let good := fun e => if u.small then u.blockGood el (u.blockOf e).1 else el e
      let xs := (upFrom 0 u.count).map fun e => (⟨w e, mm.val u 6 e, 0⟩ : ElemSt)
      let o := u.factored k (fun e => fmul (gs e) u.gscale) xs row col
      match s.putElems env rq u mm .none good o.elems with
      | (s, w1) =>
      match s.writeStat env rq u u.v u.vs o.rows rok with
      | (s, b1) =>
      match s.writeStat env rq u u.c u.cs (u.newCols col o.acc) cok with
      | (s, b2) => (s, { ue := (upFrom 0 u.count).find? fun e => !good e,
                         wr := if b1 && b2 then w1 else some (w1.getD 0) })
  else
    match s.readMoments env rq u u.usesV u.v u.vs with
    | (s, vv) =>
      let el := fun e => base e && vv.ok u e
      let good := fun e => if u.small then u.blockGood el (u.blockOf e).1 else el e
      let new := (upFrom 0 u.count).map fun e =>
        let x : ElemSt := ⟨w e, mm.val u 6 e, vv.val u 7 e⟩
        if u.frozen e then x else u.elem k (gs e) x
      match s.putElems env rq u mm vv good new with
      | (s, w1) => (s, { ue := (upFrom 0 u.count).find? fun e => !good e, wr := w1 })

/-! ### The bucket image (R195) -/

/-- Read a piece of the image: an 8-bit or FP32 plane. -/
def State.imagePlane (s : State) (env : Env) (rq : Rq) (u : Upd) (used : Bool) (va sva b0 nb va4 n4 : Nat) :
    State × List Byte × Bool :=
  if !used then (s, [], true)
  else if u.small then
    match s.readVa env rq (va + 256 * b0) (256 * nb) with
    | (s, r1, d1) =>
      match s.readVa env rq (sva + 8 * b0) (8 * nb) with
      | (s, r2, d2) => (s, d1 ++ d2, r1 = .okay && r2 = .okay)
  else
    match s.readVa env rq va4 n4 with
    | (s, r, d) => (s, d, r = .okay)

/-- The image of a bucket whose record lies at `va`: its bytes, and whether every read was good. -/
def State.bucketImage (s : State) (env : Env) (part tier va : Nat) (u : Upd) : State × List Byte × Bool :=
  let rq := casRq part tier
  let b := u.blockRange
  let nr := u.count / u.cols
  match s.readVa env rq va 192 with
  | (s, r0, d0) =>
  match s.readVa env rq (u.hi + 2 * u.first) (2 * u.count) with
  | (s, r1, d1) =>
  match s.readVa env rq (u.lo + 2 * u.first) (2 * u.count) with
  | (s, r2, d2) =>
  match s.imagePlane env rq u u.usesM u.m u.ms b.1 b.2 (u.m + 4 * u.first) (4 * u.count) with
  | (s, d3, k3) =>
  match (if u.alg = 4 then s.imagePlane env rq u true u.v u.vs 0 (cdiv nr 256) u.v (4 * nr)
    else s.imagePlane env rq u u.usesV u.v u.vs b.1 b.2 (u.v + 4 * u.first) (4 * u.count)) with
  | (s, d4, k4) =>
  match s.imagePlane env rq u u.usesC u.c u.cs 0 (cdiv u.cols 256) u.c (4 * u.cols) with
  | (s, d5, k5) =>
    (s, d0 ++ d1 ++ d2 ++ d3 ++ d4 ++ d5, r0 = .okay && r1 = .okay && r2 = .okay && k3 && k4 && k5)

end Sys2Proof.Machine
end

