-- ==== Sys2Proof/Machine/CasBase.lean ====
section
/-! DEFINITION. What the Cascade and the mirror stream share: the records and messages, the groups and their
buckets, the Cistern budget, the update gate and late ranks (spec/09). -/

namespace Sys2Proof.Machine

/-! ### Records -/

/-- A bucket descriptor (R206). -/
structure Bd where
  tag : Nat
  owner : Nat
  tier : Nat
  count : Nat
  tensor : Nat
  grad : Nat
  param : Nat
  shr : Nat
  rshr : Nat
  upd : Nat
  rsvd : Bool
  deriving DecidableEq, Repr

/-- A bucket descriptor from its 64 bytes. -/
def bdOf (d : List Byte) : Bd :=
  { tag := leAt d 0 2, owner := leAt d 2 1, tier := leAt d 3 1, count := leAt d 4 4, tensor := leAt d 8 2,
    grad := leAt d 16 8, param := leAt d 24 8, shr := leAt d 32 8, rshr := leAt d 40 8, upd := leAt d 48 8,
    rsvd := !(zeroAt d 10 6 && zeroAt d 56 8) }

/-- A Cascade message (R212). -/
structure Cmh where
  type : Nat
  last : Bool := false
  zero : Bool := false
  key : Nat
  tag : Nat
  epoch : Nat
  src : Nat
  dst : Nat
  status : Nat := 0
  offset : Nat := 0
  count : Nat := 0
  check : Nat := 0
  payload : List Byte := []
  /-- a reserved field is not zero -/
  rsvd : Bool := false
  deriving DecidableEq, Repr

/-- The bytes of a message, its header big-endian. -/
def Cmh.bytes (m : Cmh) : List Byte :=
  toBe 1 m.type ++ toBe 1 (b2n m.last + 2 * b2n m.zero) ++ toBe 2 m.key ++ toBe 2 m.tag ++ toBe 2 m.epoch ++ toBe 1 m.src
    ++ toBe 1 m.dst ++ toBe 1 m.status ++ zeros 1 ++ toBe 4 m.offset ++ toBe 4 m.count ++ zeros 4 ++ toBe 8 m.check
    ++ m.payload

/-- A message from its bytes. -/
def cmhOf (d : List Byte) : Cmh :=
  { type := beAt d 0 1, last := bit (beAt d 1 1) 0, zero := bit (beAt d 1 1) 1, key := beAt d 2 2,
    tag := beAt d 4 2 % 4096, epoch := beAt d 6 2, src := beAt d 8 1, dst := beAt d 9 1, status := beAt d 10 1,
    offset := beAt d 12 4, count := beAt d 16 4, check := beAt d 24 8, payload := d.drop 32,
    rsvd := !(decide (beAt d 1 1 < 4) && decide (beAt d 4 2 < 4096) && zeroAt d 11 1 && zeroAt d 20 4) }

/-- A shard record (R106). -/
def shardBytes (tensor epoch tag kind st sent recv bytes : Nat) : List Byte :=
  toLe 2 tensor ++ toLe 2 epoch ++ toLe 2 tag ++ toLe 1 kind ++ toLe 1 st ++ toLe 8 sent ++ toLe 8 recv ++ toLe 4 bytes
    ++ zeros 4

/-- Step epoch `a` is after `b`, as 16-bit differences (R215). -/
def epochAfter (a b : Nat) : Bool := 0 < signed 16 (a + 65536 - b % 65536)

/-- Epoch `a` is after the one of `o`, if there is one. -/
def afterOpt (a : Nat) (o : Option Nat) : Bool :=
  match o with
  | none => true
  | some b => epochAfter a b

/-- Elements of a data message's payload: P / 2 (R202, R212). -/
def GroupHdr.epf (h : GroupHdr) : Nat := 512 * 2 ^ h.frag

/-- Fragments of a bucket of `e` elements. -/
def GroupHdr.frags (h : GroupHdr) (e : Nat) : Nat := cdiv e h.epf

/-- Cistern units of a bucket of `e` elements (R220). -/
def cisUnits (e : Nat) : Nat := cdiv (4 * e) 65536

/-- Slot times of a slotted group (R225): the open slot's destination at cluster time `t`, if one is open. -/
def GroupHdr.slotDest (h : GroupHdr) (t : Nat) : Option Nat :=
  if t < h.t0 ∨ h.n < 2 then none else
  let q := (t - h.t0) / h.slotLen
  if h.t0 + (q + 1) * h.slotLen - h.guard ≤ t then none
  else some ((h.self_ + q % (h.n - 1) + 1) % h.n)

/-! ### State -/

/-- The key of a group. -/
def gkey (part g : Nat) : Nat := 16 * part + g

/-- A group, if it is armed or being aborted. -/
def State.grp (s : State) (part g : Nat) : Option CasGroup := sget none s.cas.groups (gkey part g)

/-- Store a group. -/
def State.setGrp (s : State) (part g : Nat) (x : Option CasGroup) : State :=
  { s with cas := { s.cas with groups := sput none s.cas.groups (gkey part g) x } }

/-- Change a group, if there is one. -/
def State.modGrp (s : State) (part g : Nat) (f : CasGroup → CasGroup) : State :=
  match s.grp part g with
  | none => s
  | some x => s.setGrp part g (some (f x))

/-- CAS_GRP_STATE. -/
def State.grpState (s : State) (part g : Nat) : Nat := s.fld F.CAS_GRP_STATE (part + 1) g

/-- The armed group. -/
def State.armed (s : State) (part g : Nat) : Option CasGroup :=
  if s.grpState part g = 1 then s.grp part g else none

/-- A bucket at its owner. -/
def CasGroup.ownOf (x : CasGroup) (tag : Nat) : OwnBkt := sget {} x.own tag

/-- A bucket at a rank. -/
def CasGroup.rankOf (x : CasGroup) (tag : Nat) : RankBkt := sget {} x.rank tag

/-- Change a bucket at its owner. -/
def State.modOwn (s : State) (part g tag : Nat) (f : OwnBkt → OwnBkt) : State :=
  s.modGrp part g fun x => { x with own := sput {} x.own tag (f (x.ownOf tag)) }

/-- Change a bucket at a rank. -/
def State.modRank (s : State) (part g tag : Nat) (f : RankBkt → RankBkt) : State :=
  s.modGrp part g fun x => { x with rank := sput {} x.rank tag (f (x.rankOf tag)) }

/-- A bucket at its owner, in a group that may be gone. -/
def State.own (s : State) (part g tag : Nat) : OwnBkt := ((s.grp part g).map (·.ownOf tag)).getD {}

/-- An error of the Cascade (R232, R233). -/
def State.casErr (s : State) (b part g tag epoch rank : Nat) : State :=
  s.errIn .casErrSts .casErrFirst b
    (pack [(F.CAS_EF_EPOCH, epoch), (F.CAS_EF_TAG, tag), (F.CAS_EF_GROUP, g), (F.CAS_EF_RANK, rank),
      (F.CAS_EF_PART, part), (F.CAS_EF_VALID, 1), (F.CAS_EF_CAUSE, b)]) (s.views part) 0

/-- Read the descriptor of a bucket (R208); none on an error response, which sets CAS_E_MEM. The unit of tier 0 reads it, as
the tier stands in it (log entry 19). -/
def State.bd (s : State) (env : Env) (part g : Nat) (h : GroupHdr) (tag : Nat) : State × Option Bd :=
  match s.readVa env (casRq part 0) (h.bucketsVa + 64 * tag) 64 with
  | (s, .okay, d) => (s, some (bdOf d))
  | (s, _, _) => (s.casErr 6 part g tag 0 h.self_, none)

/-! ### The Cistern budget (R220, R221) -/

/-- A bucket holds its Cistern units. -/
def OwnBkt.inCistern (b : OwnBkt) : Bool := b.st = 2 || b.st = 3 || b.st = 4

/-- Units that the buckets of a partition hold on a tier. -/
def State.cisUsed (s : State) (part tier : Nat) : Nat :=
  (s.cas.groups.map fun e =>
    if e.1 / 16 ≠ part then 0 else
    match e.2 with
    | none => 0
    | some x => ((x.own.filter fun o => o.2.inCistern && o.2.tier = tier).map fun o => o.2.units).foldl (· + ·) 0
    ).foldl (· + ·) 0

/-- The partition's PTE_CIS_QUOTA on a tier. -/
def State.cisQuota (s : State) (part tier : Nat) : Nat := (s.partRec part).cis.getD tier 0

/-- CAS_CIS_USE of a tier as a view reads it: its partition, or all of them with the check buffers (R220,
R232). -/
def State.cisUse (s : State) (view tier : Nat) : Nat :=
  let checks := fun (f : Nat → Bool) =>
    6 * ((upFrom (4 * tier) 4).filter fun b => f (s.pte.image.basins.getD b ⟨0, 0xFF⟩).check).length
  if view = 0 then
    ((upFrom 0 64).map fun n => s.cisUsed n tier).foldl (· + ·) 0 + checks (fun c => decide (c < 64))
  else s.cisUsed (view - 1) tier + checks (fun c => c = view - 1)

/-! ### The update gate (R110, R191) -/

/-- An image of the bucket has been streamed and is not acknowledged, UPD_MIR_DONE not being after its epoch in the record that
was streamed (R191). -/
def State.imageOut (s : State) (part g tag : Nat) : Bool :=
  s.cas.mirrors.any fun e => e.2.out.any fun o => o.1 = part && o.2.1 = 4096 * g + tag && o.2.2.2

/-- The bucket's conditions other than the engine's room hold. -/
def State.gateOpen (s : State) (part g tag : Nat) : Bool :=
  let b := s.own part g tag
  b.st = 3 && b.debt.all (fun e => e.2 ≠ b.epoch) && !s.imageOut part g tag

/-- Note when the gate of a bucket opens, and forget it when it shuts again. -/
def State.gateMark (s : State) (part g tag : Nat) : State :=
  let r := (s.own part g tag).readyAt
  let n := if s.gateOpen part g tag then some (r.getD s.ns) else none
  if r = n then s else s.modOwn part g tag fun b => { b with readyAt := n }

/-- Note it for every bucket of every group. -/
def State.gateMarks (s : State) : State :=
  s.cas.groups.foldl (fun s e =>
    match e.2 with
    | none => s
    | some x => x.own.foldl (fun s o => s.gateMark (e.1 / 16) (e.1 % 16) o.1) s) s

/-- Every bucket at its owner: partition, group, tag and state. -/
def State.buckets (s : State) : List (Nat × Nat × Nat × OwnBkt) :=
  s.cas.groups.flatMap fun e =>
    match e.2 with
    | none => []
    | some x => x.own.map fun o => (e.1 / 16, e.1 % 16, o.1, o.2)

/-! ### Messages of a group in its queue and in the flows -/

/-- A message as the group queues it: fragment f goes by lane f, a data message keeps to the slots (R213, R214). -/
def GroupHdr.queued (h : GroupHdr) (m : Cmh) (bytes : List Byte) : CasMsg :=
  let data := (m.type = 1 && !m.zero) || m.type = 5 || m.type = 8
  ⟨m.dst, if data then m.offset / h.epf else 0, bytes, h.slotted && data⟩

/-- Some of an operation has been transmitted. -/
def FlowCtx.begun (c : FlowCtx) (o : AqdOp) : Bool := c.out.any fun e => e.ref = o.id && e.ts.isSome

/-- Take the Cascade messages that satisfy `f` out of the flows of a partition, those already transmitted only with `sent`:
nothing more of them is sent, and NOPs take the place of their outstanding PSNs. -/
def State.casTake (s : State) (part : Nat) (f : Cmh → Bool) (sent : Bool) : State × List (List Byte) :=
  s.aqd.ctxs.foldl (fun (a : State × List (List Byte)) e =>
    let mine := fun (o : AqdOp) => decide (o.src = .cascade) && f (cmhOf o.data) && (sent || !e.2.begun o)
    if e.2.part = part && e.2.ops.any mine then
      (a.1.setCtx e.1 { e.2 with ops := e.2.ops.filter fun o => !mine o }, a.2 ++ (e.2.ops.filter mine).map (·.data))
    else a) (s, [])

/-- The messages of group `g` that satisfy `f` are dropped, whether they wait in the group or in a flow. -/
def State.casDrop (s : State) (part g : Nat) (f : Cmh → Bool) : State :=
  match s.grp part g with
  | none => s
  | some x =>
    let s := s.setGrp part g (some { x with out := x.out.filter fun w => !f (cmhOf w.bytes) })
    (s.casTake part (fun m => decide (m.key = x.hdr.key) && f m) true).1

/-! ### Late and failed ranks (R229) -/

/-- LATE_RANK (R229): `none` for the lowest rank leaves that field a free value. -/
def State.lateRank (s : State) (part g cause tag : Nat) (x : CasGroup) : State :=
  let b := x.ownOf tag
  let left := x.hdr.n - b.folded
  let low := if left = 0 then s.freeBits 8 else b.folded
  let s := if left = 0 then s.bump else s
  let s := s.casErr 4 part g tag b.epoch low
  s.event part 0x0301 (toLe 1 cause ++ toLe 2 x.hdr.key ++ toLe 2 tag ++ toLe 2 b.epoch ++ toLe 1 low ++ toLe 2 left)

/-- A flow of a partition has failed: its messages wait in the group for a remap, and LATE_RANK is raised for a bucket that this
rank owns among those with a message to that rank queued (R229). -/
def State.casFlowFailed (s : State) (part ctx : Nat) (msgs : List (List Byte)) : State :=
  (upFrom 0 16).foldl (fun s g =>
    match s.armed part g with
    | none => s
    | some x =>
      match (upFrom 0 x.hdr.n).find? fun r =>
        let e := x.hdr.ranks.getD r ⟨0, 0, 0, 0⟩
        decide (e.flow ≤ ctx) && decide (ctx < e.flow + e.lanes) with
      | none => s
      | some r =>
        let back := (msgs.filter fun d => (cmhOf d).key = x.hdr.key).map fun d => x.hdr.queued (cmhOf d) d
        let x := { x with out := back ++ x.out }
        let s := s.setGrp part g (some x)
        let own := (x.out.filter fun w => w.dest = r).find? fun w =>
          let t := (cmhOf w.bytes).type
          t = 2 || t = 3 || t = 4 || t = 5 || t = 8
        match own with
        | some w => s.lateRank part g 1 (cmhOf w.bytes).tag x
        | none => s) s

end Sys2Proof.Machine
end

