-- ==== Sys2Proof/Machine/Mirror.lean ====
section
/-! DEFINITION. The mirror stream of a function and what Aqueduct tells the units that use it (spec/08 R194 to R199,
spec/09 R229). -/

namespace Sys2Proof.Machine

/-- The mirror stream of a function. -/
def State.mirror (s : State) (v : Nat) : Mirror := sget {} s.cas.mirrors v

/-- Store it. -/
def State.setMirror (s : State) (v : Nat) (m : Mirror) : State :=
  { s with cas := { s.cas with mirrors := sput {} s.cas.mirrors v m } }

/-- An error of an Update Engine (R200, R201): the element is zero for causes 0, 3, 4 and 5. -/
def State.updErr (s : State) (b part tier epoch elem : Nat) : State :=
  s.errIn .updErrSts .updErrFirst b
    (pack [(F.UPD_EF_EPOCH, epoch), (F.UPD_EF_ELEM, if b = 1 ∨ b = 2 then satTo 0xFFFFFFF elem else 0), (F.UPD_EF_VALID, 1),
      (F.UPD_EF_TIER, tier), (F.UPD_EF_CAUSE, b)]) (s.views part) 0

/-- UPD_MIR_INTERVAL; 0 reads as 1. -/
def State.mirInterval (s : State) (v : Nat) : Nat := max 1 (s.fld F.UPD_MIR_INTERVAL v 0)

/-- The operation belongs to the mirror stream of function `v`. -/
def OpSrc.ofMirror (v : Nat) : OpSrc → Bool
  | .mirrorBucket f _ _ => f = v
  | .mirrorHeader f _ _ => f = v
  | _ => false

/-- Nothing of the copy is sent or awaited any longer. -/
def State.mirrorStop (s : State) (v : Nat) : State :=
  let i := s.fld F.UPD_MIR_CTX v 0
  let c := s.ctx i
  let ops := c.ops.filter fun o => !o.src.ofMirror v
  let s := if ops = c.ops then s else s.setCtx i { c with ops := ops }
  let s := s.setMirror v { s.mirror v with copy := none, out := [], acked := 0, bytes := 0 }
  s.setFld F.UPD_MIR_BUSY v 0 0

/-- The copy is abandoned on an error (R199). -/
def State.mirrorBreak (s : State) (v : Nat) : State :=
  match (s.mirror v).copy with
  | none => s
  | some (part, n, _) =>
    (((s.mirrorStop v).setFld F.UPD_MIR_BROKEN v 0 1).updErr 5 part 0 n 0).gateMarks

/-- Post one flagged write of the stream: the operation is queued on UPD_MIR_CTX, or the copy is abandoned when that
context is not an open one of the partition. -/
def State.mirrorPost (s : State) (v part slot off : Nat) (src : OpSrc) (bytes : List Byte) : State :=
  let i := s.fld F.UPD_MIR_CTX v 0
  if (s.ctx i).state ≠ 2 ∨ (s.ctx i).part ≠ part then s.mirrorBreak v else
  s.aqdPost i { id := 0, kind := 0, final := true, len := bytes.length, lva := 0,
                rva := Config.mirrorBase part slot + off,
                rkey := if slot = 0 then s.fld F.UPD_MIR_KEY0 v 0 else s.fld F.UPD_MIR_KEY1 v 0, src := src, data := bytes }

/-- A slot's header (R196). -/
def mirrorHeaderBytes (n st slot buckets part bytes : Nat) : List Byte :=
  toLe 4 0x524D5847 ++ toLe 2 n ++ toLe 1 st ++ toLe 1 slot ++ toLe 4 buckets ++ toLe 1 part ++ zeros 3 ++ toLe 8 bytes
    ++ zeros 40

/-- Write the header of the copy under way (R197 steps 3 and 5). -/
def State.mirrorHeader (s : State) (v : Nat) (complete : Bool) : State :=
  match (s.mirror v).copy with
  | none => s
  | some (part, n, slot) =>
    s.mirrorPost v part slot 0 (.mirrorHeader v n complete)
      (mirrorHeaderBytes n (if complete then 2 else 1) slot (s.fld F.UPD_MIR_BUCKETS v 0) part (s.mirror v).bytes)

/-- Every mirrored bucket has been acknowledged: the complete header follows. -/
def State.mirrorFull (s : State) (v : Nat) : State :=
  if (s.mirror v).copy.isSome ∧ (s.mirror v).acked = s.fld F.UPD_MIR_BUCKETS v 0 then s.mirrorHeader v true else s

/-- The partition applies step `k`: MIRROR_LAG (R198). -/
def State.mirrorLag (s : State) (part k : Nat) : State :=
  let v := s.drive part
  let m := s.mirror v
  let valid := s.flag F.UPD_MIR_VALID v 0
  let from_ := if valid then some (s.fld F.UPD_MIR_EPOCH v 0) else m.armed
  let behind := match from_ with
    | some e => decide ((s.mirInterval v : Int) < signed 16 (k + 65536 - e % 65536))
    | none => false
  if m.armed.isSome && behind && !m.lagged then
    (s.setMirror v { m with lagged := true }).event part 0x0203 (toLe 1 part ++ toLe 2 k
      ++ toLe 2 (s.fld F.UPD_MIR_EPOCH v 0) ++ toLe 1 (b2n valid) ++ toLe 1 (s.fld F.UPD_MIR_BROKEN v 0)
      ++ toLe 2 (s.mirInterval v))
  else s

/-- A mirrored bucket has reached DONE for step `k`: its image is streamed (R197 step 4). -/
def State.mirrorStream (s : State) (env : Env) (part g tag k recVa : Nat) (u : Upd) : State :=
  let v := s.drive part
  match (s.mirror v).copy with
  | none => s
  | some (p, n, slot) =>
    if p ≠ part ∨ n ≠ k ∨ !u.mirror then s else
    match s.bucketImage env part (s.own part g tag).tier recVa u with
    | (s, bytes, ok) =>
      if !ok then s.mirrorBreak v else
      let m := s.mirror v
      let s := s.setMirror v { m with out := m.out ++ [(part, 4096 * g + tag, recVa, !epochAfter u.mirDone n)], bytes := m.bytes + bytes.length }
      s.mirrorPost v part slot u.mirOff (.mirrorBucket v (4096 * g + tag) n) bytes

/-- A copy of step `k` starts, when that is UPD_MIR_NEXT and the stream is armed, unbroken and idle: the slot, the filling
header, and the images of the buckets that have applied the step already (R197 steps 1 to 4). -/
def State.mirrorStart (s : State) (env : Env) (part k : Nat) : State :=
  let v := s.drive part
  if s.flag F.UPD_MIR_ENABLE v 0 && !s.flag F.UPD_MIR_BROKEN v 0 && (s.mirror v).copy.isNone && k = s.fld F.UPD_MIR_NEXT v 0 then
    let slot := if s.flag F.UPD_MIR_VALID v 0 then 1 - s.fld F.UPD_MIR_SLOT v 0 else 0
    let s := s.setMirror v { s.mirror v with copy := some (part, k, slot), acked := 0, bytes := 0, out := [] }
    let s := ((s.setFld F.UPD_MIR_BUSY v 0 1).mirrorHeader v false).mirrorFull v
    s.buckets.foldl (fun s b =>
      match b.2.2.2.applied with
      | some (n, d) => if b.1 = part ∧ n = k then s.mirrorStream env part b.2.1 b.2.2.1 k b.2.2.2.recVa (updOf d) else s
      | none => s) s
  else s

/-- The copy that follows starts at once when its step has been applied already (R197). -/
def State.mirrorNext (s : State) (env : Env) (part : Nat) : State :=
  let n := s.fld F.UPD_MIR_NEXT (s.drive part) 0
  if s.buckets.any fun b => b.1 = part && (b.2.2.2.applied.any fun a => a.1 = n) then s.mirrorStart env part n else s

/-- A write of the stream has ended (R197 steps 4 and 6, R199). -/
def State.mirrorNote (s : State) (env : Env) (src : OpSrc) (status : Nat) : State :=
  match src with
  | .mirrorBucket v b n =>
    let m := s.mirror v
    match m.out.find? fun o => o.2.1 = b with
    | none => s
    | some o =>
      if status ≠ 0 then s.mirrorBreak v else
      let s := s.setMirror v { m with out := m.out.erase o, acked := m.acked + 1 }
      let tier := (s.own o.1 (b / 4096) (b % 4096)).tier
      match s.writeVa env (casRq o.1 tier) (o.2.2.1 + 122) (toLe 2 n) with
      | (s, r) =>
        let s := if r = .okay then s else s.updErr 2 o.1 tier n 0
        (s.mirrorFull v).gateMarks
  | .mirrorHeader v _ complete =>
    match (s.mirror v).copy with
    | none => s
    | some (part, n, slot) =>
      if status ≠ 0 then s.mirrorBreak v
      else if !complete then s else
      let s := s.setMirror v { s.mirror v with copy := none, lagged := false, acked := 0, bytes := 0 }
      let s := ((s.setFld F.UPD_MIR_EPOCH v 0 n).setFld F.UPD_MIR_SLOT v 0 slot).setFld F.UPD_MIR_VALID v 0 1
      ((s.setFld F.UPD_MIR_BUSY v 0 0).setFld F.UPD_MIR_NEXT v 0 (s.fld F.UPD_MIR_NEXT v 0 + s.mirInterval v)).mirrorNext
        env part
  | _ => s

/-- A flow has failed: a copy that goes over it is abandoned (R199). -/
def State.mirrorFlow (s : State) (part ctx : Nat) : State :=
  let v := s.drive part
  if (s.mirror v).copy.any fun c => c.1 = part && s.fld F.UPD_MIR_CTX v 0 = ctx then s.mirrorBreak v else s

/-- A write of UPD_MIR_CTRL: setting UPD_MIR_ENABLE arms the stream and ends a broken one; clearing it abandons a copy
(R194, R199). -/
def State.mirCtrl (s : State) (v value : Nat) : State :=
  let was := s.flag F.UPD_MIR_ENABLE v 0
  let s := s.setRegN .updMirCtrl v 0 (value &&& 0xFFFFFF01)
  if bit value 0 && !was then
    (s.setFld F.UPD_MIR_BROKEN v 0 0).setMirror v { s.mirror v with armed := some (s.fld F.UPD_MIR_NEXT v 0) }
  else if !bit value 0 && was && (s.mirror v).copy.isSome then (s.mirrorStop v).gateMarks
  else s

/-- Tell the using units what Aqueduct has told them, at most `n` times over. -/
def State.settle (s : State) (env : Env) : Nat → State
  | 0 => s
  | n + 1 =>
    if s.aqd.notes = [] then s else
    let l := s.aqd.notes
    let s := s.withAqd fun a => { a with notes := [] }
    (l.foldl (fun s x =>
      match x with
      | .mirror src status => s.mirrorNote env src status
      | .flowFailed part ctx msgs => (s.mirrorFlow part ctx).casFlowFailed part ctx msgs) s).settle env n

/-- Tell them all of it; what they do in turn can fail a flow again, a few times at most. -/
def State.settleNotes (s : State) (env : Env) : State := s.settle env 16

end Sys2Proof.Machine
end

