-- ==== Sys2Proof/Machine/Cascade.lean ====
section
/-! DEFINITION. The Cascade: arming, posts, the messages between ranks, the fold of contributions at a bucket's
owner, gathers and re-gathers, remap and abort (spec/09). The update between sum and gather stands in Update.lean. -/

namespace Sys2Proof.Machine

/-! ### Sending -/

/-- The contribution of the bucket is not to be sent now: a re-gather of its epoch is pending on this rank (R111, R228). -/
def RankBkt.holds (r : RankBkt) : Bool := r.post.any fun p => r.rposts.any fun e => e.2 = p.epoch

/-- A message belongs to a contribution that is held so. -/
def CasGroup.heldMsg (x : CasGroup) (m : CasMsg) : Bool :=
  let c := cmhOf m.bytes
  c.type = 1 && (x.rankOf c.tag).holds

/-- The context by which a message may leave now (R203, R214, R225, R228, R229). -/
def State.casWay (s : State) (part : Nat) (x : CasGroup) (m : CasMsg) : Option Nat :=
  match x.hdr.ranks[m.dest]? with
  | none => none
  | some e =>
    if e.lanes = 0 then none else
    let c := e.flow + m.lane % e.lanes
    if (s.ctx c).state = 2 && (s.ctx c).part = part && !x.heldMsg m && (!m.slotted || x.hdr.slotDest s.ns = some m.dest) then some c
    else none

/-- Let every message leave that may. -/
def State.casPump (s : State) (env : Env) (part g : Nat) : State :=
  match s.grp part g with
  | none => s
  | some x =>
    let r := x.out.foldl (fun (a : State × List CasMsg) m =>
      match a.1.casWay part x m with
      | some c =>
        let s := a.1.sendCascade env part c m.bytes m.slotted
        (s, if (s.ctx c).state = 2 then a.2 else a.2 ++ [m])
      | none => (a.1, a.2 ++ [m])) (s, [])
    (r.1.modGrp part g fun y => { y with out := r.2 }).settleNotes env

/-- Queue a message, and let it leave if it may. -/
def State.casSend (s : State) (env : Env) (part g : Nat) (m : Cmh) : State :=
  match s.grp part g with
  | none => s
  | some x => (s.setGrp part g (some { x with out := x.out ++ [x.hdr.queued m m.bytes] })).casPump env part g

/-- A message of this rank. -/
def GroupHdr.msg (h : GroupHdr) (type tag epoch dst : Nat) : Cmh :=
  { type := type, key := h.key, tag := tag, epoch := epoch, src := h.self_, dst := dst }

/-- Send a message without payload. -/
def State.casPlain (s : State) (env : Env) (part g type tag epoch dst : Nat) : State :=
  match s.grp part g with
  | none => s
  | some x => s.casSend env part g (x.hdr.msg type tag epoch dst)

/-- Send `data` to `dst` as data messages of a type (R212); gathers carry LAST and the content check. -/
def State.casData (s : State) (env : Env) (part g type tag epoch dst status : Nat) (data : List Byte) : State :=
  match s.grp part g with
  | none => s
  | some x =>
    let h := x.hdr
    let e := data.length / 2
    let n := h.frags e
    (upFrom 0 n).foldl (fun s f =>
      let last := decide (f + 1 = n) && decide (type ≠ 1)
      let c := min h.epf (e - f * h.epf)
      s.casSend env part g
        { h.msg type tag epoch dst with last := last, status := status, offset := f * h.epf, count := c,
                                        check := if last then crc64 data else 0,
                                        payload := slice data (2 * f * h.epf) (2 * c) }) s

/-! ### Completions -/

/-- QC_INFO of class 2 (R313). -/
def casInfo (g tag epoch : Nat) : Nat := g % 16 + 16 * (tag % 4096) + 65536 * (epoch % 65536)

/-- Complete a pending contribute post (R210). -/
def State.postDone (s : State) (env : Env) (part g tag status : Nat) : State :=
  match s.grp part g with
  | none => s
  | some x =>
    match (x.rankOf tag).post with
    | none => s
    | some p =>
      let s := s.modRank part g tag fun r =>
        { r with post := none, last := if status = 0xB then r.last else some p.epoch }
      s.complete env p.ticket 2 status (casInfo g tag p.epoch)

/-! ### Contributing (R211, R217, R228) -/

/-- Send this rank's pending contribution to the bucket's owner from fragment 0. -/
def State.sendContrib (s : State) (env : Env) (part g tag : Nat) : State :=
  match s.grp part g with
  | none => s
  | some x =>
    match (x.rankOf tag).post with
    | none => s
    | some p =>
      match s.bd env part g x.hdr tag with
      | (s, none) => s
      | (s, some b) =>
        if p.zero then
          s.casSend env part g { x.hdr.msg 1 tag p.epoch b.owner with zero := true, count := b.count }
        else match s.readVa env (casRq part b.tier) b.grad (2 * b.count) with
          | (s, .okay, d) => s.casData env part g 1 tag p.epoch b.owner 0 d
          | (s, _, _) => (s.casErr 6 part g tag p.epoch x.hdr.self_).postDone env part g tag 0xB

/-- The message is one of a contribution (R217). -/
def isContribOf (tag epoch : Nat) (c : Cmh) : Bool := c.type = 1 && c.tag = tag && c.epoch = epoch

/-! ### The owner's fold (R204, R215 to R217, R222) -/

/-- The wrong result that a command's environment gives a stage of the Cistern adder at element `e` (R222). -/
def adderOut (env : Env) (e stage : Nat) : Option Nat := (env.adder.find? fun f => f.elem = e && f.stage = stage).map (·.out)

/-- Exponent and significand of a finite FP32 as R222 takes them. -/
def sigExp (w : Nat) : Nat × Nat :=
  let e := bits w 30 23
  if e = 0 then (1, w % 2 ^ 23) else (e, w % 2 ^ 23 + 2 ^ 23)

/-- A right shift that ORs the bits shifted out into bit 0 (R222). -/
def shiftSticky (b n : Nat) : Nat :=
  let q := b >>> n
  if q <<< n = b then q else q ||| 1

/-- The normalising left shift of a raw sum `y` at exponent `e`: 24 bits before the three of rounding, and no further than the
smallest exponent. -/
def normShift (e y : Nat) : Nat := min (27 - bitLen y) (e - 1)

/-- Round to nearest, ties to even: what is added to the significand `q` for the bits `t` cut off below it, `k` of them. -/
def cisRoundUp (q t k : Nat) : Nat := b2n (decide (2 ^ (k - 1) < t) || (decide (t = 2 ^ (k - 1)) && bit q 0))

/-- The sum of two FP32 values in the Cistern, where `out` gives the wrong results of the adder's stages: the four residue
checks of R222 find them (none) or let a wrong sum through. A zero, an infinity or a NaN passes without a check. -/
def cisternAdd (out : Nat → Option Nat) (x y : Nat) : Option Nat :=
  if (upFrom 0 4).all (fun i => out i = none) || !ffin x || !ffin y || (fv x).isZero || (fv y).isZero then some (fadd x y) else
  let big := if y % 2 ^ 31 ≤ x % 2 ^ 31 then x else y
  let small := if y % 2 ^ 31 ≤ x % 2 ^ 31 then y else x
  let e := (sigExp big).1
  let a := (sigExp big).2 * 8
  let b := shiftSticky ((sigExp small).2 * 8) (e - (sigExp small).1)
  let same := decide (bit big 31 = bit small 31)
  let y := (out 0).getD (if same then a + b else a - b)
  if y % 7 ≠ (if same then (a % 7 + b % 7) % 7 else (a % 7 + 7 - b % 7) % 7) then none else
  let l := normShift e y
  let yn := (out 1).getD (y <<< l)
  if yn % 7 ≠ y % 7 * 2 ^ (l % 3) % 7 then none else
  let k := if yn < 2 ^ 27 then 3 else 4
  let q := (out 2).getD (yn >>> k)
  let t := yn % 2 ^ k
  if (q % 7 * 2 ^ (k % 3) + t % 7) % 7 ≠ yn % 7 then none else
  let sum := (out 3).getD (q + cisRoundUp q t k)
  if sum % 7 ≠ (q % 7 + cisRoundUp q t k) % 7 then none
  else some (fp32.ofVal (.fin (bit big 31) sum ((e : Int) - 153 - l + k)))

/-- Fold elements of contribution `r` from element `o` on: the new sum, or the element of a mismatch. -/
def foldElems (env : Env) (r : Nat) : List (Nat × Nat) → Nat → List Nat → Except Nat (List (Nat × Nat))
  | sum, _, [] => .ok sum
  | sum, e, w :: ws =>
    let x := widen 1 w
    if r = 0 then foldElems env r (sput 0 sum e x) (e + 1) ws else
    match cisternAdd (adderOut env e) (sget 0 sum e) x with
    | none => .error e
    | some v => foldElems env r (sput 0 sum e v) (e + 1) ws

/-- BF16 elements of a byte string. -/
def bf16s (d : List Byte) : List Nat := (upFrom 0 (d.length / 2)).map fun i => leAt d (2 * i) 2

/-- Send CALL to a rank. -/
def State.callRank (s : State) (env : Env) (part g tag r : Nat) : State :=
  s.casPlain env part g 3 tag (s.own part g tag).epoch r

/-- The lowest-indexed deferred rank of the group's collecting buckets: rank and tag (R217). -/
def CasGroup.nextDeferred (x : CasGroup) : Option (Nat × Nat) :=
  x.own.foldl (fun a e =>
    if e.2.st ≠ 2 then a else
    e.2.deferred.foldl (fun (a : Option (Nat × Nat)) r =>
      match a with
      | none => some (r, e.1)
      | some (r0, t0) => if r < r0 ∨ (r = r0 ∧ e.1 < t0) then some (r, e.1) else a) a) none

/-- A hold slot becomes free: it is reserved for the lowest deferred rank, which is called (R217). -/
def State.freeSlot (s : State) (env : Env) (part g slot : Nat) : State :=
  let s := s.modGrp part g fun x => { x with slots := x.slots.filter fun e => e.1 ≠ slot }
  match s.grp part g with
  | none => s
  | some x =>
    match x.nextDeferred with
    | none => s
    | some (r, tag) =>
      let s := s.modGrp part g fun y => { y with slots := y.slots ++ [(slot, tag, r)] }
      let s := s.modOwn part g tag fun b =>
        { b with deferred := b.deferred.filter (· ≠ r), reserved := b.reserved ++ [(r, slot)] }
      s.callRank env part g tag r

/-- A rank in turn that was deferred is called (R217). -/
def State.callTurn (s : State) (env : Env) (part g tag : Nat) : State :=
  let b := s.own part g tag
  if b.st = 2 ∧ b.folded ∈ b.deferred then
    (s.modOwn part g tag fun b => { b with deferred := b.deferred.filter (· ≠ b.folded) }).callRank env part g tag b.folded
  else s

/-- Slots that a bucket holds for rank `r`, in use or reserved. -/
def OwnBkt.slotsOf (b : OwnBkt) (r : Nat) : List Nat :=
  ((b.held.filter fun h => h.rank = r).map (·.slot)) ++ ((b.reserved.filter fun e => e.1 = r).map (·.2))

/-- Give up what a bucket holds for rank `r`. -/
def State.dropHeld (s : State) (env : Env) (part g tag r : Nat) : State :=
  let l := (s.own part g tag).slotsOf r
  let s := s.modOwn part g tag fun b =>
    { b with held := b.held.filter (fun h => h.rank ≠ r), reserved := b.reserved.filter fun e => e.1 ≠ r }
  l.foldl (fun s k => s.freeSlot env part g k) s

/-- Every contribution of the bucket has been folded: it waits at the update gate (R218, R191). -/
def State.sumDone (s : State) (part g tag : Nat) : State :=
  s.modOwn part g tag fun b => { b with st := 3 }

/-- The contribution in turn is folded over all elements (R216, R217). -/
def State.turnDone (s : State) (env : Env) (part g tag : Nat) : State :=
  match s.grp part g with
  | none => s
  | some x =>
    let r := (x.ownOf tag).folded
    let s := s.count 0x0501 (x.ownOf tag).tier (ofPart part) 1
    let s := s.modOwn part g tag fun b => { b with folded := r + 1, frags := [] }
    let s := s.dropHeld env part g tag r
    if x.hdr.n ≤ r + 1 then s.sumDone part g tag else s.callTurn env part g tag

/-- Start the fold again from contribution 0, asking every rank of `l` to replay (R223, R230). -/
def State.refold (s : State) (env : Env) (part g tag : Nat) (l : List Nat) : State :=
  let b := s.own part g tag
  let s := s.count 0x0503 b.tier (ofPart part) 1
  let slots := b.held.map (·.slot) ++ b.reserved.map (·.2)
  let s := s.modOwn part g tag fun b => { b with folded := 0, frags := [], sum := [], held := [], reserved := [] }
  let s := slots.foldl (fun s k => s.freeSlot env part g k) s
  let s := l.foldl (fun s r => s.casPlain env part g 4 tag b.epoch r) s
  s.callTurn env part g tag

/-- Ranks other than this one from which a fragment has been accepted. -/
def CasGroup.accepted (x : CasGroup) (b : OwnBkt) : List Nat :=
  (upFrom 0 x.hdr.n).filter fun r => r ≠ x.hdr.self_
    && (decide (r < b.folded) || (r = b.folded && b.frags ≠ []) || b.held.any fun h => h.rank = r)

/-- A residue mismatch at element `e` (R223). A fragment of the rank being folded had been accepted, be it the first. -/
def State.mismatch (s : State) (env : Env) (part g tag e : Nat) : State :=
  match s.grp part g with
  | none => s
  | some x =>
    let b := x.ownOf tag
    if b.mism = 0 then
      let s := s.modOwn part g tag fun b => { b with mism := 1 }
      let s := s.casErr 2 part g tag b.epoch b.folded
      let s := s.event part 0x0302 (toLe 2 x.hdr.key ++ toLe 2 tag ++ toLe 2 b.epoch ++ toLe 1 b.tier ++ toLe 4 e
        ++ toLe 1 b.folded)
      s.refold env part g tag ((upFrom 0 x.hdr.n).filter fun r => r ∈ x.accepted b || (r = b.folded && r ≠ x.hdr.self_))
    else (s.casErr 3 part g tag b.epoch b.folded).failModule 1 b.tier

/-- Fold the fragments `l` (number and elements) of the contribution in turn. -/
def State.foldFrags (s : State) (env : Env) (part g tag : Nat) (l : List (Nat × List Nat)) : State :=
  match s.grp part g with
  | none => s
  | some x =>
    let b := x.ownOf tag
    let r := l.foldl (fun (a : Except Nat (List (Nat × Nat))) f =>
      match a with
      | .ok sum => foldElems env b.folded sum (f.1 * x.hdr.epf) f.2
      | .error e => .error e) (.ok b.sum)
    match r with
    | .error e => s.mismatch env part g tag e
    | .ok sum =>
      let fr := b.frags ++ l.map (·.1)
      let s := s.modOwn part g tag fun b => { b with sum := sum, frags := fr }
      if x.hdr.frags b.elems ≤ fr.length then s.turnDone env part g tag else s

/-- Elements of a ZERO contribution in fragment `f`. -/
def zeroFrag (h : GroupHdr) (e f : Nat) : Nat × List Nat := (f, List.replicate (min h.epf (e - f * h.epf)) 0)

/-! ### A contribution at the owner -/

/-- The lowest hold slot that is neither in use nor reserved. -/
def CasGroup.spareSlot (x : CasGroup) : Option Nat :=
  (upFrom 0 x.hdr.holdSlots).find? fun k => !x.slots.any fun e => e.1 = k

/-- A new epoch begins: it collects, or waits for Cistern space (R215, R220, R221). -/
def State.beginEpoch (s : State) (part g tag : Nat) (d : Bd) (epoch : Nat) : State :=
  let u := cisUnits d.count
  let full := decide (s.cisQuota part d.tier < s.cisUsed part d.tier + u)
  let s := s.modOwn part g tag fun b =>
    { b with st := if full then 1 else 2, epoch := epoch, tier := d.tier, units := u, elems := d.count, folded := 0,
             frags := [], sum := [], held := [], reserved := [], deferred := [], mism := 0, since := none, late := false,
             readyAt := none, recVa := d.upd }
  if full then { s with cas := { s.cas with waiting := s.cas.waiting ++ [(part, g, tag)] } } else s

/-- Defer a rank, counted on the bucket's tier (R216, R221). -/
def State.deferRank (s : State) (env : Env) (part g tag epoch r : Nat) : State :=
  (s.count 0x0502 (s.own part g tag).tier (ofPart part) 1).casPlain env part g 2 tag epoch r

/-- Note the first accepted contribution (R229). -/
def State.noteFirst (s : State) (part g tag : Nat) : State :=
  s.modOwn part g tag fun b => if b.since = none then { b with since := some s.ns } else b

/-- Write a fragment into a hold slot (R216). An error response sets CAS_E_MEM and the slot is given up, the rank
being called again as for a slot that cannot be read. -/
def State.holdFrag (s : State) (env : Env) (part g tag : Nat) (h : GroupHdr) (m : Cmh) (slot : Nat) : State :=
  if m.zero then s else
  match s.writeVa env (casRq part (s.own part g tag).tier) (h.holdVa + slot * h.holdBytes + 2 * m.offset) m.payload with
  | (s, .okay) => s
  | (s, _) => ((s.casErr 6 part g tag m.epoch m.src).dropHeld env part g tag m.src).callRank env part g tag m.src

/-- The fragment's number, or all numbers of a ZERO contribution. -/
def Cmh.fragNos (m : Cmh) (h : GroupHdr) (e : Nat) : List Nat :=
  if m.zero then upFrom 0 (h.frags e) else [m.offset / h.epf]

/-- A fragment out of turn from rank `m.src` (R216). -/
def State.outOfTurn (s : State) (env : Env) (part g tag : Nat) (x : CasGroup) (m : Cmh) : State :=
  let b := x.ownOf tag
  let nos := m.fragNos x.hdr b.elems
  match b.held.find? fun h => h.rank = m.src with
  | some h =>
    if nos.all fun f => decide (f ∈ h.frags) then s else
    let s := s.modOwn part g tag fun b => { b with held := b.held.map fun y =>
      if y.rank = m.src then { y with frags := y.frags ++ nos.filter (fun f => decide (f ∉ y.frags)), zero := y.zero || m.zero }
      else y }
    s.holdFrag env part g tag x.hdr m h.slot
  | none =>
    let res := (b.reserved.find? fun e => e.1 = m.src).map (·.2)
    match (match res with
      | some k => some k
      | none => x.spareSlot) with
    | some k =>
      let s := s.modGrp part g fun y =>
        { y with slots := y.slots.filter (fun e => e.1 ≠ k) ++ [(k, tag, m.src)] }
      let s := s.modOwn part g tag fun b =>
        { b with reserved := b.reserved.filter (fun e => e.1 ≠ m.src), held := b.held ++ [⟨m.src, k, nos, m.zero⟩] }
      s.holdFrag env part g tag x.hdr m k
    | none =>
      (s.modOwn part g tag fun b => { b with deferred := b.deferred ++ [m.src] }).deferRank env part g tag b.epoch m.src

/-- A contribution fragment of the epoch that the bucket collects (R216). -/
def State.collectFrag (s : State) (env : Env) (part g tag : Nat) (m : Cmh) : State :=
  match s.grp part g with
  | none => s
  | some x =>
    let b := x.ownOf tag
    if m.src < b.folded ∨ m.src ∈ b.deferred then s else
    let s := s.noteFirst part g tag
    if m.src = b.folded then
      let here := (b.held.find? fun h => h.rank = m.src).map (·.frags)
      let nos := (m.fragNos x.hdr b.elems).filter fun f => !decide (f ∈ b.frags) && !decide (f ∈ here.getD [])
      if nos = [] then s
      else if m.zero then s.foldFrags env part g tag (nos.map (zeroFrag x.hdr b.elems))
      else s.foldFrags env part g tag (nos.map fun f => (f, bf16s m.payload))
    else s.outOfTurn env part g tag x m

/-- A contribution fragment arrives at the bucket's owner (R215, R216, R221). -/
def State.ownerContrib (s : State) (env : Env) (part g : Nat) (d : Bd) (m : Cmh) : State :=
  let tag := m.tag
  let b := s.own part g tag
  let begin_ := fun (s : State) =>
    let s := s.beginEpoch part g tag d m.epoch
    if (s.own part g tag).st = 1 then
      (s.modOwn part g tag fun b => { b with deferred := [m.src] }).deferRank env part g tag m.epoch m.src
    else s.collectFrag env part g tag m
  if b.st = 0 then
    if afterOpt m.epoch b.retired then begin_ s else s.casErr 5 part g tag m.epoch m.src
  else if m.epoch = b.epoch then
    if b.st = 1 then
      if m.src ∈ b.deferred then s
      else (s.modOwn part g tag fun b => { b with deferred := b.deferred ++ [m.src] }).deferRank env part g tag m.epoch m.src
    else if b.st = 2 then s.collectFrag env part g tag m
    else s
  else if epochAfter m.epoch b.epoch then
    if (m.src, m.epoch) ∈ b.later then s
    else (s.modOwn part g tag fun b => { b with later := b.later ++ [(m.src, m.epoch)] }).deferRank env part g tag m.epoch m.src
  else s.casErr 5 part g tag m.epoch m.src

/-- This rank, as the owner, has posted its own contribution: it may begin the epoch (R215). -/
def State.ownArrives (s : State) (part g tag : Nat) (d : Bd) (epoch : Nat) : State :=
  let b := s.own part g tag
  if b.st = 0 ∧ afterOpt epoch b.retired then
    let s := s.beginEpoch part g tag d epoch
    if (s.own part g tag).st = 2 then s.noteFirst part g tag else s
  else if b.st = 2 ∧ b.epoch = epoch then s.noteFirst part g tag
  else s

/-- Units have been released: the partition's waiting buckets on the tier are granted in order (R221), at most
`n` of them. -/
def State.cisGrant (s : State) (env : Env) (part tier : Nat) : Nat → State
  | 0 => s
  | n + 1 =>
    match s.cas.waiting.find? fun w => w.1 = part && (s.own part w.2.1 w.2.2).tier = tier with
    | none => s
    | some (_, g, tag) =>
      let b := s.own part g tag
      if s.cisQuota part tier < s.cisUsed part tier + b.units then s else
      let s := { s with cas := { s.cas with waiting := s.cas.waiting.filter fun w => w ≠ (part, g, tag) } }
      let s := s.modOwn part g tag fun b => { b with st := 2, deferred := [] }
      let mine := ((s.grp part g).bind fun x => (x.rankOf tag).post).any fun p => p.epoch = b.epoch
      let s := if mine then s.noteFirst part g tag else s
      let s := (upFrom 0 256).foldl (fun s r =>
        if r ∈ b.deferred then s.casPlain env part g 3 tag b.epoch r else s) s
      s.cisGrant env part tier n

/-- Grant to all that wait. -/
def State.cisRelease (s : State) (env : Env) (part tier : Nat) : State :=
  s.cisGrant env part tier s.cas.waiting.length

/-! ### Retirement -/

/-- The owner retires the bucket's epoch once every rank has acknowledged the gather: ranks deferred for a later
epoch are called, and this rank's own next contribution may begin (R215, R219). -/
def State.retire (s : State) (env : Env) (part g tag : Nat) : State :=
  match s.grp part g with
  | none => s
  | some x =>
    let b := x.ownOf tag
    if b.st ≠ 5 ∨ b.awaiting ≠ [] then s else
    let s := s.modOwn part g tag fun b => { b with st := 0, retired := some b.epoch, later := [], sum := [], rec_ := [] }
    let s := b.later.foldl (fun s e => s.casPlain env part g 3 tag e.2 e.1) s
    match (x.rankOf tag).post with
    | none => s
    | some p =>
      match s.bd env part g x.hdr tag with
      | (s, some d) => if epochAfter p.epoch b.epoch then s.ownArrives part g tag d p.epoch else s
      | (s, none) => s

/-! ### High halves (R193, R218, R227) -/

/-- The bucket's `e` high halves as its update record places them, and the epoch they carry. Bytes, an address or
an epoch that cannot be read are free values (log entry 3). -/
def State.halves (s : State) (env : Env) (part tier recVa e : Nat) : State × List Byte × Nat × Nat :=
  match s.readVa env (casRq part tier) recVa 192 with
  | (s, .okay, d) =>
    let u := updOf d
    let a := u.hi + 2 * u.first
    match s.readPlane env (casRq part tier) a (2 * e) with
    | (s, p) =>
      let bytes := (upFrom 0 (2 * e)).map fun i => if p.good.getD i false then p.bytes.getD i 0 else Config.freeByte s.free i
      (if p.ok 0 (2 * e) then s else s.bump, bytes, u.lastEpoch, a)
  | (s, _, _) =>
    (s.bump, (upFrom 0 (2 * e)).map (Config.freeByte s.free), s.freeBits 16, s.freeBits 48)

/-! ### Receiving a gather (R219, R227) -/

/-- The bytes of a received gather, in address order. -/
def Recv.bytes (r : Recv) (n : Nat) : List Byte :=
  (upFrom 0 n).flatMap fun f => ((r.frags.find? fun e => e.1 = f).map (·.2)).getD []

/-- Write a shard record. -/
def State.putShard (s : State) (env : Env) (rq : Rq) (va tensor epoch tag kind st sent recv bytes : Nat) : State × Bool :=
  match s.writeVa env rq va (shardBytes tensor epoch tag kind st sent recv bytes) with
  | (s, r) => (s, r = .okay)

/-- A local write failed: SHR_STATE 2 where it can be written, CAS_E_MEM. The record's two checks are 0 (DESIGN CHOICE, log
entry 38). -/
def State.gatherFailed (s : State) (env : Env) (part tier g tag va tensor epoch kind bytes rank : Nat) : State :=
  ((s.putShard env (casRq part tier) va tensor epoch tag kind 2 0 0 bytes).1).casErr 6 part g tag epoch rank

/-- The gather or re-gather of a bucket is written whole, or has failed. -/
structure RecvEnd where
  ended : Bool
  ok : Bool
  deriving DecidableEq, Repr

/-- One fragment of a gather (`kind` 0) or re-gather (`kind` 1): written, with the shard record before the first
and after the last. SHR_CHECK fields of the record with SHR_STATE 0 are free values. -/
def State.recvFrag (s : State) (env : Env) (part g : Nat) (h : GroupHdr) (d : Bd) (m : Cmh) (kind : Nat) (old : Option Recv) :
    State × Option Recv × RecvEnd :=
  let tag := m.tag
  let va := if kind = 0 then d.shr else d.rshr
  let ep := (if kind = 0 then m.epoch + 1 else m.epoch) % 65536
  let nf := h.frags d.count
  let fresh := match old with
    | some r => decide (r.epoch ≠ m.epoch)
    | none => true
  let r : Recv := if fresh then ⟨m.epoch, m.status, 0, [], false⟩ else old.getD ⟨m.epoch, m.status, 0, [], false⟩
  let f := m.offset / h.epf
  if r.frags.any (fun e => e.1 = f) then (s, some r, ⟨false, true⟩) else
  let r := { r with frags := r.frags ++ [(f, m.payload)], check := if m.last then m.check else r.check }
  let full := decide (nf ≤ r.frags.length)
  let keep := fun (r : Recv) => if full then none else some r
  if r.bad then (s, keep r, ⟨false, false⟩) else
  let open_ := if fresh then
      let w := s.putShard env (casRq part d.tier) va d.tensor ep tag kind 0 (s.freeBits 64) (s.bump.freeBits 64) (2 * d.count)
      (w.1.bump.bump, w.2)
    else (s, true)
  let data := if open_.2 then open_.1.writeVa env (casRq part d.tier) (d.param + 2 * m.offset) m.payload else (open_.1, .ue)
  if data.2 ≠ .okay then
    (data.1.gatherFailed env part d.tier g tag va d.tensor ep kind (2 * d.count) m.src, keep { r with bad := true }, ⟨true, false⟩)
  else if full then
    let w := data.1.putShard env (casRq part d.tier) va d.tensor ep tag kind 1 r.check (crc64 (r.bytes nf)) (2 * d.count)
    if w.2 then (w.1, none, ⟨true, true⟩)
    else (w.1.casErr 6 part g tag ep m.src, none, ⟨true, false⟩)
  else (data.1, some r, ⟨false, true⟩)

/-- Send the whole contribution again, what waited of it being dropped first; while a re-gather holds it, it is sent when that
ends (R217, R223, R228, R230). -/
def State.resend (s : State) (env : Env) (part g tag : Nat) : State :=
  match s.grp part g with
  | none => s
  | some x =>
    match (x.rankOf tag).post with
    | none => s
    | some p =>
      let s := s.casDrop part g (isContribOf tag p.epoch)
      if (x.rankOf tag).holds then s.modRank part g tag fun r => { r with post := some { p with waits := true } }
      else s.sendContrib env part g tag

/-- A re-gather begins to hold the bucket's contribution: messages of it that a flow has not transmitted return to the group
(R228). -/
def State.holdContrib (s : State) (part g tag : Nat) : State :=
  match s.grp part g with
  | none => s
  | some x =>
    match (x.rankOf tag).post with
    | none => s
    | some p =>
      let r := s.casTake part (fun m => decide (m.key = x.hdr.key) && isContribOf tag p.epoch m) false
      r.1.modGrp part g fun y => { y with out := y.out ++ r.2.map fun d => y.hdr.queued (cmhOf d) d }

/-- The oldest pending re-gather post of a bucket completes; a contribution that waited for it is sent, and what is left of
one that it has held (R227, R228). -/
def State.regatherDone (s : State) (env : Env) (part g tag status : Nat) : State :=
  match s.grp part g with
  | none => s
  | some x =>
    match (x.rankOf tag).rposts with
    | [] => s
    | (t, k) :: rest =>
      let s := (s.modRank part g tag fun r => { r with rposts := rest }).complete env t 2 status (casInfo g tag k)
      match (x.rankOf tag).post with
      | none => s
      | some p =>
        if rest.any (fun e => e.2 = p.epoch) then s
        else if p.waits then
          let s := s.modRank part g tag fun r => { r with post := r.post.map fun p => { p with waits := false } }
          match s.bd env part g x.hdr tag with
          | (s, none) => s
          | (s, some d) =>
            if d.owner = x.hdr.self_ then s.ownArrives part g tag d p.epoch else s.sendContrib env part g tag
        else s.casPump env part g

/-! ### Serving re-gathers (R227) -/

/-- The epoch for which the gate debt of a served request would count, if any. -/
def OwnBkt.debtEpoch (b : OwnBkt) (epoch : Nat) : Bool :=
  if b.st = 0 then (match b.retired with
    | none => true
    | some r => epoch = (r + 1) % 65536)
  else b.st ≠ 5 && epoch = b.epoch

/-- Serve a re-gather request of rank `r`; this rank's own is copied locally. -/
def State.serveRegather (s : State) (env : Env) (part g tag r : Nat) (h : GroupHdr) (d : Bd) : State :=
  match s.halves env part d.tier d.upd d.count with
  | (s, bytes, le, _) =>
    let ep := (le + 1) % 65536
    if r = h.self_ then
      match s.writeVa env (casRq part d.tier) d.param bytes with
      | (s, .okay) =>
        let c := crc64 bytes
        let w := s.putShard env (casRq part d.tier) d.rshr d.tensor ep tag 1 1 c c (2 * d.count)
        if w.2 then w.1.regatherDone env part g tag 0
        else (w.1.casErr 6 part g tag ep r).regatherDone env part g tag 8
      | (s, _) =>
        (s.gatherFailed env part d.tier g tag d.rshr d.tensor ep 1 (2 * d.count) r).regatherDone env part g tag 8
    else
      let s := s.modOwn part g tag fun b => if b.debtEpoch ep then { b with debt := b.debt ++ [(r, ep)] } else b
      s.casData env part g 8 tag ep r 0 bytes

/-- A re-gather request reaches the owner: held while the bucket is UPDATING (R227). -/
def State.regatherReq (s : State) (env : Env) (part g tag r : Nat) (h : GroupHdr) (d : Bd) : State :=
  if (s.own part g tag).st = 4 then s.modOwn part g tag fun b => { b with reqs := b.reqs ++ [r] }
  else s.serveRegather env part g tag r h d

/-! ### Arming (R209) -/

/-- CAS_GRP_ARM: the group and bucket descriptors are read; whether the group is idle is seen as the write is made. -/
def doCasGrpArm (vf g : Nat) (s : State) : State :=
  if vf = 0 ∨ !s.fnOpen vf ∨ 16 ≤ g then s else
  let idle := decide (s.fld F.CAS_GRP_STATE vf g = 0)
  let s := if idle then s.setFld F.CAS_GRP_STATE vf g 2 else s
  { s with cas := { s.cas with arming := s.cas.arming ++ [(gkey (vf - 1) g, idle)] } }

def execCasGrpArm (vf g : Nat) (s : State) : Host.Outcome State Fault Refusal := done (doCasGrpArm vf g s)

/-- A rank entry from its 16 bytes, and whether its reserved fields are zero. -/
def rankOf (d : List Byte) : RankEnt × Bool :=
  (⟨leAt d 0 1, leAt d 1 1, leAt d 2 1, leAt d 4 2⟩, zeroAt d 3 1 && zeroAt d 6 10)

/-- The rank entries run in canonical order (R203). -/
def canonical : List RankEnt → Bool
  | [] => true
  | [_] => true
  | a :: b :: l =>
    ((b.terrace = a.terrace && b.localIx = a.localIx + 1) || (b.terrace = a.terrace + 1 && b.localIx = 0)) && canonical (b :: l)

/-- The group header of a descriptor. -/
def hdrOf (d : List Byte) : GroupHdr :=
  let n := leAt d 3 1 + 1
  { key := leAt d 0 2, self_ := leAt d 2 1, n := n, slotted := bit (leAt d 4 1) 0, frag := leAt d 5 1, nb := leAt d 6 2,
    bucketsVa := leAt d 8 8, holdVa := leAt d 16 8, holdBytes := leAt d 24 4, holdSlots := leAt d 28 2, t0 := leAt d 32 8,
    slotLen := leAt d 40 4, guard := leAt d 44 4, lateUs := leAt d 48 4,
    ranks := (upFrom 0 n).map fun i => (rankOf (slice d (64 + 16 * i) 16)).1 }

/-- FORMAT of R209, with the alignments and limits that R202 gives the header's fields. -/
def hdrBad (d : List Byte) (h : GroupHdr) : Bool :=
  decide (1 < leAt d 4 1) || !zeroAt d 30 2 || !zeroAt d 52 12
    || (upFrom 0 h.n).any (fun i => !(rankOf (slice d (64 + 16 * i) 16)).2)
    || ((h.ranks.head?).any fun e => e.terrace ≠ 0 || e.localIx ≠ 0) || !canonical h.ranks
    || decide (h.n ≤ h.self_) || decide (2 < h.frag) || h.nb = 0 || decide (4096 < h.nb)
    || (h.slotted && decide (2 ≤ h.n) && decide (h.slotLen ≤ h.guard))
    || h.bucketsVa % 64 ≠ 0 || h.holdVa % 4096 ≠ 0 || h.holdBytes % 4096 ≠ 0 || decide (4096 < h.holdSlots)

/-- FLOW of R209 and R402. -/
def State.flowBad (s : State) (part : Nat) (h : GroupHdr) : Bool :=
  s.netShut part || (upFrom 0 h.n).any fun i =>
    let e := h.ranks.getD i ⟨0, 0, 0, 0⟩
    if i = h.self_ then e.lanes ≠ 0
    else !decide (e.lanes ∈ [1, 2, 4, 8])
      || (upFrom e.flow e.lanes).any fun c => (s.ctx c).state ≠ 2 || (s.ctx c).part ≠ part

/-- BUCKET of R209: R206 and R207 on one descriptor, whose reserved fields are a matter of FORMAT. -/
def bdBad (p : Part) (h : GroupHdr) (i : Nat) (b : Bd) : Bool :=
  b.tag ≠ i || decide (h.n ≤ b.owner) || decide (Config.tiers p ≤ b.tier) || b.count = 0
    || decide (512 * (1024 * 2 ^ h.frag) < b.count) || decide (h.holdBytes < 2 * b.count)
    || b.grad % 64 ≠ 0 || b.param % 64 ≠ 0 || b.shr % 32 ≠ 0 || b.rshr % 32 ≠ 0
    || (b.owner = h.self_ && b.upd % 64 ≠ 0)

/-- Read the descriptors of buckets `i` to `i + n - 1`. -/
def State.readBds (s : State) (env : Env) (part va : Nat) : Nat → State × Resp × List Bd
  | 0 => (s, .okay, [])
  | n + 1 =>
    match s.readVa env (casRq part 0) va 64 with
    | (s, r, d) =>
      match s.readBds env part (va + 64) n with
      | (s, r', l) => (s, r.join r', bdOf d :: l)

/-- Another armed group of the partition has the key. -/
def State.keyTaken (s : State) (part g key : Nat) : Bool :=
  (upFrom 0 16).any fun j => j ≠ g && ((s.armed part j).any fun x => x.hdr.key = key)

/-- The first failing check of R209 after the reads; 0 when all pass. EVENT is checked when the entry is taken. -/
def State.armCode (s : State) (part g : Nat) (idle : Bool) (d : List Byte) (h : GroupHdr) (bds : List Bd) (resp : Resp) : Nat :=
  let idx := upFrom 0 h.nb
  let bdAt := fun i => bds.getD i (bdOf [])
  if resp ≠ .okay then 1
  else if hdrBad d h ∨ bds.any (·.rsvd) then 2
  else if !idle ∨ s.keyTaken part g h.key then 3
  else if s.flowBad part h then 4
  else if idx.any fun i => bdBad s.part h i (bdAt i) then 5
  else if idx.any fun i => (bdAt i).owner = h.self_ && decide (s.cisQuota part (bdAt i).tier < cisUnits (bdAt i).count) then 6
  else 0

/-- The start of the first slot that opens at or after now, and its number (R225, R296). -/
def GroupHdr.nextSlot (h : GroupHdr) (t : Nat) : Nat × Nat :=
  if t ≤ h.t0 then (h.t0, 0) else
  let q := cdiv (t - h.t0) h.slotLen
  (h.t0 + q * h.slotLen, q)

/-- Reject the arm of a group: one that was idle is idle again. -/
def State.armReject (s : State) (part g code : Nat) (idle : Bool) : State :=
  let s := (s.setFld F.CAS_GRP_RESULT (part + 1) g code).casErr 0 part g 0 0 0
  if idle then s.setFld F.CAS_GRP_STATE (part + 1) g 0 else s

/-- CAS_GRP_ARM_RESULT: the descriptors of the group's oldest arm have been read and are checked (R209). -/
def doCasGrpArmResult (vf g : Nat) (env : Env) (s : State) : State :=
  let part := vf - 1
  let k := gkey part g
  if s.stopped ∨ vf = 0 then s else
  match s.cas.arming.find? fun e => e.1 = k with
  | none => s
  | some a =>
  let idle := a.2
  let s := { s with cas := { s.cas with arming := s.cas.arming.erase a } }
  let va := s.fld F.CAS_GRP_VA vf g * 64
  match s.readVa env (casRq part 0) va 64 with
  | (s, r0, d0) =>
    match s.readVa env (casRq part 0) (va + 64) (16 * (leAt d0 3 1 + 1)) with
    | (s, r1, d1) =>
      let d := d0 ++ d1
      let h := hdrOf d
      match s.readBds env part h.bucketsVa h.nb with
      | (s, r2, bds) =>
        let code := s.armCode part g idle d h bds ((r0.join r1).join r2)
        if code ≠ 0 then s.armReject part g code idle else
        let sl := h.nextSlot s.ns
        let ev := if h.slotted then s.sevTake part { time := sl.1, kind := 4, ref := g, aux := sl.2 % 2 ^ 32 } else (s, some 0)
        match ev.2 with
        | none => ev.1.armReject part g 7 idle
        | some i =>
          let s := ev.1.setGrp part g (some { hdr := h, sev := if h.slotted then some i else none })
          (s.setFld F.CAS_GRP_RESULT vf g 0).setFld F.CAS_GRP_STATE vf g 1

def execCasGrpArmResult (vf g : Nat) (env : Env) (s : State) : Host.Outcome State Fault Refusal :=
  done (doCasGrpArmResult vf g env s)

/-! ### Posts (R209, R210, R228) -/

/-- Refuse a post. -/
def State.refusePost (s : State) (env : Env) (t : Ticket) (part g tag epoch : Nat) : State :=
  (s.casErr 7 part g tag epoch 0).complete env t 2 0xA (casInfo g tag epoch)

/-- A post reaches the Cascade: the 8 bytes `b` (R209, R210). -/
def State.casPost (s : State) (env : Env) (part : Nat) (t : Ticket) (b : List Byte) : State :=
  let kind := leAt b 0 1
  let g := leAt b 2 1 % 16
  let tag := leAt b 4 2 % 4096
  let k := leAt b 6 2
  let bad := decide (1 < kind) || decide (1 < leAt b 1 1) || (kind = 1 && leAt b 1 1 ≠ 0) || decide (15 < leAt b 2 1)
    || !zeroAt b 3 1 || decide (4095 < leAt b 4 2)
  match s.armed part g with
  | none => s.refusePost env t part g tag k
  | some x =>
    let r := x.rankOf tag
    if bad ∨ x.hdr.nb ≤ tag ∨ (kind = 0 ∧ r.post.isSome) ∨ !afterOpt k r.last then s.refusePost env t part g tag k else
    match s.bd env part g x.hdr tag with
    | (s, none) => s.complete env t 2 0xB (casInfo g tag k)
    | (s, some d) =>
      let mine := decide (d.owner = x.hdr.self_)
      if kind = 0 then
        let waits := r.rposts.any fun e => e.2 = k
        let p : CasPost := ⟨t, k, bit (leAt b 1 1) 0, waits⟩
        let s := s.modRank part g tag fun r => { r with post := some p }
        if waits then s
        else if mine then s.ownArrives part g tag d k
        else s.sendContrib env part g tag
      else
        let s := (s.modRank part g tag fun r => { r with rposts := r.rposts ++ [(t, k)] }).holdContrib part g tag
        if mine then s.regatherReq env part g tag x.hdr.self_ x.hdr d
        else s.casPlain env part g 7 tag k d.owner

/-! ### Receiving (R214) -/

/-- A message is of a type of R213 and has a whole header; others are discarded at once. -/
def cmhSound (d : List Byte) : Bool := decide (32 ≤ d.length) && 1 ≤ (cmhOf d).type && (cmhOf d).type ≤ 9

/-- Aqueduct hands a message over (R250); one of a reserved type is discarded (R214). -/
def State.casHand (s : State) (part ctx : Nat) (d : List Byte) : State :=
  if cmhSound d then s.withAqd fun a => { a with toCascade := a.toCascade ++ [(part, ctx, d)] }
  else s.casErr 1 part 0 (cmhOf d).tag (cmhOf d).epoch (cmhOf d).src

/-- Take the oldest message of a type. -/
def State.takeMsg (s : State) (type : Nat) : Option (Nat × Nat × Cmh × State) :=
  match s.aqd.toCascade.find? fun e => (cmhOf e.2.2).type = type with
  | none => none
  | some e =>
    some (e.1, e.2.1, cmhOf e.2.2, s.withAqd fun a => { a with toCascade := a.toCascade.erase e })

/-- The armed group of a partition with a key. -/
def State.groupOfKey (s : State) (part key : Nat) : Option (Nat × CasGroup) :=
  (upFrom 0 16).findSome? fun g => match s.armed part g with
    | some x => if x.hdr.key = key then some (g, x) else none
    | none => none

/-- The fragment matches R212 for a bucket of `e` elements. -/
def Cmh.fragOk (m : Cmh) (h : GroupHdr) (e : Nat) : Bool :=
  if m.type = 1 && m.zero then m.offset = 0 && m.count = e && m.payload.isEmpty && !m.last && m.check = 0
  else if m.type = 1 || m.type = 5 || m.type = 8 then
    m.offset % h.epf = 0 && decide (m.offset < e) && m.count = min h.epf (e - m.offset) && m.payload.length = 2 * m.count
      && !m.zero && (m.last || m.check = 0) && (m.last == (decide (m.type ≠ 1) && decide (e ≤ m.offset + h.epf)))
  else m.payload.isEmpty && !m.last && !m.zero && m.check = 0

/-- Take the oldest message of a type, check it (R214), and run `f` on its partition, group, header, bucket and
message; the gate marks follow. -/
def State.onMsg (s : State) (env : Env) (type : Nat) (f : State → Nat → Nat → CasGroup → Bd → Cmh → State) : State :=
  if s.stopped then s else
  match s.takeMsg type with
  | none => s
  | some (part, ctx, m, s) =>
    let bad := fun (s : State) (g : Nat) => s.casErr 1 part g m.tag m.epoch m.src
    match s.groupOfKey part m.key with
    | none => bad s 0
    | some (g, x) =>
      let e := x.hdr.ranks.getD m.src ⟨0, 0, 0, 0⟩
      if m.dst ≠ x.hdr.self_ ∨ x.hdr.n ≤ m.src ∨ ctx < e.flow ∨ e.flow + e.lanes ≤ ctx ∨ m.rsvd ∨ x.hdr.nb ≤ m.tag then
        bad s g
      else match s.bd env part g x.hdr m.tag with
        | (s, none) => s
        | (s, some d) =>
          if !m.fragOk x.hdr d.count ∨ ((type = 1 ∨ type = 6 ∨ type = 7 ∨ type = 9) ∧ d.owner ≠ x.hdr.self_) then bad s g
          else (f s part g x d m).gateMarks

/-- CONTRIB: a fragment of a contribution reaches the owner (R215, R216). -/
def doContrib (env : Env) (s : State) : State :=
  s.onMsg env 1 fun s part g _ d m => s.ownerContrib env part g d m

def execContrib (env : Env) (s : State) : Host.Outcome State Fault Refusal := done (doContrib env s)

/-- HOLD_SLOT_FOLD: the contribution in turn is folded from its hold slot, or from the owner's own gradient
(R216, R224). -/
def doHoldSlotFold (part g tag : Nat) (env : Env) (s : State) : State :=
  if s.stopped then s else
  match s.armed part g with
  | none => s
  | some x =>
    let b := x.ownOf tag
    let h := x.hdr
    if b.st ≠ 2 then s
    else if b.folded = h.self_ then
      match (x.rankOf tag).post with
      | none => s
      | some p =>
        if p.epoch ≠ b.epoch ∨ p.waits ∨ (x.rankOf tag).holds then s
        else if p.zero then (s.foldFrags env part g tag ((upFrom 0 (h.frags b.elems)).map (zeroFrag h b.elems))).gateMarks
        else match s.bd env part g h tag with
          | (s, none) => s
          | (s, some d) =>
            match s.readVa env (casRq part b.tier) d.grad (2 * b.elems) with
            | (s, .okay, bytes) =>
              (s.foldFrags env part g tag ((upFrom 0 (h.frags b.elems)).map fun f =>
                (f, bf16s (slice bytes (2 * f * h.epf) (2 * min h.epf (b.elems - f * h.epf)))))).gateMarks
            | (s, _, _) => (s.casErr 6 part g tag b.epoch h.self_).postDone env part g tag 0xB
    else match b.held.find? fun y => y.rank = b.folded with
      | none => s
      | some y =>
        let nos := y.frags.filter fun f => decide (f ∉ b.frags)
        if y.zero then (s.foldFrags env part g tag (nos.map (zeroFrag h b.elems))).gateMarks else
        let base := h.holdVa + y.slot * h.holdBytes
        let rd := nos.foldl (fun (a : State × Resp × List (Nat × List Nat)) f =>
          match a.1.readVa env (casRq part b.tier) (base + 2 * f * h.epf) (2 * min h.epf (b.elems - f * h.epf)) with
          | (s, r, d) => (s, a.2.1.join r, a.2.2 ++ [(f, bf16s d)])) (s, .okay, [])
        if rd.2.1 = .okay then (rd.1.foldFrags env part g tag rd.2.2).gateMarks
        else ((rd.1.casErr 6 part g tag b.epoch y.rank).dropHeld env part g tag y.rank).callRank env part g tag y.rank

def execHoldSlotFold (part g tag : Nat) (env : Env) (s : State) : Host.Outcome State Fault Refusal :=
  done (doHoldSlotFold part g tag env s)

/-- DEFER: the rank stops sending the contribution (R217). -/
def doDefer (env : Env) (s : State) : State :=
  s.onMsg env 2 fun s part g _ _ m => s.casDrop part g (isContribOf m.tag m.epoch)

def execDefer (env : Env) (s : State) : Host.Outcome State Fault Refusal := done (doDefer env s)

/-- The owner asks for the contribution of the message's epoch again (R217, R223). -/
def State.askedAgain (s : State) (env : Env) (part g : Nat) (x : CasGroup) (m : Cmh) : State :=
  if (x.rankOf m.tag).post.any fun p => p.epoch = m.epoch then s.resend env part g m.tag else s

/-- CALL: the rank sends the whole contribution again from fragment 0 (R217). -/
def doCall (env : Env) (s : State) : State := s.onMsg env 3 fun s part g x _ m => s.askedAgain env part g x m

def execCall (env : Env) (s : State) : Host.Outcome State Fault Refusal := done (doCall env s)

/-- REPLAY: the same (R223). -/
def doReplay (env : Env) (s : State) : State :=
  s.onMsg env 4 fun s part g x _ m => s.askedAgain env part g x m

def execReplay (env : Env) (s : State) : Host.Outcome State Fault Refusal := done (doReplay env s)

/-- GATHER (R219). -/
def doGather (env : Env) (s : State) : State :=
  s.onMsg env 5 fun s part g x d m =>
    match s.recvFrag env part g x.hdr d m 0 (x.rankOf m.tag).gath with
    | (s, r, e) =>
      let s := s.modRank part g m.tag fun y => { y with gath := r }
      if !e.ended then s else
      let s := s.casSend env part g { x.hdr.msg 6 m.tag m.epoch m.src with status := if e.ok then 0 else 1 }
      s.postDone env part g m.tag (if e.ok then m.status else 8)

def execGather (env : Env) (s : State) : Host.Outcome State Fault Refusal := done (doGather env s)

/-- GATHER_ACK: the epoch is retired when every other rank has acknowledged (R219). -/
def doGatherAck (env : Env) (s : State) : State :=
  s.onMsg env 6 fun s part g _ _ m =>
    if (s.own part g m.tag).gEpoch ≠ m.epoch then s else
    (s.modOwn part g m.tag fun b => { b with awaiting := b.awaiting.filter (· ≠ m.src) }).retire env part g m.tag

def execGatherAck (env : Env) (s : State) : Host.Outcome State Fault Refusal := done (doGatherAck env s)

/-- REGATHER_REQ (R227). -/
def doRegatherReq (env : Env) (s : State) : State :=
  s.onMsg env 7 fun s part g x d m => s.regatherReq env part g m.tag m.src x.hdr d

def execRegatherReq (env : Env) (s : State) : Host.Outcome State Fault Refusal := done (doRegatherReq env s)

/-- The re-gather that a fragment belongs to: the oldest of its epoch that lacks it, since Aqueduct delivers a message once;
none where it begins another. -/
def RankBkt.regather (r : RankBkt) (h : GroupHdr) (m : Cmh) : Option Recv :=
  r.rgath.find? fun x => x.epoch = m.epoch && !x.frags.any fun e => e.1 = m.offset / h.epf

/-- The list of re-gathers with `old` replaced by `new`. -/
def regathers (l : List Recv) (old new : Option Recv) : List Recv :=
  match old with
  | none => l ++ new.toList
  | some o => l.flatMap fun x => if x = o then new.toList else [x]

/-- REGATHER_DATA (R227). -/
def doRegatherData (env : Env) (s : State) : State :=
  s.onMsg env 8 fun s part g x d m =>
    let old := (x.rankOf m.tag).regather x.hdr m
    match s.recvFrag env part g x.hdr d m 1 old with
    | (s, r, e) =>
      let s := s.modRank part g m.tag fun y => { y with rgath := regathers y.rgath old r }
      if !e.ended then s else
      let s := s.casSend env part g { x.hdr.msg 9 m.tag m.epoch m.src with status := if e.ok then 0 else 1 }
      s.regatherDone env part g m.tag (if e.ok then 0 else 8)

def execRegatherData (env : Env) (s : State) : Host.Outcome State Fault Refusal := done (doRegatherData env s)

/-- REGATHER_ACK: one unit of the rank's debt is repaid (R227). -/
def doRegatherAck (env : Env) (s : State) : State :=
  s.onMsg env 9 fun s part g _ _ m =>
    s.modOwn part g m.tag fun b =>
      if (m.src, m.epoch) ∈ b.debt then { b with debt := b.debt.erase (m.src, m.epoch) }
      else match b.debt.find? fun e => e.1 = m.src with
        | some e => { b with debt := b.debt.erase e }
        | none => b

def execRegatherAck (env : Env) (s : State) : Host.Outcome State Fault Refusal := done (doRegatherAck env s)

/-! ### Slots, late ranks, remap and abort -/

/-- CASCADE_SLOT_OPEN: the entry of a slotted group fires; what waits for the slot's destination leaves, and the
entry moves to the next slot (R225, R296). -/
def doCascadeSlotOpen (i : Nat) (env : Env) (s : State) : State :=
  let e := sget {} s.clp.sev i
  if e.kind ≠ 4 ∨ !s.sevDue i then s else
  match s.grp e.owner e.ref with
  | none => s
  | some x =>
    let s := s.withClp fun c =>
      { c with sev := sput {} c.sev i { e with time := e.time + x.hdr.slotLen, aux := (e.aux + 1) % 2 ^ 32 } }
    if s.stopped then s else s.casPump env e.owner e.ref

def execCascadeSlotOpen (i : Nat) (env : Env) (s : State) : Host.Outcome State Fault Refusal :=
  done (doCascadeSlotOpen i env s)

/-- LATE_RANK_TIMEOUT: CAS_GD_LATE_US has passed since the first accepted contribution (R229). -/
def doLateRankTimeout (part g tag : Nat) (s : State) : State :=
  match s.armed part g with
  | none => s
  | some x =>
    let b := x.ownOf tag
    match b.since with
    | none => s
    | some t =>
      if s.stopped ∨ b.st ≠ 2 ∨ x.hdr.lateUs = 0 ∨ b.late ∨ s.ns ≤ t + 1000 * x.hdr.lateUs ∨ x.hdr.n ≤ b.folded then s
      else (s.modOwn part g tag fun b => { b with late := true }).lateRank part g 0 tag x

def execLateRankTimeout (part g tag : Nat) (s : State) : Host.Outcome State Fault Refusal :=
  done (doLateRankTimeout part g tag s)

/-- Send a bucket's gather to rank `r` (R218, R219). -/
def State.sendGather (s : State) (env : Env) (part g tag r : Nat) (bytes : List Byte) : State :=
  let b := s.own part g tag
  s.casData env part g 5 tag b.gEpoch r b.status bytes

/-- What a remap of rank `r` does to one bucket that this rank owns (R230 items 3 to 5). -/
def State.remapOwn (s : State) (env : Env) (part g tag r : Nat) : State :=
  match s.grp part g with
  | none => s
  | some x =>
    let b := x.ownOf tag
    let s := if b.st = 2 ∧ b.folded ≤ r then
        let s := s.modOwn part g tag fun b => { b with deferred := b.deferred.filter (· ≠ r) }
        if r = b.folded ∧ b.frags ≠ [] then s.refold env part g tag (x.accepted b)
        else s.dropHeld env part g tag r
      else s
    let s := if b.st = 5 ∧ r ∈ b.awaiting then
        match s.halves env part b.tier b.recVa b.elems with
        | (s, bytes, _, _) => s.sendGather env part g tag r bytes
      else s
    s.modOwn part g tag fun b =>
      { b with debt := b.debt.filter (fun e => e.1 ≠ r), reqs := b.reqs.filter (· ≠ r), later := b.later.filter fun e => e.1 ≠ r }

/-- CAS_GRP_REMAP: a write of CAS_GRP_CTRL with the bit set (R230). A rank beyond the group is ignored as self
is. -/
def doCasGrpRemap (vf g value : Nat) (env : Env) (s : State) : State :=
  if vf = 0 ∨ !s.fnOpen vf then s else
  let part := vf - 1
  let s := s.setFld F.CAS_GRP_RANK vf g (bits value 15 8)
  let r := bits value 15 8
  match s.armed part g with
  | none => s
  | some x =>
    if r = x.hdr.self_ ∨ x.hdr.n ≤ r then s.casErr 7 part g 0 0 r else
    match s.readVa env (casRq part 0) (s.fld F.CAS_GRP_VA vf g * 64 + 64 + 16 * r) 16 with
    | (s, .okay, d) =>
      let s := (s.casDrop part g fun m => decide (m.dst = r)).modGrp part g fun x =>
        { x with hdr := { x.hdr with ranks := x.hdr.ranks.set r (rankOf d).1 } }
      let s := x.rank.foldl (fun s e =>
        if e.2.post = none then s else
        match s.bd env part g x.hdr e.1 with
        | (s, some b) => if b.owner = r then s.resend env part g e.1 else s
        | (s, none) => s) s
      (x.own.foldl (fun s e => s.remapOwn env part g e.1 r) s).gateMarks
    | (s, _, _) => s.casErr 6 part g 0 0 r

def execCasGrpRemap (vf g value : Nat) (env : Env) (s : State) : Host.Outcome State Fault Refusal :=
  done (doCasGrpRemap vf g value env s)

/-- The group is idle once no bucket of it is UPDATING, and returns its scheduled-event entry (R209, R231). -/
def State.grpIdle (s : State) (part g : Nat) : State :=
  match s.grp part g with
  | none => s
  | some x =>
    if x.own.any fun e => e.2.st = 4 then s else
    let s := match x.sev with
      | some i => s.sevDrop i
      | none => s
    (s.setGrp part g none).setFld F.CAS_GRP_STATE (part + 1) g 0

/-- Abort a group (R231). -/
def State.grpAbort (s : State) (env : Env) (part g : Nat) : State :=
  let k := gkey part g
  let s := { s with cas := { s.cas with arming := s.cas.arming.filter (fun e => e.1 ≠ k),
                                        waiting := s.cas.waiting.filter fun w => !(w.1 = part && w.2.1 = g) } }
  let s := if s.grpState part g = 2 then s.setFld F.CAS_GRP_STATE (part + 1) g 0 else s
  match s.armed part g with
  | none => s
  | some x =>
    let s := (s.setFld F.CAS_GRP_STATE (part + 1) g 3).casDrop part g fun _ => true
    let s := s.setGrp part g (some { x with
      rank := [], slots := [], out := [],
      own := (x.own.filter fun e => e.2.st = 4).map fun e => (e.1, { e.2 with debt := [], reqs := [] }) })
    let s := x.rank.foldl (fun s e =>
      let s := match e.2.post with
        | some p => s.complete env p.ticket 2 9 (casInfo g e.1 p.epoch)
        | none => s
      e.2.rposts.foldl (fun s q => s.complete env q.1 2 9 (casInfo g e.1 q.2)) s) s
    (upFrom 0 (Config.tiers s.part)).foldl (fun s t => s.cisRelease env part t) (s.grpIdle part g)

/-- CAS_GRP_ABORT: ignored when idle (R231). -/
def doCasGrpAbort (vf g : Nat) (env : Env) (s : State) : State :=
  if vf = 0 ∨ !s.fnOpen vf then s else s.grpAbort env (vf - 1) g

def execCasGrpAbort (vf g : Nat) (env : Env) (s : State) : Host.Outcome State Fault Refusal :=
  done (doCasGrpAbort vf g env s)

/-- A write of CAS_GRP_CTRL, whichever bits are set: the abort acts before an arm. -/
def State.grpCtrl (s : State) (env : Env) (vf g value : Nat) : State :=
  if vf = 0 ∨ !s.fnOpen vf then s else
  let s := s.setFld F.CAS_GRP_RANK vf g (bits value 15 8)
  let s := if bit value 2 then doCasGrpRemap vf g value env s else s
  let s := if bit value 1 then doCasGrpAbort vf g env s else s
  if bit value 0 then doCasGrpArm vf g s else s

end Sys2Proof.Machine
end

