-- ==== Sys2Proof/Machine/MacTx.lean ====
section
/-! DEFINITION. Transmission from a logical port: the frames that bypass the shaper, the shaper's grants among
partitions, the pacing of flows and the packets that Aqueduct forms as they leave (spec/10 R243, R256, R259 to R261,
spec/11, spec/16 R381). -/

namespace Sys2Proof.Machine

/-- A received pause holds a priority of the port (R273). -/
def State.paused (s : State) (lp : Nat) (prio : Option Nat) : Bool :=
  match prio with
  | none => false
  | some p => (s.lp lp).holds.any fun h => (h.prio = p || h.prio = 8) && decide (s.ns < h.until_)

/-- In the failed state only MAC Control frames, LLDPDUs and PTP messages leave (R466). -/
def State.mayLeave (s : State) (x : TxItem) : Bool :=
  !s.stopped || (match x.what with
    | .whole f => (match f.body with
      | .control _ _ _ => true
      | .lldp _ _ _ _ => true
      | .ptp _ => true
      | _ => false)
    | .seq _ _ _ => false)

/-- The operation that a packet belongs to. -/
def FlowCtx.opOf (c : FlowCtx) (e : TxEnt) : Option AqdOp := c.ops.find? fun o => o.id = e.ref && !o.ended

/-- The outstanding packet of a PSN. -/
def FlowCtx.entOf (c : FlowCtx) (psn : Nat) : Option TxEnt := c.out.find? fun e => e.psn = psn

/-- A packet carries a slotted Cascade message. -/
def FlowCtx.slottedOp (c : FlowCtx) (e : TxEnt) : Option AqdOp :=
  if e.code = 6 then (c.opOf e).bind fun o => if o.slotted then some o else none else none

/-- The slot of a slotted message's group is open for its destination (R225); a message whose group has gone is held by
nothing. -/
def State.slotOpen (s : State) (part : Nat) (msg : List Byte) : Bool :=
  let m := cmhOf msg
  let g := (upFrom 0 16).findSome? fun g => match s.armed part g with
    | some x => if x.hdr.key = m.key then some x.hdr else none
    | none => none
  match g with
  | none => true
  | some h => h.slotDest s.ns = some m.dst

/-- A sequenced packet may be granted now: its flow's pacer or its slot lets it (R225, R261). -/
def State.seqReady (s : State) (i psn : Nat) : Bool :=
  let c := s.ctx i
  match c.entOf psn with
  | none => false
  | some e =>
    match c.slottedOp e with
    | some o => s.slotOpen c.part o.data
    | none => decide (c.nextAt ≤ s.ns)

/-- A new packet of a flow would take one of the tracker entries that are kept for received packets (R258). -/
def State.trackerHolds (s : State) (i psn : Nat) : Bool :=
  (((s.ctx i).entOf psn).any fun e => e.ts.isNone) && decide (s.trackerFree ≤ 65536)

/-- The item of a shaped frame is ready. -/
def State.itemReady (s : State) (x : TxItem) : Bool :=
  match x.what with
  | .whole _ => true
  | .seq i psn _ => s.seqReady i psn && !s.trackerHolds i psn

/-- A queued packet whose PSN has been acknowledged is sent no more. -/
def State.txPrune (s : State) (lp : Nat) : State :=
  let x := s.lp lp
  s.setLp lp { x with txq := x.txq.filter fun y =>
    match y.what with
    | .whole _ => true
    | .seq i psn _ => ((s.ctx i).entOf psn).isSome }

/-- inc[i] of the port shaper (R181, R381). -/
def State.netInc (s : State) (i : Nat) : Nat := cdiv 65536 (s.partRec i).wNet

/-- An item that no pause and no failed state holds. -/
def State.txOk (s : State) (lp : Nat) (y : TxItem) : Bool := s.mayLeave y && !s.paused lp y.prio

/-- The shaped items of a port that are ready. -/
def State.txReady (s : State) (lp : Nat) : List TxItem :=
  (s.lp lp).txq.filter fun y => decide (y.part < 64) && s.txOk lp y && s.itemReady y

/-- Partitions with a ready frame catch up with the virtual time. One that was ready at the last grant lost it to a smaller
tag, so this moves only those that have become ready since (R181, R381). -/
def State.txCatchUp (s : State) (lp : Nat) : State :=
  let x := s.lp lp
  let late := fun t i => if tagAfter x.vnow (sget 0 t i) then sput 0 t i x.vnow else t
  s.setLp lp { x with tags := ((s.txReady lp).map (·.part)).foldl late x.tags }

/-- A flow that is held at the tracker's reserve says so (R258). -/
def State.txHeld (s : State) (lp : Nat) : State :=
  let held := (s.lp lp).txq.findSome? fun y => match y.what with
    | .seq i psn _ => if s.txOk lp y && s.seqReady i psn && s.trackerHolds i psn then some (i, psn) else none
    | .whole _ => none
  match held with
  | some (i, psn) => s.aqdErr 4 (s.ctx i).part i psn
  | none => s

/-- The next item to leave a port: one that bypasses the shaper, or the oldest ready one of the partition with the
smallest tag (R381). -/
def State.txNext (s : State) (lp : Nat) : Option TxItem :=
  let x := s.lp lp
  match x.txq.find? fun y => decide (64 ≤ y.part) && s.txOk lp y with
  | some y => some y
  | none =>
    match smallestTag x.tags ((s.txReady lp).map (·.part)) with
    | none => none
    | some p => (s.txReady lp).find? fun y => y.part = p

/-- A status of R244 for a response that is not OKAY. -/
def respStatus : Resp → Nat
  | .okay => 0
  | .xlate | .range => 4
  | .perm => 3
  | .ue => 5

/-- The payload of a packet as it is transmitted: the state after the reads, and the packet's code, error status and
bytes. A write's source that cannot be read completes its operation LOCAL_ERR and a NOP takes the PSN; a responder's read
that fails turns the packet into one with ERR (R243, R244, R256). -/
def State.txPayload (s : State) (env : Env) (i : Nat) (e : TxEnt) (retx : Bool) :
    State × Nat × Option Nat × List Byte :=
  let c := s.ctx i
  if e.code = 3 then
    match e.err with
    | some st => (s, 3, some st, [])
    | none =>
      match c.jobs.find? fun j => j.id = e.ref with
      | none => (s, 9, none, [])
      | some j =>
        if !retx then (s, 3, none, e.data) else
        match s.readVa env (aqdRq c.part) (j.va + e.off) e.len with
        | (s, .okay, d) => (s, 3, none, d)
        | (s, r, _) =>
          let c := s.ctx i
          let s := s.setCtx i { c with
            jobs := c.jobs.map (fun y => if y.id = j.id then { y with stopped := true } else y),
            out := c.out.map fun y => if y.psn = e.psn then { y with err := some (respStatus r), len := 0 } else y }
          (s, 3, some (respStatus r), [])
  else
    match c.opOf e with
    | none => (s, 9, none, [])
    | some o =>
      if e.code = 1 then
        if o.data ≠ [] then (s, 1, none, slice o.data e.off e.len) else
        match s.readVa env (aqdRq c.part) (o.lva + e.off) e.len with
        | (s, .okay, d) => (s, 1, none, d)
        | (s, _, _) => (s.aqdEnd env i o 6 e.psn, 9, none, [])
      else if e.code = 6 then (s, 6, none, o.data)
      else (s, e.code, none, [])

/-- Form the packet of an outstanding PSN (R236, R237). -/
def State.txPacket (s : State) (i : Nat) (e : TxEnt) (retx : Bool) (code : Nat) (err : Option Nat) (d : List Byte) : Pkt :=
  let c := s.ctx i
  let fl := fun (last fin : Bool) => b2n fin + 2 * b2n retx + 4 * b2n last + 8 * b2n err.isSome
  match code with
  | 1 =>
    match c.opOf e with
    | some o => s.aqdPkt i 1 (fl e.last e.final) e.psn 0 s.ns o.rkey (o.rva + e.off) 0 d
    | none => s.aqdPkt i 9 (fl false false) e.psn 0 s.ns 0 0 0 []
  | 2 =>
    match c.opOf e with
    | some o => s.aqdPkt i 2 (fl e.last false) e.psn o.len s.ns o.rkey o.rva o.id []
    | none => s.aqdPkt i 9 (fl false false) e.psn 0 s.ns 0 0 0 []
  | 3 =>
    let req := ((c.jobs.find? fun j => j.id = e.ref).map (·.reqid)).getD 0
    s.aqdPkt i 3 (fl e.last false) e.psn (err.getD e.off) s.ns 0 0 req d
  | 6 => s.aqdPkt i 6 (fl e.last false) e.psn 0 s.ns 0 0 0 d
  | _ => s.aqdPkt i 9 (fl false false) e.psn 0 s.ns 0 0 0 []

/-- Nanoseconds that a frame of `n` octets takes at `rate` Mb/s. -/
def paceNs (n rate : Nat) : Nat := cdiv (8000 * n) (max 1 rate)

/-- A frame leaves: it is counted, and the port leaves Low Power Idle (R278, R476). -/
def State.frameOut (s : State) (lp : Nat) (f : Frame) (cap : Option Nat) : State :=
  let s := s.setFld F.MAC_LPI_ACTIVE 0 lp 0
  ((s.countPort lp 0 f.octets).countPort lp 1 1).emit (.frame lp f cap)

/-- A sequenced packet leaves (R243, R254, R256, R260, R261). -/
def State.sendSeq (s : State) (env : Env) (lp i psn : Nat) (retx : Bool) : State :=
  match (s.ctx i).entOf psn with
  | none => s
  | some e =>
    let slotted := ((s.ctx i).slottedOp e).isSome
    match s.txPayload env i e retx with
    | (s, code, err, d) =>
      let p := s.txPacket i e retx code err d
      let f := s.aqdFrame (s.ctx i) p
      let c := s.ctx i
      let c := { c with
        out := c.out.map (fun y => if y.psn = psn then { y with ts := some s.ns, code := code, era := if y.ts.isNone then s.aqd.era else y.era }
          else y),
        txPkts := (c.txPkts + 1) % two64, txBytes := (c.txBytes + d.length) % two64,
        retx := if retx then (c.retx + 1) % 2 ^ 32 else c.retx,
        nextAt := if slotted then c.nextAt else max c.nextAt s.ns + paceNs f.octets c.rate }
      let s := s.setCtx i c
      let s := if retx then s.count 0x0701 lp (ofPart c.part) 1 else s
      let x := s.lp lp
      let t := (sget 0 x.tags c.part + s.netInc c.part * cdiv f.octets 64) % 2 ^ 32
      let s := s.setLp lp { x with vnow := sget 0 x.tags c.part, tags := sput 0 x.tags c.part t }
      s.frameOut lp f none

/-- The egress capture of a whole frame, if it holds a slot. -/
def State.egressCap (s : State) (lp : Nat) (slot : Option Nat) (quarter : Nat) : Option Nat :=
  match slot with
  | none => none
  | some k => if (s.lp lp).egress.any fun c => c.id = k then some (s.capture quarter) else none

/-- An Aqueduct control packet as it leaves: a probe's time of transmission is its capture, and a reply carries t2 and
t3 only when both were captured (R259, R280). -/
def State.stampPkt (s : State) (p : Pkt) (cap : Option Nat) : Pkt :=
  let now := (cap.map (· / 65536)).getD s.ns
  if p.op = 7 then { p with ts := now }
  else if p.op = 8 then
    let t2 := beAt p.payload 8 8
    let ok := cap.isSome && decide (t2 ≠ 0)
    { p with ts := s.ns, payload := p.payload.take 8 ++ toBe 8 (if ok then t2 else 0) ++ toBe 8 (if ok then now else 0) }
  else p

/-- A whole frame leaves with its egress capture, which its consumer reads at once (R259, R279, R286). -/
def State.sendWhole (s : State) (lp : Nat) (x : TxItem) (f : Frame) (quarter : Nat) : State :=
  let cap := s.egressCap lp x.slot quarter
  let s := s.freeEgress lp x.slot
  match f.body with
  | .ptp m =>
    let s := if m.kind = 1 then
        match cap with
        | some t => s.withClp fun c => { c with dreq := some (m.seq, s.txTime lp t) }
        | none => s
      else s
    s.frameOut lp f cap
  | .aqd p =>
    let p := s.stampPkt p cap
    let c := s.ctx p.srcCtx
    let probes := if p.op = 7 then ((p.ts, cap.isSome) :: c.probes).take 64 else c.probes
    let s := s.setCtx p.srcCtx { c with
      probes := probes, untimed := if p.op = 7 && cap.isNone then (c.untimed + 1) % 2 ^ 32 else c.untimed, txPkts := (c.txPkts + 1) % two64, txBytes := (c.txBytes + p.payload.length) % two64 }
    s.frameOut lp { f with body := .aqd p } cap
  | _ => s.frameOut lp f cap

/-- FRAME_TRANSMIT: the next ready frame of a logical port leaves (R261, R381). -/
def doFrameTransmit (lp quarter : Nat) (env : Env) (s : State) : State :=
  if !s.lpExists lp || !(s.lp lp).up then s else
  let s := ((s.txPrune lp).txHeld lp).txCatchUp lp
  match s.txNext lp with
  | none => s
  | some x =>
    match x.what with
    | .seq i psn retx =>
      if s.stopped then s else
      let y := s.lp lp
      ((s.setLp lp { y with txq := y.txq.erase x }).sendSeq env lp i psn retx).settleNotes env
    | .whole f =>
      let y := s.lp lp
      (s.setLp lp { y with txq := y.txq.erase x }).sendWhole lp x f quarter

def execFrameTransmit (lp quarter : Nat) (env : Env) (s : State) : Host.Outcome State Fault Refusal :=
  done (doFrameTransmit lp quarter env s)

end Sys2Proof.Machine
end

