-- ==== Sys2Proof/Machine/AqdRx.lean ====
section
/-! DEFINITION. The packets that Aqueduct receives, their settlement and acknowledgement, its timers and its delay samples
(spec/10 R245 to R260). -/

namespace Sys2Proof.Machine

/-- CLOSE (R240). -/
def doClose (vf : Nat) (env : Env) (s : State) : State := (s.closeCmd vf env).settleNotes env

def execClose (vf : Nat) (env : Env) (s : State) : Host.Outcome State Fault Refusal := done (doClose vf env s)

/-! ### Step 1 (R250) -/

/-- The packet names an open context of an enabled partition and comes from its peer. -/
def State.fromPeer (s : State) (p : Pkt) : Bool :=
  let c := s.ctx p.dstCtx
  s.partEnabled p.part && !s.resetting p.part && decide (p.dstCtx < 40960) && c.state = 2 && c.part = p.part
    && c.v6 = p.v6 && p.srcIp = c.peerIp && p.dstIp = c.localIp && p.srcCtx = c.peerCtx

/-- Count an accepted packet. -/
def State.rxCount (s : State) (i n : Nat) : State :=
  let c := s.ctx i
  s.setCtx i { c with rxPkts := (c.rxPkts + 1) % two64, rxBytes := (c.rxBytes + n) % two64 }

/-- Take the oldest received packet of an operation code; `f` runs on its port, packet and ingress capture once step 1 has
passed. -/
def State.onPkt (s : State) (op : Nat) (f : State → RxItem → Pkt → Option Nat → State) : State :=
  if s.stopped then s else
  match s.takeRx (fun x => match x.frame.body with | .aqd p => p.op = op | _ => false) with
  | none => s
  | some (x, s) =>
    match x.frame.body with
    | .aqd p =>
      let cap := s.ingressCap x
      let s := s.freeIngress x.lp x.slot
      if s.fromPeer p then f s x p cap
      else s.aqdErr 1 (if s.partEnabled p.part then p.part else 64) p.dstCtx p.psn
    | _ => s

/-! ### Steps 3 to 5 -/

/-- A sequenced packet is new, within the window and finds a tracker entry: `f` goes on with it. -/
def State.onSeq (s : State) (lp : Nat) (p : Pkt) (f : State → State) : State :=
  let i := p.dstCtx
  let c := s.ctx i
  let d := psnDiff p.psn c.rcvNxt
  if d < 0 ∨ (d < 256 ∧ bit c.rcvMap d.toNat) then (s.setCtx i { c with dup := (c.dup + 1) % 2 ^ 32 }).sendAck i
  else if 256 ≤ d then s
  else if s.trackerFree < 1 then (s.count 0x0702 lp (ofPart c.part) 1).aqdErr 4 c.part i p.psn
  else f s

/-! ### Settlement (R246, R251, R253) -/

/-- Advance FC_RCV_NXT over every settled PSN in a row: at most `n` of them. -/
def slideRcv : Nat → Nat → Nat → Nat × Nat
  | 0, nxt, m => (nxt, m)
  | n + 1, nxt, m => if m % 2 = 1 then slideRcv n ((nxt + 1) % 2 ^ 32) (m / 2) else (nxt, m)

/-- A PSN of the receive direction has been settled. -/
def FlowCtx.settled (c : FlowCtx) (psn : Nat) : Bool :=
  let d := psnDiff psn c.rcvNxt
  decide (d < 0) || (decide (d < 256) && bit c.rcvMap d.toNat)

/-- A packet is settled, once: an ACK follows at once after a flagged write or the eighth since the last. -/
def State.settlePsn (s : State) (i psn ts : Nat) (final : Bool) : State :=
  let c := s.ctx i
  let d := psnDiff psn c.rcvNxt
  if d < 0 ∨ 256 ≤ d ∨ bit c.rcvMap d.toNat then s else
  let r := slideRcv 256 c.rcvNxt (c.rcvMap ||| 2 ^ d.toNat)
  let s := s.setCtx i { c with rcvNxt := r.1, rcvMap := r.2, unacked := c.unacked + 1, newestTs := ts }
  if final || decide (8 ≤ c.unacked + 1) then s.sendAck i else s

/-- Every WRITE and NOP packet with an earlier PSN has been settled: each earlier PSN is, or is that of a received
READ_RESP. -/
def FlowCtx.earlierSettled (c : FlowCtx) (psn : Nat) : Bool :=
  (upFrom 0 (psnDiff psn c.rcvNxt).toNat).all fun k =>
    bit c.rcvMap k || c.rx.any fun e => e.psn = (c.rcvNxt + k) % 2 ^ 32 && e.code = 3

/-- Place a received write: its memory writes are made, and their response kept. -/
def State.placeRx (s : State) (env : Env) (i : Nat) (e : RxEnt) : State :=
  let c := s.ctx i
  match s.writeVa env (aqdRq c.part) e.va e.data with
  | (s, r) =>
    let c := s.ctx i
    let e' := { e with placed := true, resp := respStatus r }
    s.setCtx i { c with rx := c.rx.map fun y => if y = e then e' else y }

/-- Place the flagged writes that no longer wait, at most `n` of them. -/
def State.releaseFinals (s : State) (env : Env) (i : Nat) : Nat → State
  | 0 => s
  | n + 1 =>
    let c := s.ctx i
    match c.rx.find? fun e => !e.placed && c.earlierSettled e.psn with
    | none => s
    | some e => (s.placeRx env i e).releaseFinals env i n

/-- Release them after a settlement. -/
def State.afterSettle (s : State) (env : Env) (i : Nat) : State := s.releaseFinals env i (s.ctx i).rx.length

/-! ### The requester's and the sender's operations -/

/-- Packets of an operation, or of a read job, that are outstanding. -/
def FlowCtx.busyRef (c : FlowCtx) (id : Nat) : Bool := c.out.any fun e => e.ref = id

/-- An operation has all that R244 asks for DONE. -/
def FlowCtx.opDone (c : FlowCtx) (o : AqdOp) : Bool :=
  o.allCut && !c.busyRef o.id && (o.kind ≠ 1 || decide (o.len ≤ o.got))

/-- Complete what is done (R244). -/
def State.opsDone (s : State) (env : Env) (i : Nat) : State :=
  let c := s.ctx i
  (c.ops.filter c.opDone).foldl (fun s o => s.aqdEnd env i o 0 c.sndUna) s

/-- A read job whose every response has been acknowledged is finished (R249, R258). -/
def State.jobsDone (s : State) (i : Nat) : State :=
  let c := s.ctx i
  let gone := c.jobs.filter fun j => (j.stopped || decide (j.len ≤ j.off)) && !c.busyRef j.id
  let s := s.setCtx i { c with jobs := c.jobs.filter fun j => !decide (j ∈ gone) }
  gone.foldl (fun s j => s.rgeDown j.slot) s

/-! ### Received packets -/

/-- The key checks of step 6: the slot, or the status of the refusal. -/
def State.keyCheck (s : State) (p : Pkt) (len perm : Nat) : Except Nat Nat :=
  let k := p.rkey / 256
  let r := s.rge k
  if !s.rgnOn || decide (s.rgnSlots ≤ k) || r.state ≠ 1 || r.gen ≠ p.rkey % 256 || r.part ≠ p.part then .error 1
  else if p.va < r.va ∨ r.va + r.len < p.va + len then .error 2
  else if !bit r.perm perm then .error 3
  else .ok k

/-- One access more in flight under a region. -/
def State.rgeUp (s : State) (k : Nat) : State :=
  let r := s.rge k
  s.setRge k { r with inflight := r.inflight + 1 }

/-- WRITE_PACKET: placed, held behind earlier packets when flagged, refused, or a duplicate (R246, R250). -/
def doWritePacket (env : Env) (s : State) : State :=
  s.onPkt 1 fun s x p _ => s.onSeq x.lp p fun s =>
    match s.keyCheck p p.len 0 with
    | .error st => s.sendNak p.dstCtx p.psn p.ts st
    | .ok k =>
      let i := p.dstCtx
      let s := (s.rgeUp k).rxCount i p.len
      let c := s.ctx i
      let e : RxEnt := { psn := p.psn, code := 1, slot := some k, era := s.aqd.era, ts := p.ts,
                         final := bit p.flags 0, placed := false, va := p.va, data := p.payload }
      let s := s.setCtx i { c with rx := c.rx ++ [e] }
      if e.final && !(s.ctx i).earlierSettled p.psn then s else s.placeRx env i e

def execWritePacket (env : Env) (s : State) : Host.Outcome State Fault Refusal := done (doWritePacket env s)

/-- READ_REQ: accepted, settled, and served by its read job; or refused (R250, R258). -/
def doReadReq (env : Env) (s : State) : State :=
  s.onPkt 2 fun s x p _ => s.onSeq x.lp p fun s =>
    match s.keyCheck p p.aux 1 with
    | .error st => s.sendNak p.dstCtx p.psn p.ts st
    | .ok k =>
      let i := p.dstCtx
      let s := (s.rgeUp k).rxCount i 0
      let id := s.aqd.nextOp
      let s := s.withAqd fun a => { a with nextOp := (a.nextOp + 1) % 2 ^ 32 }
      let c := s.ctx i
      let j : ReadJob := { id := id, reqid := p.reqid, va := p.va, len := p.aux, slot := k, era := s.aqd.era }
      ((s.setCtx i { c with jobs := c.jobs ++ [j] }).settlePsn i p.psn p.ts false).afterSettle env i

def execReadReq (env : Env) (s : State) : Host.Outcome State Fault Refusal := done (doReadReq env s)

/-- RESPONDER_READ_DATA: the next piece of the oldest read being served returns from memory, and its READ_RESP, or one
with ERR, is queued (R243, R251, R256). -/
def doResponderReadData (ctx : Nat) (env : Env) (s : State) : State :=
  let c := s.ctx ctx
  if s.stopped ∨ c.state ≠ 2 ∨ 256 ≤ psnDiff c.sndNxt c.sndUna then s else
  match c.jobs.find? fun j => !j.stopped && (decide (j.off < j.len) || j.len = 0) with
  | none => s
  | some j =>
    let n := min c.mss (j.len - j.off)
    match s.readVa env (aqdRq c.part) (j.va + j.off) n with
    | (s, r, d) =>
      let c := s.ctx ctx
      let bad := decide (r ≠ .okay)
      let last := decide (j.len ≤ j.off + n)
      let e : TxEnt := { psn := c.sndNxt, ref := j.id, code := 3, off := j.off, len := if bad then 0 else n, final := false,
                         last := last, era := s.aqd.era, err := if bad then some (respStatus r) else none,
                         data := if bad then [] else d }
      let j' := { j with off := j.off + n, stopped := bad || j.len = 0 }
      let s := s.setCtx ctx { c with
        jobs := c.jobs.map (fun y => if y.id = j.id then j' else y), out := c.out ++ [e],
        sndNxt := (c.sndNxt + 1) % 2 ^ 32 }
      s.queueSeq ctx e.psn false

def execResponderReadData (ctx : Nat) (env : Env) (s : State) : Host.Outcome State Fault Refusal :=
  done (doResponderReadData ctx env s)

/-- READ_RESP: placed, or it ends the read with its status, or it is settled and discarded (R256). -/
def doReadResp (env : Env) (s : State) : State :=
  s.onPkt 3 (fun s x p _ => s.onSeq x.lp p fun s =>
    let i := p.dstCtx
    let s := s.rxCount i p.len
    let c := s.ctx i
    match c.ops.find? fun o => o.id = p.reqid && o.kind = 1 && !o.ended with
    | none => (s.settlePsn i p.psn p.ts false).afterSettle env i
    | some o =>
      if bit p.flags 3 then
        ((s.aqdEnd env i o (p.aux % 256) p.psn).settlePsn i p.psn p.ts false).afterSettle env i
      else if o.len < p.aux + p.len then (s.settlePsn i p.psn p.ts false).afterSettle env i
      else
        let e : RxEnt := { psn := p.psn, code := 3, slot := none, era := s.aqd.era, ts := p.ts, final := false,
                           placed := false, va := o.lva + p.aux, data := p.payload, ref := o.id }
        (s.setCtx i { c with rx := c.rx ++ [e] }).placeRx env i e) |>.settleNotes env

def execReadResp (env : Env) (s : State) : Host.Outcome State Fault Refusal := done (doReadResp env s)

/-- PACKET_SETTLED: the memory responses of a placed packet have returned (R246, R249, R250, R256). Of a READ_RESP that came
more than once the bytes count once (R244). -/
def doPacketSettled (ctx psn : Nat) (env : Env) (s : State) : State :=
  if s.stopped then s else
  let c := s.ctx ctx
  match c.rx.find? fun e => e.psn = psn && e.placed with
  | none => s
  | some e =>
    let s := s.setCtx ctx { c with rx := c.rx.erase e }
    let s := match e.slot with
      | some k => s.rgeDown k
      | none => s
    if c.state ≠ 2 then s.ctxFree ctx
    else if e.code = 1 then
      if e.resp ≠ 0 then s.sendNak ctx psn e.ts e.resp
      else (s.settlePsn ctx psn e.ts e.final).afterSettle env ctx
    else
      let s := match c.ops.find? fun o => o.id = e.ref with
        | none => s
        | some o =>
          if e.resp ≠ 0 then s.aqdEnd env ctx o 6 psn
          else if (s.ctx ctx).settled psn then s
          else
            let c := s.ctx ctx
            let n : AqdOp := { o with got := o.got + e.data.length }
            s.setCtx ctx { c with ops := c.ops.map fun (y : AqdOp) => if y.id = o.id then n else y }
      (((s.settlePsn ctx psn e.ts false).opsDone env ctx).afterSettle env ctx).settleNotes env

def execPacketSettled (ctx psn : Nat) (env : Env) (s : State) : Host.Outcome State Fault Refusal :=
  done (doPacketSettled ctx psn env s)

/-- NOP: its PSN is settled (R237). -/
def doNop (env : Env) (s : State) : State :=
  s.onPkt 9 fun s x p _ => s.onSeq x.lp p fun s =>
    (((s.rxCount p.dstCtx p.len).settlePsn p.dstCtx p.psn p.ts false)).afterSettle env p.dstCtx

def execNop (env : Env) (s : State) : Host.Outcome State Fault Refusal := done (doNop env s)

/-- CASCADE_PACKET: handed to the partition's Cascade and settled (R250). -/
def doCascadePacket (env : Env) (s : State) : State :=
  s.onPkt 6 fun s x p _ => s.onSeq x.lp p fun s =>
    ((((s.rxCount p.dstCtx p.len).casHand p.part p.dstCtx p.payload).settlePsn p.dstCtx p.psn p.ts false)).afterSettle
      env p.dstCtx

def execCascadePacket (env : Env) (s : State) : Host.Outcome State Fault Refusal := done (doCascadePacket env s)

/-! ### Acknowledgements (R253 to R257) -/

/-- Acknowledged by an ACK: at or below its cumulative PSN, or marked in its map. -/
def ackedBy (cum m psn : Nat) : Bool :=
  decide (psnDiff psn cum ≤ 0) || (decide (psnDiff psn cum ≤ 64) && bit m (psnDiff psn cum - 1).toNat)

/-- Later PSNs that an ACK's map shows. -/
def laterShown (cum m psn : Nat) : Nat :=
  ((upFrom 0 64).filter fun k => bit m k && decide (psnDiff psn ((cum + 1 + k) % 2 ^ 32) < 0)).length

/-- ACK: entries retire, operations complete, gaps are retransmitted once, and new packets follow (R254, R255). -/
def doAck (env : Env) (s : State) : State :=
  s.onPkt 4 (fun s _ p _ =>
    let i := p.dstCtx
    let s := s.rxCount i p.len
    let c := s.ctx i
    let cum := p.aux
    let m := beAt p.payload 0 8
    if psnDiff cum c.sndUna < -1 then s else
    let out := c.out.filter fun e => !ackedBy cum m e.psn
    let una := (out.head?.map (·.psn)).getD c.sndNxt
    let moved := decide (una ≠ c.sndUna)
    let base := 1000 * max 1 (s.fld F.AQD_RTO (s.drive c.part) 0)
    let lost := out.filter fun e => e.ts.isSome && !e.fast && decide (3 ≤ laterShown cum m e.psn)
    let out := out.map fun e => if e ∈ lost then { e with fast := true } else e
    let map := (upFrom 0 (psnDiff c.sndNxt una).toNat).foldl (fun a k =>
      if out.any fun e => e.psn = (una + k) % 2 ^ 32 then a else a + 2 ^ k) 0
    let s := s.setCtx i { c with
      out := out, sndUna := una, sndMap := map, rto := if moved then base else c.rto,
      retries := if moved then 0 else c.retries }
    let s := lost.foldl (fun s e => s.queueSeq i e.psn true) s
    ((s.jobsDone i).opsDone env i).aqdFill i 256) |>.settleNotes env

def execAck (env : Env) (s : State) : Host.Outcome State Fault Refusal := done (doAck env s)

/-- A transmission of the PSN waits in the port's queue. -/
def State.queued (s : State) (i psn : Nat) : Bool :=
  (s.lp (s.ctx i).lp).txq.any fun x => match x.what with
    | .seq j n _ => j = i && n = psn
    | .whole _ => false

/-- NAK for an outstanding PSN with its last transmission time: the operation completes with the status if it has not yet,
nothing further of it is sent, and NOPs take the place of its outstanding PSNs (R256). -/
def doNak (env : Env) (s : State) : State :=
  s.onPkt 5 (fun s _ p _ =>
    let i := p.dstCtx
    let s := s.rxCount i p.len
    let c := s.ctx i
    match (c.entOf p.psn).filter fun e => e.ts = some p.ts with
    | none => s.aqdErr 6 c.part i p.psn
    | some e =>
      let mine := c.out.filter fun x => x.ref = e.ref && x.code ≠ 9
      let s := s.setCtx i { c with
        nakRx := (c.nakRx + 1) % 2 ^ 32,
        jobs := c.jobs.map fun j => if j.id = e.ref then { j with stopped := true } else j,
        out := c.out.map fun x => if x.ref = e.ref then { x with code := 9, final := false, last := false } else x }
      let s := match c.opOf e with
        | some o => s.aqdEnd env i o (p.aux % 256) p.psn
        | none => s
      (mine.filter fun x => x.ts.isSome && !s.queued i x.psn).foldl (fun s x => s.queueSeq i x.psn false) s)
    |>.settleNotes env

def execNak (env : Env) (s : State) : Host.Outcome State Fault Refusal := done (doNak env s)

/-- ACK_TIMER: 2 µs after the oldest unacknowledged settlement (R253). -/
def doAckTimer (ctx : Nat) (s : State) : State :=
  if s.stopped ∨ (s.ctx ctx).state ≠ 2 ∨ (s.ctx ctx).unacked = 0 then s else s.sendAck ctx

def execAckTimer (ctx : Nat) (s : State) : Host.Outcome State Fault Refusal := done (doAckTimer ctx s)

/-- CC_MIN in Mb/s; 0 reads as 1. -/
def State.ccMin (s : State) (part : Nat) : Nat := max 1 (s.fld F.AQD_CC_MIN (s.drive part) 0)

/-- Queue every outstanding PSN of a flow anew, in PSN order: with RETX where it has been sent before (R255). -/
def State.requeueAll (s : State) (i : Nat) : State :=
  let c := s.ctx i
  let x := s.lp c.lp
  let s := s.setLp c.lp { x with txq := x.txq.filter fun y => match y.what with
    | .seq j _ _ => decide (j ≠ i)
    | .whole _ => true }
  c.out.foldl (fun s e => s.queueSeq i e.psn e.ts.isSome) s

/-- RETX_TIMEOUT: the flow fails at the limit, or retransmits, backs off and halves its rate (R255, R257, R260). -/
def doRetxTimeout (ctx : Nat) (env : Env) (s : State) : State :=
  let c := s.ctx ctx
  if s.stopped ∨ c.state ≠ 2 ∨ c.sent = [] then s else
  let v := s.drive c.part
  let n := c.retries + 1
  let s := s.setCtx ctx { c with retries := n }
  if max 1 (s.fld F.AQD_RETRY_LIMIT v 0) ≤ n then (s.flowFail env ctx 0).settleNotes env else
  (s.setCtx ctx { c with
    retries := n, rto := min (2 * c.rto) (1000 * s.fld F.AQD_RTO_MAX v 0), rate := max (c.rate / 2) (s.ccMin c.part),
    out := c.out.map fun e => { e with fast := false } }).requeueAll ctx

def execRetxTimeout (ctx : Nat) (env : Env) (s : State) : Host.Outcome State Fault Refusal :=
  done (doRetxTimeout ctx env s)

/-! ### Probes (R259, R260) -/

/-- PROBE_TIMER: a flow with PSNs outstanding sends a PROBE, with an egress slot if one is free. -/
def doProbeTimer (ctx : Nat) (s : State) : State :=
  let c := s.ctx ctx
  if s.stopped ∨ c.state ≠ 2 ∨ c.out = [] then s else
  match s.takeEgress c.lp .probe with
  | (s, slot) => s.sendControl ctx (s.aqdPkt ctx 7 0 0 0 s.ns 0 0 0 []) slot

def execProbeTimer (ctx : Nat) (s : State) : Host.Outcome State Fault Refusal := done (doProbeTimer ctx s)

/-- PROBE: answered with t1 and t2; t3 is written as the reply leaves (R259, R280). -/
def doProbe (s : State) : State :=
  s.onPkt 7 fun s _ p cap =>
    let i := p.dstCtx
    let s := s.rxCount i p.len
    match s.takeEgress (s.ctx i).lp .probe with
    | (s, slot) =>
      s.sendControl i (s.aqdPkt i 8 0 0 0 s.ns 0 0 0
        (toBe 8 p.ts ++ toBe 8 ((cap.map (· / 65536)).getD 0) ++ toBe 8 0)) slot

def execProbe (s : State) : Host.Outcome State Fault Refusal := done (doProbe s)

/-- One delay sample adjusts the flow's rate: cc_sample of R260. -/
def State.ccSample (s : State) (i d : Nat) : State :=
  let c := s.ctx i
  let v := s.drive c.part
  let srtt := if c.srtt = 0 then d else
    unsign 32 ((c.srtt : Int) + signed 32 (d + 2 ^ 32 - c.srtt) / 8)
  let target := s.fld F.AQD_CC_TARGET v 0
  let c := { c with srtt := srtt, samples := (c.samples + 1) % 2 ^ 32 }
  if d ≤ target then s.setCtx i { c with rate := min (c.rate + s.fld F.AQD_CC_AI v 0) (s.lineRate c.lp) }
  else if srtt ≤ (s.ns + two64 - c.lastDec) % two64 then
    let dec := min ((d - target) * s.fld F.AQD_CC_BETA v 0 / d) (max 1 (s.fld F.AQD_CC_MAXDEC v 0))
    s.setCtx i { c with rate := max (c.rate - c.rate * dec / 256) (s.ccMin c.part), lastDec := s.ns }
  else s.setCtx i c

/-- A probe that yielded no sample; one that left untimed has been counted (R259). -/
def FlowCtx.missed (c : FlowCtx) (timed : Bool) : FlowCtx :=
  if timed then { c with untimed := (c.untimed + 1) % 2 ^ 32 } else c

/-- PROBE_REPLY: a sample when all four times were captured, and otherwise a probe counted as untimed (R259, R280). -/
def doProbeReply (s : State) : State :=
  s.onPkt 8 fun s _ p cap =>
    let i := p.dstCtx
    let s := s.rxCount i p.len
    let c := s.ctx i
    let t1 := beAt p.payload 0 8
    let t2 := beAt p.payload 8 8
    let t3 := beAt p.payload 16 8
    match c.probes.find? fun q => q.1 = t1 with
    | none => s
    | some q =>
      let c := { c with probes := c.probes.erase q }
      match cap with
      | some t4 =>
        if q.2 && t2 ≠ 0 && t3 ≠ 0 then
          (s.setCtx i c).ccSample i (unsign 32 ((((t4 / 65536 : Nat) : Int) - t1) - ((t3 : Int) - t2)))
        else s.setCtx i (c.missed q.2)
      | none => s.setCtx i (c.missed q.2)

def execProbeReply (s : State) : Host.Outcome State Fault Refusal := done (doProbeReply s)

end Sys2Proof.Machine
end

