-- ==== Sys2Proof/Machine/Pools.lean ====
section
/-! DEFINITION. The pools: the tile queue and inbox as the pool core sees them, the shard guards, and the start,
stop and data cache of the pool core (spec/04 R106 to R109, spec/06 R144 to R155). The core's instructions stand
in Rv.lean. -/

namespace Sys2Proof.Machine

/-! ### The core's running state -/

/-- POOL_CORE_RUN is set. -/
def State.coreRun (s : State) (p : Nat) : Bool := s.flag F.POOL_CORE_RUN 0 p

/-- The core executes: it has been told to run and has not stopped (R149), and the arithmetic clocks are not
stopped (R442, R466). -/
def State.coreRuns (s : State) (p : Nat) : Bool := s.coreRun p && !s.flag F.POOL_CORE_HALTED 0 p && !s.stopped

/-- Update the core of a pool. -/
def State.withCore (s : State) (p : Nat) (f : CoreSt → CoreSt) : State :=
  s.setPool p { s.poolSt p with core := f (s.poolSt p).core }

/-- The core's accesses are attributed to the owner of its pool (R145, R182). -/
def State.coreRq (s : State) (p : Nat) : Rq := pcoreRq p ((s.owner p).getD 64)

/-- A corrected error of a data-cache line is reported (R148). -/
def State.cacheCe (s : State) (env : Env) (p line : Nat) : State :=
  if upset env false [.dcache p line] then s.poolErr p 3 (64 * line) else s

/-- Drop a line of the data cache. -/
def State.dropLine (s : State) (p line : Nat) : State :=
  s.withCore p fun c => { c with dcache := sput none c.dcache line none }

/-- An uncorrectable error in a dirty line: the core halts without writing it back (R148). -/
def State.cacheHalt (s : State) (p line : Nat) : State :=
  let pc := (s.poolSt p).core.pc
  let s := (s.dropLine p line).setFld F.POOL_CORE_RUN 0 p 0
  let s := s.poolErr p 4 (64 * line)
  match s.owner p with
  | some o => s.event o 0x0106 (toLe 1 p ++ toLe 8 pc ++ toLe 8 (64 * line))
  | none => s

/-- Write a line of the data cache back, if it is dirty, and drop it (R147, R148): whether memory took it. -/
def State.evict (s : State) (env : Env) (p line : Nat) : State × Bool :=
  match sget none (s.poolSt p).core.dcache line with
  | none => (s, true)
  | some l =>
    if !l.dirty then (s.dropLine p line, true)
    else
      let s := s.cacheCe env p line
      if upset env true [.dcache p line] then (s.cacheHalt p line, true) else
      match s.writeVa env (s.coreRq p) (64 * line) l.bytes with
      | (s, r) => (s.dropLine p line, r = .okay)

/-- POOL_CORE_RUN goes from 0 to 1: both caches are invalidated and the core starts in machine mode at
POOL_CORE_PC_VA; ignored while the pool is unassigned (R149). -/
def State.coreStart (s : State) (p : Nat) : State :=
  if s.coreRun p ∨ s.owner p = none then s else
  let s := s.withCore p fun c => { c with dcache := [], icache := [], machine := true, waiting := false, res := none,
                                          pc := 2 * s.fld F.POOL_CORE_PC_VA 0 p }
  (s.setFld F.POOL_CORE_RUN 0 p 1).setFld F.POOL_CORE_HALTED 0 p 0

/-- POOL_CORE_RUN: the write that starts the core. -/
def doPoolCoreRun (p : Nat) (s : State) : State := s.coreStart p

def execPoolCoreRun (p : Nat) (s : State) : Host.Outcome State Fault Refusal := done (doPoolCoreRun p s)

/-- POOL_CORE_STOP: POOL_CORE_RUN goes from 1 to 0, and the core executes nothing more (R149). -/
def doPoolCoreStop (p : Nat) (s : State) : State := s.setFld F.POOL_CORE_RUN 0 p 0

def execPoolCoreStop (p : Nat) (s : State) : Host.Outcome State Fault Refusal := done (doPoolCoreStop p s)

/-- Write back and invalidate the data cache of a stopped core and set POOL_CORE_HALTED (R149). A write-back
that memory refuses sets POOL_E_ACCESS. -/
def State.coreHalted (s : State) (env : Env) (p : Nat) : State :=
  let s := (s.poolSt p).core.dcache.foldl (fun s e =>
    match s.evict env p e.1 with
    | (s, true) => s
    | (s, false) => s.poolErr p 2 (64 * e.1)) s
  s.setFld F.POOL_CORE_HALTED 0 p 1

/-- POOL_CORE_STOP_DONE: the stopped core has written its data cache back (R149). -/
def doPoolCoreStopDone (p : Nat) (env : Env) (s : State) : State :=
  if s.stopped ∨ s.coreRun p ∨ s.flag F.POOL_CORE_HALTED 0 p then s else s.coreHalted env p

def execPoolCoreStopDone (p : Nat) (env : Env) (s : State) : Host.Outcome State Fault Refusal :=
  done (doPoolCoreStopDone p env s)

/-- MTIME_COMPARE: the machine timer interrupt is pending once mtime is at or above mtimecmp (R146). -/
def doMtimeCompare (p : Nat) (s : State) : State :=
  s.withCore p fun c => { c with mtip := decide (c.mtimecmp ≤ s.ns) }

def execMtimeCompare (p : Nat) (s : State) : Host.Outcome State Fault Refusal := done (doMtimeCompare p s)

/-! ### The tile-queue page -/

/-- POOL_TQ_FREE (R151). -/
def State.tqFree (s : State) (p : Nat) : Nat := 64 - ((s.poolSt p).queue.length + (s.poolSt p).cpls.length)

/-- POOL_TQ_REJECTING (R151). -/
def State.tqRejecting (s : State) (p : Nat) : Bool := s.nonLead p || (s.owner p).isNone

/-- A write to POOL_TQ_PUSH (R151, R478). -/
def State.tqPush (s : State) (p : Nat) : State :=
  if s.tqFree p = 0 ∨ s.tqRejecting p then (s.poolErr p 0 0).count 0x0202 p ((s.owner p).toList) 1 else
  let x := s.poolSt p
  let d := fit 128 x.stage
  let n := sget 0 s.pmc.tileCount p
  let tag := s.flag F.PMC_TAG_EN 0 0 && !s.flag F.PMC_FROZEN 0 0 && (s.tagTest n || bit (tdOf d).tag 63)
  let o : TileOp := { id := s.cell.nextOp, part := (s.owner p).getD 64, guest := false, d := d, tagged := tag, t0 := s.ns }
  let s := { s with pmc := { s.pmc with tileCount := sput 0 s.pmc.tileCount p (n + 1) } }
  (s.withCell fun c => { c with nextOp := c.nextOp + 1 }).setPool p { x with queue := x.queue ++ [o] }

/-- POOL_TQ_PUSH: the core's write. -/
def doPoolTqPush (p : Nat) (s : State) : State := if s.coreRuns p then s.tqPush p else s

def execPoolTqPush (p : Nat) (s : State) : Host.Outcome State Fault Refusal := done (doPoolTqPush p s)

/-- POOL_TQ_CPL_INFO of the oldest completion; zero when none waits (R152). -/
def State.cplInfo (s : State) (p : Nat) : Nat :=
  match (s.poolSt p).cpls with
  | [] => 0
  | c :: _ => at_ 0 (c.status % 16) + at_ 4 (c.opcode % 256) + at_ 12 (c.slot % 8) + at_ 15 1

/-- The oldest completion is removed (R506). -/
def State.cplTake (s : State) (p : Nat) : State := s.setPool p { s.poolSt p with cpls := (s.poolSt p).cpls.tail }

/-- POOL_TQ_CPL_INFO_READ: a read that covers the status bytes. -/
def doPoolTqCplInfoRead (p : Nat) (s : State) : State :=
  if s.coreRuns p then s.cplTake p else s

def execPoolTqCplInfoRead (p : Nat) (s : State) : Host.Outcome State Fault Refusal := done (doPoolTqCplInfoRead p s)

/-- A write to POOL_WO_POP (R153, R479). -/
def State.woPop (s : State) (p : Nat) : State :=
  let x := s.poolSt p
  match x.inbox with
  | [] => s.poolErr p 5 0
  | w :: rest => s.setPool p { x with inbox := rest, popped := x.popped ++ [{ w with ticket := { w.ticket with t3 := s.ns } }] }

/-- POOL_WO_POP: the core's write. -/
def doPoolWoPop (p : Nat) (s : State) : State := if s.coreRuns p then s.woPop p else s

def execPoolWoPop (p : Nat) (s : State) : Host.Outcome State Fault Refusal := done (doPoolWoPop p s)

/-- A write of a status to POOL_WO_DONE completes the oldest popped work order with class 1 (R153, R315). -/
def State.woDone (s : State) (env : Env) (p status : Nat) : State :=
  let x := s.poolSt p
  match x.popped with
  | [] => s.poolErr p 5 0
  | w :: rest => (s.setPool p { x with popped := rest }).complete env w.ticket 1 (status % 256) p

/-- POOL_WO_DONE: the core's write. -/
def doPoolWoDone (p status : Nat) (env : Env) (s : State) : State :=
  if s.coreRuns p then s.woDone env p status else s

def execPoolWoDone (p status : Nat) (env : Env) (s : State) : Host.Outcome State Fault Refusal :=
  done (doPoolWoDone p status env s)

/-- The bytes of the tile-queue page that read as something (R150 to R153). -/
def State.tqByte (s : State) (p o : Nat) : Byte :=
  let x := s.poolSt p
  let le := fun (base v : Nat) => BitVec.ofNat 8 (v >>> (8 * (o - base)))
  if 0x088 ≤ o ∧ o < 0x08C then
    le 0x088 (at_ 0 (s.tqFree p) + at_ 8 x.cpls.length + at_ 16 (b2n (s.tqRejecting p)))
  else if 0x090 ≤ o ∧ o < 0x098 then le 0x090 (match x.cpls with
    | [] => 0
    | c :: _ => c.tag)
  else if 0x098 ≤ o ∧ o < 0x0A0 then le 0x098 (s.cplInfo p)
  else if 0x100 ≤ o ∧ o < 0x140 then (match x.inbox with
    | [] => 0
    | w :: _ => w.bytes.getD (o - 0x100) 0)
  else if 0x150 ≤ o ∧ o < 0x154 then le 0x150 (at_ 0 x.inbox.length + at_ 8 x.popped.length)
  else 0

/-- A read of `n` bytes at offset `o` of the tile-queue page (R506). -/
def State.tqRead (s : State) (p o n : Nat) : State × List Byte :=
  let d := (upFrom o n).map (s.tqByte p)
  (if o ≤ 0x098 ∧ 0x09A ≤ o + n then s.cplTake p else s, d)

/-- A write of bytes at offset `o` of the tile-queue page (R506). -/
def State.tqWrite (s : State) (env : Env) (p o : Nat) (d : List Byte) : State :=
  let touches := fun (a n : Nat) => decide (o < a + n) && decide (a < o + d.length)
  let s := if touches 0 0x80 then
      let x := s.poolSt p
      s.setPool p { x with stage := (upFrom 0 128).map fun i =>
        if o ≤ i ∧ i < o + d.length then d.getD (i - o) 0 else x.stage.getD i 0 }
    else s
  let s := if touches 0x080 4 then s.tqPush p else s
  let s := if touches 0x140 4 then s.woPop p else s
  if touches 0x148 4 then
    (if touches 0x148 1 then s.woDone env p (d.getD (0x148 - o) 0).toNat else s.poolErr p 5 0)
  else s

/-! ### Interrupts -/

/-- A channel of the slice has a status to report to the core (POOL_IRQ_DMA). -/
def State.dmaPending (s : State) (p : Nat) : Bool := s.fld F.DMA_PEND 0 p ≠ 0

/-- POOL_IRQ_STS as it reads (R154). -/
def State.irqSts (s : State) (p : Nat) : Nat :=
  at_ 3 (s.fld F.POOL_IRQ_GUARD 0 p) + at_ 2 (b2n (s.dmaPending p))
    + at_ 1 (b2n (!(s.poolSt p).cpls.isEmpty)) + at_ 0 (b2n (!(s.poolSt p).inbox.isEmpty))

/-- The machine external interrupt is pending (R154). -/
def State.meip (s : State) (p : Nat) : Bool := s.irqSts p &&& s.regN .poolIrqEn 0 p ≠ 0

/-! ### Shard guards -/

/-- What the pending check of guard `n` was armed with: the address of its record and the epoch. -/
def State.armedWith (s : State) (p n : Nat) : Nat × Nat := sget (0, 0) (s.poolSt p).armed n

/-- Store it. -/
def State.setArmed (s : State) (p n : Nat) (x : Nat × Nat) : State :=
  s.setPool p { s.poolSt p with armed := sput (0, 0) (s.poolSt p).armed n x }

/-- A write of POOL_SG_CTRL of guard `n` (R108): POOL_SG_ARM wins over POOL_SG_DISARM, and starts a check with the registers
as they stand. -/
def State.sgCtrl (s : State) (p n value : Nat) : State :=
  let s := s.setFld F.POOL_SG_EPOCH 0 (4 * p + n) (bits value 15 0)
  if bit value 16 then
    (s.setFld F.POOL_SG_STATE 0 (4 * p + n) 1).setArmed p n (s.fld F.POOL_SG_VA 0 (4 * p + n) * 32, bits value 15 0)
  else if bit value 17 then
    let s := if s.guardState p n = 1 then s.setFld F.POOL_IRQ_GUARD 0 p 1 else s
    s.setFld F.POOL_SG_STATE 0 (4 * p + n) 0
  else s

/-- POOL_SG_ARM: a write with the bit set. -/
def doPoolSgArm (p n value : Nat) (s : State) : State := s.sgCtrl p n (setBits value 16 16 1)

def execPoolSgArm (p n value : Nat) (s : State) : Host.Outcome State Fault Refusal := done (doPoolSgArm p n value s)

/-- POOL_SG_DISARM: a write with the bit set and POOL_SG_ARM clear. -/
def doPoolSgDisarm (p n value : Nat) (s : State) : State := s.sgCtrl p n (setBits (setBits value 16 16 0) 17 17 1)

def execPoolSgDisarm (p n value : Nat) (s : State) : Host.Outcome State Fault Refusal :=
  done (doPoolSgDisarm p n value s)

/-- The guard leaves pending: passed, or failed with SHARD_VERSION (R108, R109). -/
def State.guardResult (s : State) (p n : Nat) (ok : Bool) (d : List Byte) : State :=
  let epoch := (s.armedWith p n).2
  let s := s.setArmed p n (0, 0)
  let pass := ok && leAt d 7 1 = 1 && leAt d 2 2 = epoch && leAt d 8 8 = leAt d 16 8
  let s := s.setFld F.POOL_IRQ_GUARD 0 p 1
  if pass then s.setFld F.POOL_SG_STATE 0 (4 * p + n) 2 else
  let s := (s.setFld F.POOL_SG_STATE 0 (4 * p + n) 3).poolErr p 1 n
  let d := if ok then d else zeros 32
  let differ := b2n (leAt d 8 8 ≠ leAt d 16 8)
  match s.owner p with
  | some o => s.event o 0x0105 (toLe 1 p ++ toLe 1 n ++ toLe 2 epoch ++ slice d 0 2 ++ slice d 2 2 ++ slice d 4 2
      ++ slice d 7 1 ++ toLe 1 differ ++ toLe 1 (b2n (!ok)))
  | none => s

/-- SHARD_GUARD_CHECK: the record of a pending guard has been read through the owner's tables (R108). -/
def doShardGuardCheck (p n : Nat) (env : Env) (s : State) : State :=
  if s.stopped ∨ s.guardState p n ≠ 1 then s else
  match s.readVa env (otherRq ((s.owner p).getD 64) (.tier (p / 16))) (s.armedWith p n).1 32 with
  | (s, r, d) => s.guardResult p n (r = .okay) d

def execShardGuardCheck (p n : Nat) (env : Env) (s : State) : Host.Outcome State Fault Refusal :=
  done (doShardGuardCheck p n env s)

end Sys2Proof.Machine
end

