-- ==== Sys2Proof/Machine/Dma.lean ====
section
/-! DEFINITION. The DMA engine: channels, the address pattern and its bursts, the loader, completion and abort (spec/14,
spec/03 R59, R60, spec/05 R134). -/

namespace Sys2Proof.Machine

/-- The key of a channel. -/
def dmaKey (p ch : Nat) : Nat := 8 * p + ch

/-- The transfer of a channel. -/
def State.dmaRun (s : State) (p ch : Nat) : Option DmaRun := sget none s.dma.runs (dmaKey p ch)

/-- Store it. -/
def State.setDma (s : State) (p ch : Nat) (r : Option DmaRun) : State := 
  { s with dma := { s.dma with runs := sput none s.dma.runs (dmaKey p ch) r } }

/-- The partition that a channel belongs to, and whether as a guest (R335); none while the pool is unassigned. -/
def State.dmaOwner (s : State) (p ch : Nat) : Option (Nat × Bool) :=
  if 6 ≤ ch ∧ s.guested p then (s.guest p).map fun g => (g, true) else (s.owner p).map fun o => (o, false)

/-- An error of a channel (R346, R347). -/
def State.dmaErr (s : State) (b part p ch status : Nat) : State :=
  s.errIn .dmaErrSts .dmaErrFirst b
    (pack [(F.DMA_EF_STATUS, if b = 1 ∨ b = 2 then status else 0), (F.DMA_EF_CHANNEL, ch), (F.DMA_EF_POOL, p),
      (F.DMA_EF_VALID, 1), (F.DMA_EF_CAUSE, b)]) (s.views part) 0

/-- DS_STATUS of a response (R342). -/
def dmaStatus : Resp → Nat
  | .okay => 0
  | .xlate => 4
  | .perm => 5
  | .range => 6
  | .ue => 7

/-! ### The address pattern (R337) -/

/-- Element size in bytes. -/
def DmaRun.e (r : DmaRun) : Nat := 2 ^ r.esize

/-- Loop count k. -/
def DmaRun.n (r : DmaRun) (k : Nat) : Nat := r.cnt.getD k 0

/-- The row-major source of a load (R340). -/
def DmaRun.rowMajor (r : DmaRun) : Bool := r.sfmt ≤ 3

/-- Elements of the transfer, or tiles of a load. -/
def DmaRun.total (r : DmaRun) : Nat :=
  if r.mode = 3 then r.n 0 * (if r.rowMajor then r.n 1 / 16 else r.n 1) else r.n 0 * r.n 1 * r.n 2

/-- i0, i1 and i2 of element `i`; the tile column and row of tile `i`. -/
def DmaRun.ix (r : DmaRun) (i : Nat) : Nat × Nat × Nat :=
  if r.mode = 3 then (i % r.n 0, (if r.rowMajor then 16 else 1) * (i / r.n 0), 0)
  else (i % r.n 0, i / r.n 0 % r.n 1, i / (r.n 0 * r.n 1))

/-- An address of one side of element `i`. -/
def DmaRun.addr (r : DmaRun) (base : Nat) (st : List Int) (i : Nat) : Int :=
  let x := r.ix i
  (base : Int) + (x.1 : Int) * st.getD 0 0 + (x.2.1 : Int) * st.getD 1 0 + (x.2.2 : Int) * st.getD 2 0

/-- Source address of element `i`. -/
def DmaRun.sAddr (r : DmaRun) (i : Nat) : Int := r.addr r.src r.ss i

/-- Destination address of element `i`. -/
def DmaRun.dAddr (r : DmaRun) (i : Nat) : Int := r.addr r.dst r.ds i

/-- Lowest and highest address of a side over the eight corners of the box. -/
def DmaRun.span (r : DmaRun) (base : Nat) (st : List Int) : Int × Int :=
  (upFrom 0 3).foldl (fun (a : Int × Int) k =>
    let d := ((r.n k : Int) - 1) * st.getD k 0
    (a.1 + min d 0, a.2 + max d 0)) ((base : Int), (base : Int))

/-! ### Rejection (R341) -/

/-- A used side's alignment and bounds. -/
def DmaRun.sideBad (r : DmaRun) (base : Nat) (st : List Int) : Bool :=
  base % r.e ≠ 0 || st.any (fun x => x % (r.e : Int) ≠ 0) || decide ((r.span base st).1 < 0)
    || decide ((2 ^ 48 - r.e : Int) < (r.span base st).2)

/-- The loader converts this pair of formats (R59). -/
def loadPair (sf df : Nat) : Bool :=
  if isNb8 sf then isNb8 df
  else if df = 1 then 1 ≤ sf && sf ≤ 3
  else if isNb8 df then sf ≤ 3
  else df = 0 && sf ≤ 2

/-- The region of a load (R340). -/
def DmaRun.region (r : DmaRun) : Region := ⟨bits r.dst 15 0, bits r.dst 31 16, bits r.dst 47 32, bits r.dst 63 48⟩

/-- Lines and scale entries beyond those the partition may address (R60, R341). -/
def State.loadBeyond (s : State) (p : Nat) (r : DmaRun) : Bool :=
  let g := r.region
  let i := (if r.rowMajor then r.n 1 / 16 else r.n 1) - 1
  let j := r.n 0 - 1
  let lim := s.lineLimit p r.guest
  decide (lim < g.base + i * g.pitch + (j + 1) * tileLines r.dfmt)
    || (isNb8 r.dfmt && decide (16 * lim < g.sbase + i * g.spitch + j + 1))

/-- The transfer is rejected. -/
def State.dmaBad (s : State) (p : Nat) (r : DmaRun) : Bool :=
  r.n 0 = 0 || r.n 1 = 0 || r.n 2 = 0 || r.stsVa % 32 ≠ 0
    || (if r.mode = 3 then
        let z := fmtSize r.sfmt
        r.n 2 ≠ 1 || !loadPair r.sfmt r.dfmt || r.cells = 0 || decide (2 ^ (s.engine p).2 ≤ r.cells)
          || (if r.rowMajor then
              r.n 1 % 16 ≠ 0 || r.src % z ≠ 0 || (r.ss.take 2).any (fun x => x % (z : Int) ≠ 0)
            else r.src % 256 ≠ 0 || (r.ss.take 2).any (fun x => x % 256 ≠ 0) || r.scl % 8 ≠ 0 || r.sclStep % 8 ≠ 0)
          || s.loadBeyond p r
      else
        decide (2 ^ 48 ≤ r.dst) || (r.mode ≠ 1 && r.sideBad r.src r.ss) || r.sideBad r.dst r.ds)

/-! ### Start (R336) -/

/-- The registers of a channel as a transfer. -/
def State.dmaRegs (s : State) (p ch part : Nat) (guest : Bool) : DmaRun :=
  let f := fun (x : Fld) => s.fld x 0 (dmaKey p ch)
  let step := fun (x : Fld) => signed 32 (f x)
  { part := part, guest := guest, mode := f F.DMA_MODE, esize := f F.DMA_ESIZE, src := f F.DMA_CH_SRC,
    dst := s.regN .dmaChDst 0 (dmaKey p ch), fill := f F.DMA_CH_FILL, scl := f F.DMA_CH_SCL, cells := f F.DMA_CH_CELLS,
    stsVa := f F.DMA_CH_STS_VA, tag := f F.DMA_CH_TAG, cnt := [f F.DMA_CH_CNT0, f F.DMA_CH_CNT1, f F.DMA_CH_CNT2],
    ss := [step F.DMA_CH_SS0, step F.DMA_CH_SS1, step F.DMA_CH_SS2],
    ds := [step F.DMA_CH_DS0, step F.DMA_CH_DS1, step F.DMA_CH_DS2], sclStep := step F.DMA_CH_SCL_STEP,
    sfmt := f F.DMA_SRC_FMT, dfmt := f F.DMA_DST_FMT, ceil := f F.DMA_XCEIL, irq := f F.DMA_IRQ = 1, vec := f F.DMA_VEC }

/-! ### Completion (R342) -/

/-- The 32 bytes of a status record. -/
def DmaRun.record (r : DmaRun) (p ch status : Nat) : List Byte :=
  let x := if status ≤ 1 then (0, 0, 0) else r.ix r.idx
  let res := if status = 0 then 0 else if status = 1 then r.total else r.total - r.idx
  toLe 1 status ++ toLe 1 p ++ toLe 1 ch ++ zeros 1 ++ toLe 4 x.1 ++ toLe 4 x.2.1 ++ toLe 4 x.2.2
    ++ toLe 8 (satTo (two64 - 1) res) ++ toLe 8 r.tag

/-- A transfer completes with a status: its record, DMA_LAST_STATUS, and the signal unless `quiet`
or its partition is resetting (R342, R343, R372). -/
def State.dmaEnd (s : State) (env : Env) (p ch : Nat) (r : DmaRun) (status : Nat) (quiet : Bool) : State :=
  let quiet := quiet || s.resetting r.part
  let s := s.setDma p ch none
  let s := if status = 1 then s.dmaErr 1 r.part p ch status
    else if 4 ≤ status then s.dmaErr 2 r.part p ch status else s
  let s := match s.writeVa env (dmaRq p r.part) r.stsVa (r.record p ch status) with
    | (s, .okay) => s
    | (s, _) => s.dmaErr 3 r.part p ch 0
  let s := (s.setFld F.DMA_LAST_STATUS 0 (dmaKey p ch) status).setFld F.DMA_BUSY 0 (dmaKey p ch) 0
  if quiet || (!r.irq && status ≠ 2) then s
  else if r.guest then s.vecRecord (r.part + 1) r.vec false
  else s.setFld F.DMA_PEND 0 p (s.fld F.DMA_PEND 0 p ||| 2 ^ ch)

/-- A write of DMA_CH_CTRL (R336, R344). -/
def State.dmaCtrl (s : State) (env : Env) (p ch value : Nat) : State :=
  match s.dmaOwner p ch with
  | none => s
  | some (part, guest) =>
    match s.dmaRun p ch with
    | some r =>
      if bit value 1 then
        if r.status = 0 ∧ r.idx < r.total then s.setDma p ch (some { r with status := 2 }) else s
      else s.dmaErr 0 part p ch 0
    | none =>
      if !bit value 0 then s else
      let r := s.dmaRegs p ch part guest
      let s := s.setFld F.DMA_BUSY 0 (dmaKey p ch) 1
      if s.dmaBad p r then s.dmaEnd env p ch r 1 false else s.setDma p ch (some r)

/-- The channel's registers can be written: by the owner's running core, or through the guest's open function (R335). -/
def State.dmaOpen (s : State) (p ch : Nat) : Bool :=
  decide (ch < 8) && match s.dmaOwner p ch with
    | some (g, true) => s.fnOpen (g + 1)
    | some (_, false) => s.coreRuns p
    | none => false

/-- DMA_GO (R336, R341). -/
def doDmaGo (p ch : Nat) (env : Env) (s : State) : State :=
  if s.stopped ∨ !s.dmaOpen p ch then s else s.dmaCtrl env p ch 1

def execDmaGo (p ch : Nat) (env : Env) (s : State) : Host.Outcome State Fault Refusal := done (doDmaGo p ch env s)

/-- DMA_ABORT (R344). -/
def doDmaAbort (p ch : Nat) (env : Env) (s : State) : State :=
  if s.stopped ∨ !s.dmaOpen p ch then s else s.dmaCtrl env p ch 2

def execDmaAbort (p ch : Nat) (env : Env) (s : State) : Host.Outcome State Fault Refusal := done (doDmaAbort p ch env s)

/-! ### Bursts (R338) -/

/-- Element `i` may follow element `i - 1` in the burst that starts at `i0`. -/
def DmaRun.joins (r : DmaRun) (i0 i : Nat) : Bool :=
  let e : Int := r.e
  let side := fun (f : Nat → Int) => f i = f (i - 1) + e && (f i0) / 4096 = (f i + e - 1) / 4096
  decide (i < r.total) && decide ((i + 1 - i0) * r.e ≤ 256) && (r.mode = 1 || side r.sAddr) && side r.dAddr

/-- Elements of the burst that starts at `i0`, of at most `n` more after `k`. -/
def DmaRun.burstLen (r : DmaRun) (i0 k : Nat) : Nat → Nat
  | 0 => k
  | n + 1 => if r.joins i0 (i0 + k) then r.burstLen i0 (k + 1) n else k

/-- A virtual address from the exact arithmetic. -/
def vaOf (x : Int) : Nat := unsign 64 x

/-- Read `n` units from `va`: the bytes, and each byte's response. -/
def State.unitResps (s : State) (env : Env) (rq : Rq) (va : Nat) : Nat → State × List Byte × List Resp
  | 0 => (s, [], [])
  | n + 1 =>
    match s.readUnit env rq va with
    | (s, r, d) =>
      match s.unitResps env rq (va + 64) n with
      | (s, d', r') => (s, d ++ d', List.replicate 64 r ++ r')

/-- Read `len` bytes at `va` with each byte's response. -/
def State.readResps (s : State) (env : Env) (rq : Rq) (va len : Nat) : State × List Byte × List Resp :=
  match s.unitResps env rq (va / 64 * 64) (unitsOf va len) with
  | (s, d, r) => (s, slice d (va % 64) len, (r.drop (va % 64)).take len)

/-- Write the units of `bs` at `va` from unit `u` on: the first byte of the write that was refused, and its response. -/
def State.writeResps (s : State) (env : Env) (rq : Rq) (va : Nat) (bs : List Byte) (u : Nat) :
    Nat → State × Option (Nat × Resp)
  | 0 => (s, none)
  | n + 1 =>
    match s.writeUnit env rq u (unitPart va bs u).1 (unitPart va bs u).2 with
    | (s, r) =>
      match s.writeResps env rq va bs (u + 64) n with
      | (s, x) => (s, if r = .okay then x else some (u - va, r))

/-- The response of element `k` of a run of elements of `e` bytes. -/
def elemResp (l : List Resp) (e k : Nat) : Resp := ((l.drop (e * k)).take e).foldl Resp.join .okay

/-- The first of `n` elements whose response is not OKAY. -/
def firstBad (l : List Resp) (e n : Nat) : Option (Nat × Resp) :=
  (upFrom 0 n).findSome? fun k => if elemResp l e k = .okay then none else some (k, elemResp l e k)

/-- Move the transfer past `k` elements, ending it with a status when there is one. -/
def State.dmaStep (s : State) (p ch : Nat) (r : DmaRun) (k status : Nat) : State :=
  s.setDma p ch (some { r with idx := r.idx + k, status := status })

/-- Write a burst's first elements; the earliest failure of the burst ends the transfer (R343). -/
def State.dmaPut (s : State) (env : Env) (p ch : Nat) (r : DmaRun) (bs : List Byte) (bad : Option (Nat × Resp)) : State :=
  let n := (bad.map (·.1)).getD (bs.length / r.e)
  let d := bs.take (n * r.e)
  let va := vaOf (r.dAddr r.idx)
  match s.writeResps env (dmaRq p r.part) va d (va / 64 * 64) (unitsOf va d.length) with
  | (s, none) =>
    (s.count 0x0401 p (ofPart r.part) d.length).dmaStep p ch r n ((bad.map fun x => dmaStatus x.2).getD 0)
  | (s, some (o, w)) => (s.count 0x0401 p (ofPart r.part) o).dmaStep p ch r (o / r.e) (dmaStatus w)

/-- The next burst of a copy, fill or compare. -/
def State.dmaRunBurst (s : State) (env : Env) (p ch : Nat) (r : DmaRun) : State :=
  let n := r.burstLen r.idx 1 255
  let rq := dmaRq p r.part
  if r.mode = 1 then
    s.dmaPut env p ch r ((upFrom 0 n).flatMap fun _ => toLe r.e r.fill) none
  else
    match s.readResps env rq (vaOf (r.sAddr r.idx)) (n * r.e) with
    | (s, sd, sr) =>
      if r.mode = 0 then s.dmaPut env p ch r sd (firstBad sr r.e n) else
      match s.readResps env rq (vaOf (r.dAddr r.idx)) (n * r.e) with
      | (s, dd, dr) =>
        let bad := (upFrom 0 n).findSome? fun k =>
          let w := (elemResp sr r.e k).join (elemResp dr r.e k)
          if w ≠ .okay then some (k, dmaStatus w)
          else if slice sd (k * r.e) r.e ≠ slice dd (k * r.e) r.e then some (k, 3)
          else none
        match bad with
        | some (k, st) => s.dmaStep p ch r k st
        | none => s.dmaStep p ch r n 0

/-! ### The loader (R59, R134, R340) -/

/-- Read the 16 rows of a row-major tile: the 256 stored words and the joined response. -/
def State.loadRows (s : State) (env : Env) (p : Nat) (r : DmaRun) (i j : Nat) : State × Resp × List Nat :=
  let z := fmtSize r.sfmt
  (upFrom 0 16).foldl (fun (a : State × Resp × List Nat) k =>
    let va := vaOf ((r.src : Int) + ((16 * i + k : Nat) : Int) * r.ss.getD 1 0 + (j : Int) * r.ss.getD 0 0)
    match a.1.readVa env (cellRq p r.part) va (16 * z) with
    | (s, w, d) => (s, a.2.1.join w, a.2.2 ++ (upFrom 0 16).map fun q => leAt d (z * q) z)) (s, .okay, [])

/-- What the loader writes of one tile: its element bytes, its scale entry, and the shadows of a quantised tile. -/
structure LoadTile where
  bytes : List Byte
  entry : Option (List Byte)
  shadow : Option (List Nat)
  deriving DecidableEq, Repr

/-- The high half of split FP32 is a BF16 value (R31). -/
def storageFmt (f : Nat) : Nat := if f = 3 then 1 else f

/-- Convert a tile read in a row-major format (R30, R41, R59, R134). -/
def convertTile (r : DmaRun) (ws : List Nat) : LoadTile :=
  let f32 := ws.map (widen (storageFmt r.sfmt))
  if isNb8 r.dfmt then
    let q := quantise (elemFmt r.dfmt) r.ceil f32
    ⟨q.codes.map (BitVec.ofNat 8), some q.entry, some (f32.map (narrow 1))⟩
  else if r.dfmt = 1 then
    ⟨(if storageFmt r.sfmt = 1 then ws else f32.map (narrow 1)).flatMap (toLe 2), none, none⟩
  else ⟨f32.flatMap (toLe 4), none, none⟩

/-- A line of the watched cell is written: its shadow is deposited, or cleared (R134). -/
def State.shadowPut (s : State) (c line : Nat) (l : List Nat) : State :=
  let x := s.tamOf (c / 64)
  if x.watched = some c then s.setTam (c / 64) { x with shadow := sput [] x.shadow line l } else s

/-- Write a tile as block `(i, j)` of the region in cell `c` (R57, R58). -/
def State.loadPut (s : State) (r : DmaRun) (c i j : Nat) (t : LoadTile) : State :=
  let g := r.region
  let tag := ownTag r.part r.guest
  let n := tileLines r.dfmt
  let line := lineBase r.guest + g.base + i * g.pitch + j * n
  let s := s.sramPut tag c (128 * line) t.bytes
  let s := (upFrom 0 n).foldl (fun s k =>
    s.shadowPut c (line + k) (match t.shadow with
      | some l => slice' l (128 * k)
      | none => [])) s
  match t.entry with
  | none => s
  | some e =>
    let k := 16 * lineBase r.guest + g.sbase + i * g.spitch + j
    (s.sramPut tag c (8 * k) e).shadowPut c (k / 16) []
where
  /-- 128 values from `o` -/
  slice' (l : List Nat) (o : Nat) : List Nat := (upFrom o 128).map fun k => l.getD k 0

/-- The next tile of a load, into every selected cell. -/
def State.dmaTile (s : State) (env : Env) (p ch : Nat) (r : DmaRun) : State :=
  let i := r.idx / r.n 0
  let j := r.idx % r.n 0
  let base := (s.engine p).1
  let cells := (upFrom 0 64).filter fun m => bit r.cells m
  let put := fun (s : State) (t : LoadTile) =>
    let s := cells.foldl (fun s m => s.loadPut r (base + m) i j t) s
    (s.count 0x0401 p (ofPart r.part) (t.bytes.length + (t.entry.map (·.length)).getD 0)).dmaStep p ch r 1 0
  if r.rowMajor then
    match s.loadRows env p r i j with
    | (s, .okay, ws) => put s (convertTile r ws)
    | (s, w, _) => s.dmaStep p ch r 0 (dmaStatus w)
  else
    match s.readVa env (cellRq p r.part) (vaOf ((r.src : Int) + (i : Int) * r.ss.getD 1 0 + (j : Int) * r.ss.getD 0 0)) 256 with
    | (s, w1, d) =>
      match s.readVa env (cellRq p r.part) (vaOf ((r.scl : Int) + (i : Int) * r.sclStep + 8 * (j : Int))) 8 with
      | (s, w2, e) =>
        if w1.join w2 = .okay then put s ⟨d, some e, none⟩ else s.dmaStep p ch r 0 (dmaStatus (w1.join w2))

/-- The channel has a burst to issue. -/
def State.dmaWants (s : State) (p ch : Nat) : Bool :=
  match s.dmaRun p ch with
  | none => false
  | some r => r.status = 0 && decide (r.idx < r.total)

/-- The channel whose turn it is: the first that has a burst to issue, from the one after the channel served last (R345). -/
def State.dmaTurn (s : State) (p : Nat) : Option Nat :=
  ((upFrom (sget 0 s.dma.turn p) 8).map (· % 8)).find? (s.dmaWants p)

/-- The slice serves the channel: the next turn is looked for behind it. -/
def State.dmaServed (s : State) (p ch : Nat) : State :=
  { s with dma := { s.dma with turn := sput 0 s.dma.turn p ((ch + 1) % 8) } }

/-- DMA_BURST: one burst of a channel whose turn it is, or one tile of a load (R338, R340, R343, R345). -/
def doDmaBurst (p ch : Nat) (env : Env) (s : State) : State :=
  match s.dmaRun p ch with
  | none => s
  | some r =>
    if s.stopped ∨ s.dmaTurn p ≠ some ch then s
    else if r.mode = 3 then (s.dmaServed p ch).dmaTile env p ch r
    else (s.dmaServed p ch).dmaRunBurst env p ch r

def execDmaBurst (p ch : Nat) (env : Env) (s : State) : Host.Outcome State Fault Refusal := done (doDmaBurst p ch env s)

/-- DMA_COMPLETE: the transfer has nothing left to issue and its responses have returned (R342 to R344). -/
def doDmaComplete (p ch : Nat) (env : Env) (s : State) : State :=
  match s.dmaRun p ch with
  | none => s
  | some r => if s.stopped ∨ (r.status = 0 ∧ r.idx < r.total) then s else s.dmaEnd env p ch r r.status false

def execDmaComplete (p ch : Nat) (env : Env) (s : State) : Host.Outcome State Fault Refusal :=
  done (doDmaComplete p ch env s)

end Sys2Proof.Machine
end

