-- ==== Sys2Proof/Machine/Hmp.lean ====
section
/-! DEFINITION. The Host Memory Port: its memory-device interface, the window and its map, drains, fences and fill
passes (spec/15). -/

namespace Sys2Proof.Machine

/-- A channel beside its registers. -/
def State.hch (s : State) (c : Nat) : HmpChan := sget {} s.hmp.chans c

/-- Store it. -/
def State.setHch (s : State) (c : Nat) (x : HmpChan) : State :=
  { s with hmp := { s.hmp with chans := sput {} s.hmp.chans c x } }

/-- The channel is one of the two, and presented to the host. -/
def State.hmpOn (s : State) (c : Nat) : Bool := decide (c < 2) && s.flag F.HMP_EN 0 c

/-- A field of the map entry of a page. -/
def State.hmpMapOf (s : State) (f : Fld) (c pg : Nat) : Nat := s.fld f 0 (4096 * c + pg)

/-- An error of the port (R365, R366). -/
def State.hmpErr (s : State) (b c off page part : Nat) : State :=
  s.errOne .hmpErrSts .hmpErrFirst b
    (pack [(F.HMP_EF_OFFSET, if b = 7 then 0 else off / 2), (F.HMP_EF_PAGE, if 2 ≤ b then page else 0),
      (F.HMP_EF_PART, part), (F.HMP_EF_VALID, 1), (F.HMP_EF_CHANNEL, c), (F.HMP_EF_CAUSE, b)]) 0 0

/-- The place of a response in R177. -/
def respIndex : Resp → Nat
  | .okay => 0
  | .ue => 1
  | .xlate => 2
  | .perm => 3
  | .range => 4

/-- The window-error event of a page's partition (R357, R359, R362). -/
def State.windowError (s : State) (c part off : Nat) (r : Resp) : State :=
  s.event part 0x0604 (toLe 1 c ++ toLe 2 (off / 4096) ++ toLe 1 (Config.respCode (respIndex r)) ++ toLe 4 off)

/-- Answer a host read with a burst. -/
def State.hmpReply (s : State) (c : Nat) (d : List Byte) : State := s.emit (.hmpData c d (checkBytes d))

/-! ### Device memory behind the window (R353) -/

/-- Where a page's access goes: translated for its partition. -/
def State.hmpTarget (s : State) (env : Env) (part va : Nat) (write : Bool) : State × Except Resp Target :=
  match s.translate env (hmpRq part) (va / 64 * 64) write with
  | (s, .error r) => (s.faultResp (hmpRq part) r, .error r)
  | (s, .ok t) => (s, .ok t)

/-- Read the 64-byte unit at `va`; the access is the physical function's. -/
def State.hmpRead (s : State) (env : Env) (part va : Nat) : State × Resp × List Byte :=
  match s.hmpTarget env part va false with
  | (s, .error r) => (s, r, zeros 64)
  | (s, .ok (.dev d)) => s.readUnitDpa env (hmpRq part) d
  | (s, .ok (.bus a)) =>
    match s.busRefused (hmpRq part) with
    | (s, some r) => (s, r, zeros 64)
    | (s, none) =>
    let s := (s.pcieGrant 64 1).emit (.hostRead a 64 true)
    if a / 64 ∈ env.hostFail then (s, .ue, zeros 64) else (s, .okay, hostBytes env a 64)

/-- Write 32 bytes at `va`. -/
def State.hmpWrite (s : State) (env : Env) (part va : Nat) (d : List Byte) : State × Resp :=
  let u := unitPart va d (va / 64 * 64)
  match s.hmpTarget env part va true with
  | (s, .error r) => (s, r)
  | (s, .ok (.dev a)) => s.writeUnitDpa env (hmpRq part) a u.1 u.2
  | (s, .ok (.bus a)) =>
    match s.busRefused (hmpRq part) with
    | (s, some r) => (s, r)
    | (s, none) => ((s.pcieGrant 64 1).emit (.hostPut a u.1 u.2 true), .okay)

/-! ### Draining (R356, R357) -/

/-- The four 64-bit words of a window unit (R362). -/
def winSites (c unit : Nat) : List Site := (upFrom (4 * unit) 4).map (Site.window c)

/-- A corrected error in the words of a unit is reported (R362). -/
def State.winCe (s : State) (env : Env) (c off part : Nat) : State :=
  if upset env false (winSites c (off / 32)) then s.hmpErr 5 c off (off / 4096) part else s

/-- HMP_CH_DRAINING ends with the last drain and the last fill read (R364). -/
def State.hmpIdle (s : State) (c : Nat) : State :=
  let x := s.hch c
  if !s.flag F.HMP_EN 0 c && x.dirty.isEmpty && x.out.isEmpty && x.pass.isNone then s.setFld F.HMP_CH_DRAINING 0 c 0 else s

/-- A unit counts as drained. -/
def State.unitDrained (s : State) (c unit : Nat) : State :=
  let x := s.hch c
  let s := if unit ∈ x.dirty then s else s.setHch c { x with fenced := x.fenced.filter (· ≠ unit) }
  let s := s.setFld F.HMP_DRAIN_COUNT 0 c (s.fld F.HMP_DRAIN_COUNT 0 c + 1)
  (s.count 0x0C01 c [] 1).hmpIdle c

/-- A drain has failed: the unit is dropped (R357). -/
def State.drainFailed (s : State) (c unit part : Nat) (r : Resp) : State :=
  let off := 32 * unit
  let s := s.hmpErr 3 c off (off / 4096) part
  let s := s.setHch c { s.hch c with fenceErr := true }
  (s.windowError c part off r).unitDrained c unit

/-- Read a dirty unit from the window and write it to device memory under its page's entry. A unit with an uncorrectable word
is dropped; of the errors, that of the drain has the lowest cause bit (R362, R366). -/
def State.drainUnit (s : State) (env : Env) (c unit : Nat) : State :=
  let x := s.hch c
  let pg := unit / 128
  let part := s.hmpMapOf F.HMP_MAP_PART c pg
  let s := s.setHch c { x with dirty := x.dirty.filter (· ≠ unit) }
  if upset env true (winSites c unit) then
    ((s.drainFailed c unit part .ue).winCe env c (32 * unit) part).hmpErr 6 c (32 * unit) pg part
  else
    let s := s.winCe env c (32 * unit) part
    let va := s.hmpMapOf F.HMP_MAP_VA c pg * 4096 + 32 * unit % 4096
    match s.hmpWrite env part va (sgetRun 0 x.win (32 * unit) 32) with
    | (s, r) => s.setHch c { s.hch c with out := (s.hch c).out ++ [⟨unit, part, va, r⟩] }

/-- The response of a drain returns. -/
def State.drainBack (s : State) (c : Nat) (o : HmpOut) : State :=
  let x := s.hch c
  let s := s.setHch c { x with out := x.out.erase o }
  if o.resp = .okay then s.unitDrained c o.unit else s.drainFailed c o.unit o.part o.resp

/-- HMP_DRAIN: the device drains the dirty unit it chooses; units that a fence covers go first (R356, R358). -/
def doHmpDrain (c unit : Nat) (env : Env) (s : State) : State :=
  let x := s.hch c
  if s.stopped ∨ unit ∉ x.dirty ∨ (unit ∉ x.fenced ∧ x.dirty.any fun u => decide (u ∈ x.fenced)) then s
  else s.drainUnit env c unit

def execHmpDrain (c unit : Nat) (env : Env) (s : State) : Host.Outcome State Fault Refusal := done (doHmpDrain c unit env s)

/-- HMP_DRAIN_DONE (R356, R357). -/
def doHmpDrainDone (c unit : Nat) (s : State) : State :=
  match (s.hch c).out.find? fun o => o.unit = unit with
  | none => s
  | some o => if s.stopped then s else s.drainBack c o

def execHmpDrainDone (c unit : Nat) (s : State) : Host.Outcome State Fault Refusal := done (doHmpDrainDone c unit s)

/-! ### Fences (R358) and fill passes (R359) -/

/-- A fence read: its word, and the state after it. -/
def State.fence (s : State) (c : Nat) : State × Nat :=
  let x := s.hch c
  let n := (x.dirty ++ x.out.map (·.unit)).eraseDups.length
  let w := at_ 63 (b2n (n = 0)) + at_ 62 (b2n x.fenceErr) + (if n = 0 then s.fld F.HMP_DRAIN_COUNT 0 c else n)
  (s.setHch c { x with fenceErr := false, fenced := x.dirty }, w)

/-- HMP_WIN_FENCE: a read of the word in the control page. -/
def doHmpWinFence (c : Nat) (s : State) : State :=
  if !s.hmpOn c then s else (s.fence c).1.hmpReply c (fit 32 (toLe 8 (s.fence c).2))

def execHmpWinFence (c : Nat) (s : State) : Host.Outcome State Fault Refusal := done (doHmpWinFence c s)

/-- Start the next fill pass. -/
def State.passStart (s : State) (c : Nat) : State :=
  let s := s.setFld F.HMP_CH_EPOCH 0 c (s.fld F.HMP_CH_EPOCH 0 c + 1)
  (s.setFld F.HMP_CH_FILL_DONE 0 c 0).setHch c { s.hch c with pass := some 0 }

/-- A write to HMP_WIN_FILL. -/
def State.fillAsk (s : State) (c : Nat) : State :=
  if (s.hch c).pass.isSome then s.setFld F.HMP_CH_FILL_PENDING 0 c 1 else s.passStart c

/-- HMP_WIN_FILL. -/
def doHmpWinFill (c : Nat) (s : State) : State := if s.hmpOn c then s.fillAsk c else s

def execHmpWinFill (c : Nat) (s : State) : Host.Outcome State Fault Refusal := done (doHmpWinFill c s)

/-- A read-mode page that a pass fills: the reset of its partition has not reached the step that quiesces the port (R363). -/
def State.fillsPage (s : State) (c pg : Nat) : Bool :=
  s.hmpMapOf F.HMP_MAP_MODE c pg = 2 && !decide (2 ≤ (sget {} s.prt.resets (s.hmpMapOf F.HMP_MAP_PART c pg)).phase)

/-- The next page of a pass from `pg` on. -/
def State.nextFill (s : State) (c pg : Nat) : Option Nat := (upFrom pg (4096 - pg)).find? (s.fillsPage c)

/-- The pass completes. -/
def State.passEnd (s : State) (c : Nat) : State :=
  let s := (s.setFld F.HMP_CH_FILL_DONE 0 c 1).setHch c { s.hch c with pass := none }
  if s.flag F.HMP_CH_FILL_PENDING 0 c then (s.setFld F.HMP_CH_FILL_PENDING 0 c 0).passStart c else s.hmpIdle c

/-- Read the `n` units of a page from `va` on: what they hold, and the first failure. -/
def State.pageUnits (s : State) (env : Env) (part va off : Nat) : Nat → State × List Byte × Option (Nat × Resp)
  | 0 => (s, [], none)
  | n + 1 =>
    match s.hmpRead env part (va + off) with
    | (s, r, d) =>
      match s.pageUnits env part va (off + 64) n with
      | (s, d', b) => (s, d ++ d', if r = .okay then b else some (off, r))

/-- Fill one page. -/
def State.fillPage (s : State) (env : Env) (c pg : Nat) : State :=
  let part := s.hmpMapOf F.HMP_MAP_PART c pg
  match s.pageUnits env part (s.hmpMapOf F.HMP_MAP_VA c pg * 4096) 0 64 with
  | (s, d, none) =>
    let x := s.hch c
    s.setHch c { x with win := sputRun 0 x.win (4096 * pg) d, filled := sput false x.filled pg true,
                        raised := x.raised.filter (· ≠ pg) }
  | (s, _, some (o, r)) =>
    let x := s.hch c
    let s := s.setHch c { x with filled := sput false x.filled pg false }
    (s.hmpErr 4 c (4096 * pg + o) pg part).windowError c part (4096 * pg + o) r

/-- HMP_FILL_PAGE: the next page of the pass, which completes after the last. -/
def doHmpFillPage (c : Nat) (env : Env) (s : State) : State :=
  match (s.hch c).pass with
  | none => s
  | some pg =>
    if s.stopped then s else
    match s.nextFill c pg with
    | none => s.passEnd c
    | some n =>
      let s := s.fillPage env c n
      if s.nextFill c (n + 1) = none then s.passEnd c else s.setHch c { s.hch c with pass := some (n + 1) }

def execHmpFillPage (c : Nat) (env : Env) (s : State) : Host.Outcome State Fault Refusal := done (doHmpFillPage c env s)

/-! ### Host accesses (R349 to R352, R361, R362) -/

/-- The aperture offset of a burst in the open row of a bank; none without one. -/
def HmpChan.offset (x : HmpChan) (sub bank col : Nat) : Option Nat :=
  match sget 0 x.rows (16 * sub + bank) with
  | 0 => none
  | r + 1 => if sub < 2 ∧ bank < 16 ∧ col < 2048 then some ((((r * 16 + bank) * 64 + col / 32) * 2 + sub) * 32) else none

/-- The channel answers commands: presented, and in neither power-down nor self-refresh. -/
def State.hmpAwake (s : State) (c : Nat) : Bool := s.hmpOn c && !(s.hch c).powerDown && !(s.hch c).selfRefresh

/-- HMP_HOST_WRITE (R352, R356, R379). -/
def doHmpHostWrite (c sub bank col : Nat) (bytes : List Byte) (mask : List Bool) (s : State) : State :=
  if !s.hmpAwake c then s else
  match (s.hch c).offset sub bank col with
  | none => s
  | some off =>
    if off < 0x1000000 then
      let pg := off / 4096
      let part := s.hmpMapOf F.HMP_MAP_PART c pg
      if s.hmpMapOf F.HMP_MAP_MODE c pg ≠ 1 ∨ 2 ≤ (sget {} s.prt.resets part).phase then s.hmpErr 1 c off pg part else
      let x := s.hch c
      let w := (upFrom 0 32).foldl (fun w i => if mask.getD i false then sput 0 w (off + i) (bytes.getD i 0) else w) x.win
      s.setHch c { x with win := w, dirty := if off / 32 ∈ x.dirty then x.dirty else x.dirty ++ [off / 32] }
    else if 0x1F000000 ≤ off ∧ off < 0x1F001000 then
      if off = 0x1F000080 ∧ (mask.take 8).any (fun b => b) then s.fillAsk c else s
    else s.hmpErr 1 c off 0 0

def execHmpHostWrite (c sub bank col : Nat) (bytes : List Byte) (mask : List Bool) (s : State) :
    Host.Outcome State Fault Refusal :=
  done (doHmpHostWrite c sub bank col bytes mask s)

/-- The epoch word of the control page. -/
def State.epochWord (s : State) (c : Nat) : Nat :=
  s.fld F.HMP_CH_EPOCH 0 c + at_ 16 (s.fld F.HMP_CH_FILL_DONE 0 c) + at_ 17 (s.fld F.HMP_CH_FILL_PENDING 0 c)

/-- 32 bytes of HMP_FILL_MAP from byte `b` on. -/
def HmpChan.fillMap (x : HmpChan) (b : Nat) : List Byte :=
  (upFrom b 32).map fun i => BitVec.ofNat 8 ((upFrom 0 8).foldl (fun a k => a + at_ k (b2n (sget false x.filled (8 * i + k)))) 0)

/-- A read of the control page. -/
def State.controlRead (s : State) (c off : Nat) : State :=
  let o := off - 0x1F000000
  if o = 0 then (s.fence c).1.hmpReply c (fit 32 (toLe 8 (s.fence c).2))
  else if o = 0x40 then s.hmpReply c (fit 32 (toLe 8 (s.epochWord c)))
  else if 0x200 ≤ o ∧ o < 0x400 then s.hmpReply c ((s.hch c).fillMap (o - 0x200))
  else s.hmpReply c (zeros 32)

/-- A read of a page that shows nothing: the pattern, HMP_E_UNFILLED, and HMP_UNFILLED_READ once a page (R361). -/
def State.unfilledRead (s : State) (c off : Nat) : State :=
  let pg := off / 4096
  let part := s.hmpMapOf F.HMP_MAP_PART c pg
  let mode := s.hmpMapOf F.HMP_MAP_MODE c pg
  let s := (s.hmpReply c (List.replicate 32 0xA5)).count 0x0C02 c [] 1
  let s := s.hmpErr 2 c off pg part
  let x := s.hch c
  if pg ∈ x.raised then s else
  let s := s.setHch c { x with raised := x.raised ++ [pg] }
  s.eventFor (if mode = 0 then 64 else part) 0x0603 (toLe 1 c ++ toLe 2 pg ++ toLe 1 part ++ toLe 1 mode)

/-- What a word with an uncorrectable error is read as: which of its bits are wrong is a free value (R362). -/
def State.asRead (s : State) (env : Env) (c unit : Nat) (d : List Byte) : List Byte :=
  (upFrom 0 4).flatMap fun w =>
    let v := leAt d (8 * w) 8
    toLe 8 (if upset env true [.window c (4 * unit + w)] then v ^^^ Config.freeValue (s.free + w) % 2 ^ 64 else v)

/-- A read of the window (R361, R362). -/
def State.windowRead (s : State) (env : Env) (c off : Nat) : State :=
  let x := s.hch c
  let pg := off / 4096
  let part := s.hmpMapOf F.HMP_MAP_PART c pg
  if s.hmpMapOf F.HMP_MAP_MODE c pg ≠ 2 ∨ !sget false x.filled pg then s.unfilledRead c off else
  let d := sgetRun 0 x.win off 32
  let s := s.winCe env c off part
  if upset env true (winSites c (off / 32)) then
    let r := s.asRead env c (off / 32) d
    let s := (s.bump.bump.bump.bump).emit (.hmpData c r ((checkBytes r).map fun b => ~~~b))
    (s.hmpErr 6 c off pg part).windowError c part off .ue
  else s.hmpReply c d

/-- HMP_HOST_READ (R349 to R352, R361, R362). -/
def doHmpHostRead (c sub bank col : Nat) (env : Env) (s : State) : State :=
  if !s.hmpAwake c then s else
  match (s.hch c).offset sub bank col with
  | none => s
  | some off =>
    if off < 0x1000000 then s.windowRead env c off
    else if 0x1F000000 ≤ off ∧ off < 0x1F001000 then s.controlRead c off
    else s.hmpReply c (zeros 32)

def execHmpHostRead (c sub bank col : Nat) (env : Env) (s : State) : Host.Outcome State Fault Refusal :=
  done (doHmpHostRead c sub bank col env s)

/-! ### Other commands of the interface (R348) -/

/-- What a mode register reads. The oscillator's count is a free value. -/
def State.modeValue (s : State) (c : Nat) : HmpMode → Nat
  | .manufacturer => s.fld F.HMP_MFR_ID 0 c
  | .temperature => Config.nominalRefresh
  | .refreshManagement => Config.noRefreshManagement
  | .oscillator => s.freeBits 16
  | .other n => sget 0 (s.hch c).modeRegs (256 * (s.hch c).setPoint + n % 256)

/-- HMP_LPDDR_COMMAND (R348): refreshes have no effect; in power-down and self-refresh only their exits act. -/
def doHmpLpddrCommand (c : Nat) (k : HmpCmd) (s : State) : State :=
  if !s.hmpOn c then s else
  let x := s.hch c
  let set := fun (y : HmpChan) => s.setHch c y
  if x.powerDown then (match k with
    | .powerDownExit => set { x with powerDown := false }
    | _ => s)
  else if x.selfRefresh then (match k with
    | .selfRefreshExit => set { x with selfRefresh := false }
    | _ => s)
  else match k with
    | .activate sub bank row =>
      if sub < 2 ∧ bank < 16 ∧ row < 8192 then set { x with rows := sput 0 x.rows (16 * sub + bank) (row + 1) } else s
    | .precharge sub bank => set { x with rows := sput 0 x.rows (16 * sub + bank) 0 }
    | .prechargeAll sub => set { x with rows := sfilter (fun r => r / 16 ≠ sub) x.rows }
    | .refreshBank _ => s
    | .refreshAll => s
    | .modeRead m =>
      let t := s.emit (.hmpMode c (s.modeValue c m))
      if m = .oscillator then t.bump else t
    | .modeWrite n v => set { x with modeRegs := sput 0 x.modeRegs (256 * x.setPoint + n % 256) (v % 256) }
    | .setPoint n => set { x with setPoint := n % 2 }
    | .powerDownEntry => set { x with powerDown := true }
    | .powerDownExit => s
    | .selfRefreshEntry => set { x with selfRefresh := true, rows := [] }
    | .selfRefreshExit => s
    | .trained => s.setFld F.HMP_TRAINED 0 c 1

def execHmpLpddrCommand (c : Nat) (k : HmpCmd) (s : State) : Host.Outcome State Fault Refusal :=
  done (doHmpLpddrCommand c k s)

/-! ### Mapping (R354) and enabling (R364) -/

/-- A confidential partition (R394). -/
def State.confidential (s : State) (part : Nat) : Bool := s.tdi part ≠ 0

/-- Drain every undrained unit of a page under its entry. -/
def State.drainPage (s : State) (env : Env) (c pg : Nat) : State :=
  let mine := fun (u : Nat) => u / 128 = pg
  let s := ((s.hch c).out.filter fun o => mine o.unit).foldl (fun s o => s.drainBack c o) s
  let s := ((s.hch c).dirty.filter mine).foldl (fun s u => s.drainUnit env c u) s
  ((s.hch c).out.filter fun o => mine o.unit).foldl (fun s o => s.drainBack c o) s

/-- A write to HMP_MAP (R354). -/
def State.mapWrite (s : State) (env : Env) (c pg value : Nat) : State :=
  let k := 4096 * c + pg
  let v := value % 2 ^ 48 / 4096 * 4096 + (value % 4096 &&& 0xFCC)
  let mode := bits v 3 2
  let part := bits v 11 6
  if mode = 3 ∨ (mode ≠ 0 ∧ (!s.partEnabled part ∨ s.confidential part)) then s.hmpErr 7 c 0 pg part
  else if v = s.regN .hmpMap 0 k then s
  else
    let s := (s.drainPage env c pg).setRegN .hmpMap 0 k v
    let x := s.hch c
    s.setHch c { x with filled := sput false x.filled pg false, raised := x.raised.filter (· ≠ pg) }

/-- HMP_MAP_WRITE. -/
def doHmpMapWrite (c pg value : Nat) (env : Env) (s : State) : State :=
  if 2 ≤ c ∨ 4096 ≤ pg then s else s.mapWrite env c pg value

def execHmpMapWrite (c pg value : Nat) (env : Env) (s : State) : Host.Outcome State Fault Refusal :=
  done (doHmpMapWrite c pg value env s)

/-- A write of HMP_CH_CTRL (R364). -/
def State.hmpCtrl (s : State) (c value : Nat) : State :=
  let s := s.setFld F.HMP_MFR_ID 0 c (bits value 15 8)
  let en := s.flag F.HMP_EN 0 c
  if bit value 0 && !en then
    if s.flag F.HMP_CH_DRAINING 0 c then s.hmpErr 7 c 0 0 0 else
    let x := s.hch c
    let s := s.setHch c { win := x.win, raised := x.raised }
    let s := ((s.setRegN .hmpChSts 0 c 0x8000).setRegN .hmpChDrain 0 c 0)
    s.setFld F.HMP_EN 0 c 1
  else if !bit value 0 && en then
    let s := ((s.setFld F.HMP_EN 0 c 0).setFld F.HMP_TRAINED 0 c 0).setFld F.HMP_CH_FILL_PENDING 0 c 0
    (s.setFld F.HMP_CH_DRAINING 0 c 1).hmpIdle c
  else s

/-- HMP_ENABLE: a write of HMP_CH_CTRL with HMP_EN set. -/
def doHmpEnable (c value : Nat) (s : State) : State := if 2 ≤ c then s else s.hmpCtrl c (setBits value 0 0 1)

def execHmpEnable (c value : Nat) (s : State) : Host.Outcome State Fault Refusal := done (doHmpEnable c value s)

/-- HMP_DISABLE: a write of HMP_CH_CTRL with HMP_EN clear. -/
def doHmpDisable (c value : Nat) (s : State) : State := if 2 ≤ c then s else s.hmpCtrl c (setBits value 0 0 0)

def execHmpDisable (c value : Nat) (s : State) : Host.Outcome State Fault Refusal := done (doHmpDisable c value s)

/-- Quiesce the pages of a partition (R363). -/
def State.hmpQuiesce (s : State) (part : Nat) : State :=
  (upFrom 0 2).foldl (fun s c =>
    let mine := fun (pg : Nat) => decide (s.hmpMapOf F.HMP_MAP_PART c pg = part) && s.hmpMapOf F.HMP_MAP_MODE c pg ≠ 0
    let x := s.hch c
    (s.setHch c { x with dirty := x.dirty.filter (fun u => !mine (u / 128)), out := x.out.filter (fun o => !mine (o.unit / 128)),
                         fenced := x.fenced.filter (fun u => !mine (u / 128)), filled := sfilter (fun pg => !mine pg) x.filled
                         }).hmpIdle c) s

end Sys2Proof.Machine
end

