-- ==== Sys2Proof/Machine/Partitions.lean ====
section
/-! DEFINITION. Partitions: the zeroing scrub, the reset sequence of a partition, its triggers, and the SR-IOV fields
(spec/16, R404 to R406 of spec/17). -/

namespace Sys2Proof.Machine

/-! ### The zeroing scrub (R404, R405) -/

/-- What a walk of a whole tree gives: its table pages, its leaves (virtual address, level, entry), and whether a read of
a table failed. -/
structure Tree where
  pages : List Nat := []
  leaves : List (Nat × Nat × Nat) := []
  bad : Bool := false
  deriving DecidableEq, Repr

/-- Walk the tree whose table at DPA `tbl` covers `va` at level `n - 1`, tables in depth-first ascending order. Entries
that a walk would fault on lead nowhere. -/
def State.treeWalk (env : Env) (rq : Rq) : Nat → Nat → Nat → State × Tree → State × Tree
  | 0, _, _, x => x
  | l + 1, tbl, va, (s, t) =>
    (upFrom 0 64).foldl (fun x u =>
      match x.1.readUnitDpa env rq (tbl + 64 * u) with
      | (s, .okay, d) =>
        (upFrom 0 8).foldl (fun y i =>
          let pte := leAt d (8 * i) 8
          let a := va + (8 * u + i) * 2 ^ pageBits l
          if pteFault pte l then y
          else if bit pte 2 then (y.1, { y.2 with leaves := y.2.leaves ++ [(a, l, pte)] })
          else State.treeWalk env rq l ((bits pte 51 12) <<< 12) a y) (s, x.2)
      | (s, _, _) => (s, { x.2 with bad := true })) (s, { t with pages := t.pages ++ [tbl] })

/-- The scrub's walk of a partition's tables, whose accesses are attributed to the physical function (R404). -/
def scrubWalkRq (n : Nat) : Rq := { walkRq n .plinth with attr := 64 }

/-- The scrub's writes under the XTS key of `n`; 64 is plaintext (R404). -/
def scrubRq (n : Nat) : Rq := otherRq n .plinth

/-- The tree of partition `n`, from MEM_PT_ROOT while it is enabled (R172). -/
def State.tree (s : State) (env : Env) (n : Nat) : State × Tree :=
  if s.flag F.MEM_PT_EN 0 n then State.treeWalk env (scrubWalkRq n) 4 ((s.fld F.MEM_PT_DPA 0 n) <<< 12) 0 (s, {}) else (s, {})

/-- Write zeros over the 4 KiB at `dpa`, each unit a write of both its halves that competes as any other (R380, R404);
false where one is not answered OKAY (R405). -/
def State.zeroPage (s : State) (env : Env) (rq : Rq) (dpa : Nat) : State × Bool :=
  (upFrom 0 64).foldl (fun x u =>
    match x.1.writeUnitDpa env rq (dpa + 64 * u) (zeros 64) (List.replicate 64 true) with
    | (s, r) => (s, x.2 && r = .okay)) (s, true)

/-- Zero every 4 KiB of the device-memory leaves: the state and the pages not zeroed (R404). -/
def State.zeroLeaves (s : State) (env : Env) (rq : Rq) (l : List (Nat × Nat × Nat)) : State × Nat :=
  l.foldl (fun x e =>
    if bit e.2.2 3 then x else
    (upFrom 0 (2 ^ (9 * e.2.1))).foldl (fun y i =>
      match y.1.zeroPage env rq ((bits e.2.2 51 12) * 4096 + 4096 * i) with
      | (s, true) => (s, y.2)
      | (s, false) => (s, y.2 + 1)) x) (s, 0)

/-- The scrub result of R405. -/
def scrubResult (bad : Bool) (pages : Nat) : Nat :=
  (if bad then 2 else if pages = 0 then 0 else 1) <<< 24 ||| satTo 0xFFFFFF pages

/-! ### What the steps do -/

/-- Update the reset record of a partition. -/
def State.modReset (s : State) (n : Nat) (f : ResetSt → ResetSt) : State :=
  { s with prt := { s.prt with resets := sput {} s.prt.resets n (f (sget {} s.prt.resets n)) } }

/-- The pools that a partition owns. -/
def State.owned (s : State) (n : Nat) : List Nat := (upFrom 0 (Config.pools s.part)).filter fun p => s.owner p = some n

/-- The pools on which a partition is the Backfill guest. -/
def State.guestOn (s : State) (n : Nat) : List Nat := (upFrom 0 (Config.pools s.part)).filter fun p => s.guest p = some n

/-- Step 1 for the partition's own function (R375): doorbells, descriptors, scheduled events, barriers. -/
def State.blockPart (s : State) (env : Env) (n : Nat) : State :=
  let s := (upFrom 0 17).foldl (fun s r => s.evictLine (n + 1) r) s
  let s := (upFrom 0 16).foldl (fun s r => s.abortRing env (n + 1) r) s
  let s := s.modReset n fun x => { x with kept := ((upFrom 0 64).filter fun p => s.heldByBarrier n p) }
  let s := (upFrom 0 4).foldl (fun s b => s.endBarrier n b) s
  let s := (upFrom 0 16).foldl (fun s g => s.modGrp n g fun x => { x with sev := none }) s
  (s.clp.sev.filter fun e => e.2.kind ≠ 0 && e.2.owner = n).foldl (fun s e => s.sevDrop e.1) s

/-- Halt the pool core of `p`, writing its dirty lines back (R149). -/
def State.haltCore (s : State) (env : Env) (p : Nat) : State :=
  let s := s.setFld F.POOL_CORE_RUN 0 p 0
  if s.flag F.POOL_CORE_HALTED 0 p then s else s.coreHalted env p

/-- The work orders of a pool's inbox, waiting or popped, complete ABORTED. -/
def State.abortOrders (s : State) (env : Env) (p : Nat) : State :=
  let x := s.poolSt p
  (x.popped ++ x.inbox).foldl (fun s w => s.complete env w.ticket 0 4 0) (s.setPool p { x with popped := [], inbox := [] })

/-- Abort the DMA channels that run for a partition (R344); a reset silences their signals (R372), the stop of a TDI does
not. -/
def State.abortDma (s : State) (env : Env) (n : Nat) : State :=
  s.dma.runs.foldl (fun s e =>
    match e.2 with
    | some r =>
      if r.part ≠ n then s else
      let st := if r.status ≠ 0 then r.status else if r.idx < r.total then 2 else 0
      let s := s.dmaEnd env (e.1 / 8) (e.1 % 8) r st false
      if st = 2 then s.modReset n fun x => { x with dmas := x.dmas + b2n (x.phase ≠ 0) } else s
    | none => s) s

/-- Step 2 (R375). -/
def State.quietPart (s : State) (env : Env) (n : Nat) : State :=
  let s := (s.owned n).foldl (fun s p => (s.haltCore env p).abortOrders env p) s
  (s.abortDma env n).hmpQuiesce n

/-- Step 3: groups, mirror stream, regions (R375). -/
def State.revokePart (s : State) (env : Env) (n : Nat) : State :=
  let s := (upFrom 0 16).foldl (fun s g => s.grpAbort env n g) s
  let s := (s.mirrorStop (n + 1)).setFld F.UPD_MIR_ENABLE (n + 1) 0 0
  let s := s.withAqd fun a => { a with toCascade := a.toCascade.filter fun m => m.1 ≠ n }
  let mine := s.aqd.regions.filter fun e => e.2.state = 1 && e.2.part = n
  let s := s.modReset n fun x => { x with regions := x.regions + mine.length }
  mine.foldl (fun s e => s.revokeSlot e.1) s

/-- No region of the partition is REVOKING and every group of it is idle: step 3 can close the flows. -/
def State.revoked (s : State) (n : Nat) : Bool :=
  !(s.aqd.regions.any fun e => e.2.state = 2 && e.2.part = n) && (upFrom 0 16).all fun g => s.grpState n g = 0

/-- Close every flow context of the partition (R240), counting them. -/
def State.closeFlows (s : State) (env : Env) (n : Nat) : State :=
  let mine := s.aqd.ctxs.filter fun e => e.2.part = n && e.2.state ≠ 0 && e.2.state ≠ 4
  let s := s.modReset n fun x => { x with ctxs := x.ctxs + mine.length }
  (mine.foldl (fun s e => s.ctxClose env e.1) s).settleNotes env

/-- The partition holds no flow context. -/
def State.flowless (s : State) (n : Nat) : Bool := !(s.aqd.ctxs.any fun e => e.2.part = n && e.2.state ≠ 0)

/-- An operation still to start completes ABORTED, counted (R76). -/
def State.abortOp (s : State) (env : Env) (p n : Nat) (o : TileOp) : State :=
  (s.finishOp env p { o with status := 6 }).modReset n fun x => { x with tiles := x.tiles + 1 }

/-- The first half of step 4: queued operations complete ABORTED, and a guest operation that has yielded with them. -/
def State.abortOps (s : State) (env : Env) (n : Nat) : State :=
  let s := (s.owned n).foldl (fun s p =>
    ((s.poolSt p).queue.filter fun o => o.phase = 0).foldl (fun s o => s.abortOp env p n o) s) s
  (s.guestOn n).foldl (fun s p =>
    let x := s.poolSt p
    let s := s.setPool p { x with gwork := x.gwork.map fun w =>
      { w with stopped := true, worst := if w.next < w.count then max w.worst 6 else w.worst } }
    let s := (x.gqueue.filter fun o => o.phase = 0 || (!x.grun && (o.phase = 1 || o.phase = 2))).foldl (fun s o => s.abortOp env p n o) s
    s.guestSettle env p) s

/-- Every operation that a cell was executing for the partition has finished. -/
def State.cellsDone (s : State) (n : Nat) : Bool :=
  (s.owned n).all (fun p => decide ((s.poolSt p).queue = [])) && (s.guestOn n).all fun p => decide ((s.poolSt p).gqueue = [])

/-- Line `i` of operand SRAM and slot `k` belong to the guest's share of a pool. -/
def guestLine (i : Nat) : Bool := decide (1152 ≤ i)
def guestSlot (k : Nat) : Bool := k = 5 || k = 6

/-- A cell returns to the state of R66 with its ownership-valid bits cleared: the owner's share, the guest's, or
both. The table pairs are the owner's. -/
def State.cellReset (s : State) (c : Nat) (own guest : Bool) : State :=
  let hit := fun (g : Bool) => if g then guest else own
  let line := fun k => decide (k / 1536 = c) && hit (guestLine (k % 1536))
  let row := fun k => decide (k / 512 = c) && hit (guestSlot (k / 64 % 8))
  let slot := fun k => decide (k / 8 = c) && hit (guestSlot (k % 8))
  s.withCell fun x => { x with
    sramOwn := sfilter (fun k => !line k) x.sramOwn
    accOwn := sfilter (fun k => !row k) x.accOwn
    acc := sfilter (fun k => !row (k / 32)) x.acc
    slots := sfilter (fun k => !slot k) x.slots
    pairs := if own then sfilter (fun k => k / 4 ≠ c) x.pairs else x.pairs
    gens := sfilter (fun k => !(decide (k / 2 = c) && hit (k % 2 = 1))) x.gens }

/-- Drop the caches of a pool core, whose ownership-valid bits clear (R406). -/
def State.dropCaches (s : State) (p : Nat) : State := s.withCore p fun c => { c with dcache := [], icache := [] }

/-- The cells of a pool return to the state of R66. -/
def State.poolReset (s : State) (p : Nat) (own guest : Bool) : State :=
  (upFrom (16 * p) 16).foldl (fun s c => s.cellReset c own guest) s

/-- The second half of step 4 (R375, R379). -/
def State.clearCells (s : State) (n : Nat) : State :=
  let s := (s.owned n).foldl (fun s p =>
    let s := (s.poolReset p true (!s.guested p)).dropCaches p
    let s := s.setPool p { s.poolSt p with cpls := [], stage := [] }
    let s := (upFrom 0 4).foldl (fun s g => s.setFld F.POOL_SG_STATE 0 (4 * p + g) 0) s
    (s.setFld F.POOL_IRQ_GUARD 0 p 0).setFld F.DMA_PEND 0 p 0) s
  let s := (s.guestOn n).foldl (fun s p => s.poolReset p false true) s
  let s := s.tam.foldl (fun s e =>
    match e.2.sample with
    | some m => if m.part = n then s.tamAbandon e.1 m.tensor m.step else s
    | none => s) s
  { s with sta := { s.sta with reports := s.sta.reports.filter (fun r => r.part ≠ n)
                               outcomes := s.sta.outcomes.filter (fun o => o.part ≠ n) } }

/-- Step 5 (R375, R404, R405): the tree is walked while the partition's keys are still held, the keys are destroyed, and
the zeros are written in plaintext. -/
def State.scrubPart (s : State) (env : Env) (n : Nat) : State :=
  let s := { s with memc := { s.memc with tlb := s.memc.tlb.filter fun e => e.part ≠ n } }
  match s.tree env n with
  | (s, t) =>
    let s := s.setFld F.MEM_PT_EN 0 n 0
    let s := { s with sec := { s.sec with xts := sput 0 s.sec.xts n 0, slots := sfilter (fun k => k / 4 ≠ n) s.sec.slots } }
    match s.zeroLeaves env (scrubRq 64) t.leaves with
    | (s, k) =>
      let w := scrubResult t.bad k
      let s := s.modReset n fun x => { x with scrub := w }
      if w = 0 then s else
      (s.prtErr 2 n (sget ({} : ResetSt) s.prt.resets n).trigger).secErr 2 n 0 (w >>> 24)

/-- Registers that no reset of a partition clears: the ERR_STS and ERR_FIRST pairs (R375, R462). -/
def errRegs : List Reg :=
  [.topErrSts, .topErrFirst, .queErrSts, .queErrFirst, .dmaErrSts, .dmaErrFirst, .prtErrSts, .prtErrFirst, .celErrSts,
   .celErrFirst, .staErrSts, .staErrFirst, .tamErrSts, .tamErrFirst, .pteErrSts, .pteErrFirst, .memErrSts, .memErrFirst,
   .updErrSts, .updErrFirst, .casErrSts, .casErrFirst, .aqdErrSts, .aqdErrFirst, .macErrSts, .macErrFirst, .clpErrSts,
   .clpErrFirst, .hmpErrSts, .hmpErrFirst, .secErrSts, .secErrFirst, .weirErrSts, .weirErrFirst, .pwrErrSts,
   .pwrErrFirst, .lnkErrSts, .lnkErrFirst, .poolErrSts, .poolErrFirst]

/-- `w` with the RW fields of a register at their reset values. -/
def rwReset (r : Reg) (w : Nat) : Nat :=
  (regSpec r).flds.foldl (fun w f => if f.ty = .rw then setBits w f.hi f.lo f.reset else w) w

/-- The RW fields of one register return to their reset values. -/
def State.regRwReset (s : State) (r : Reg) (view inst : Nat) : State :=
  if r ∈ errRegs then s else s.setRegN r view inst (rwReset r (s.regN r view inst))

/-- The register of a key of the register file, by its place among the register names. -/
def regOf (key : Nat) : Option Reg := (barRegs ++ poolRegs ++ dmaRegs).find? fun r => r.ctorIdx = key / 1048576

/-- Every RW field of a function's BAR0 returns to its reset value (R375 step 6): its own copies, the register pages of
its partition's pools, and the channels of which it is the guest. -/
def State.barReset (s : State) (n : Nat) : State :=
  s.regs.foldl (fun s e =>
    match regOf e.1 with
    | none => s
    | some r =>
      let i := e.1 % 8192
      let mine := match (regSpec r).scope with
        | .each | .vf => decide (e.1 / 8192 % 128 = n + 1)
        | .pool => decide (s.owner (i / (regSpec r).n1) = some n)
        | .dma => 6 ≤ i % 8 && decide (s.guest (i / 8) = some n)
        | _ => false
      if mine then s.regRwReset r (e.1 / 8192 % 128) i else s) s

/-- Step 6 but for its event (R375, R372): registers, rings, event queue and vectors. -/
def State.postReset (s : State) (env : Env) (n : Nat) : State :=
  let s := (upFrom 0 17).foldl (fun s r => (s.disableRing env (n + 1) r).setRing (n + 1) r {}) s
  let s := (upFrom 0 16).foldl (fun s r => s.setFld F.QUE_RING_STATE (n + 1) r 0) s
  let s := s.barReset n
  let s := (s.setRegN .msixPba (n + 1) 0 0).setFld F.SEC_TDI_STATE 0 n 0
  let s := (upFrom 0 64).foldl (fun s v => s.setVec (n + 1) v {}) s
  { s with sec := { s.sec with digests := sput [] s.sec.digests n [], ops := sput none s.sec.ops n none,
                               broken := s.sec.broken.filter (· ≠ n) } }

/-! ### The sequence -/

/-- Show the step in progress. -/
def State.setPhase (s : State) (n k : Nat) : State := (s.modReset n fun x => { x with phase := k }).setFld F.PRT_PHASE 0 n k

/-- A trigger for partition `n` (R373, R374, R376); `link` for the resets that a link reset causes. While compute is
stopped the sequence stands where it began (R443, R467). -/
def State.resetTrigger (s : State) (env : Env) (n trigger : Nat) (link : Bool) : State :=
  let off := trigger = 1 || link
  if !s.partEnabled n then s.prtErr 1 n trigger
  else if s.resetting n then
    (s.modReset n fun x => { x with recordsOff := x.recordsOff || off, held := x.held || link }).prtErr 0 n trigger
  else
    let s := s.modReset n fun x => { trigger := trigger, recordsOff := off, viaVf := s.vfExists (n + 1), kept := x.kept,
                                       held := link, start := s.ns }
    let s := (s.setPhase n 1).setFld F.PRT_TRIGGER 0 n trigger
    if s.stopped then s else s.blockPart env n

/-- What a link reset does to every sequence that runs: nothing more is written into host memory, and RESET_DONE waits for
the physical function's event queue (R374, R376). -/
def State.linkHold (s : State) : State :=
  { s with prt := { s.prt with resets := s.prt.resets.map fun e =>
      (e.1, if e.2.phase = 0 then e.2 else { e.2 with recordsOff := true, held := true }) } }

/-- The next step of partition `n`'s sequence, once the one in progress has ended (R375). -/
def State.resetNext (s : State) (env : Env) (n : Nat) : State :=
  let r := sget {} s.prt.resets n
  match r.phase with
  | 1 => (s.setPhase n 2).quietPart env n
  | 2 => (s.setPhase n 3).revokePart env n
  | 3 =>
    if !s.revoked n then s else
    let s := s.closeFlows env n
    if s.flowless n then (s.setPhase n 4).abortOps env n else s
  | 4 => if s.cellsDone n then ((s.clearCells n).setPhase n 5).scrubPart env n else s
  | 5 => (s.setPhase n 6).postReset env n
  | 6 => if r.held && s.fld F.QUE_EQ_STATE 0 0 ≠ 1 then s else (s.resetDone n).resetEnd n
  | _ => s

/-- What a TDI that has entered ERROR has under way stops, as in steps 1 and 2 (R396). -/
def State.tdiStop (s : State) (env : Env) (n : Nat) : State :=
  if n ∈ s.sec.broken then
    let s := { s with sec := { s.sec with broken := s.sec.broken.filter (· ≠ n) } }
    if s.resetting n then s else (s.blockPart env n).quietPart env n
  else s

/-- A cause of R400 for partition `n`. -/
def State.tdiError (s : State) (env : Env) (n : Nat) : State := (s.tdiBreak n).tdiStop env n

/-- PARTITION_RESET_STEP: partition `n` moves on; so does the stop of its TDI (R375, R396, R443, R467). -/
def doPartitionResetStep (n : Nat) (env : Env) (s : State) : State :=
  if s.stopped ∨ 64 ≤ n then s
  else if s.resetting n then s.resetNext env n
  else s.tdiStop env n

def execPartitionResetStep (n : Nat) (env : Env) (s : State) : Host.Outcome State Fault Refusal :=
  done (doPartitionResetStep n env s)

/-- A write of PRT_RST_CTRL (R373, R387). -/
def State.prtCtrl (s : State) (env : Env) (value : Nat) : State :=
  let s := s.setFld F.PRT_RST_PART 0 0 value
  if bit value 16 then s.resetTrigger env (value % 64) 2 false else s

/-- PRT_RST_GO. -/
def doPrtRstGo (value : Nat) (env : Env) (s : State) : State := s.prtCtrl env (setBits value 16 16 1)

def execPrtRstGo (value : Nat) (env : Env) (s : State) : Host.Outcome State Fault Refusal := done (doPrtRstGo value env s)

/-- The fields of the configuration spaces that `gone` names return to their reset values (R377; log entry 39). -/
def State.cfgReset (s : State) (gone : Nat → Bool) : State :=
  { s with prt := { s.prt with cfg := sfilter (fun fn => !gone fn) s.prt.cfg } }

/-- VF_FLR: a Function Level Reset of virtual function `v` (R373, R377). -/
def doVfFlr (v : Nat) (env : Env) (s : State) : State :=
  if s.vfExists v then (s.cfgReset (· = v)).resetTrigger env (v - 1) 1 false else s

def execVfFlr (v : Nat) (env : Env) (s : State) : Host.Outcome State Fault Refusal := done (doVfFlr v env s)

/-- VF Enable clears: every partition that has a VF resets with trigger 3 (R373, R376). -/
def State.vfClear (s : State) (env : Env) (link : Bool) : State :=
  if !s.prt.vfEnable then s else
  let n := s.prt.numVfs
  let s := ((upFrom 0 n).foldl (fun s i => s.resetTrigger env i 3 link) s).cfgReset (· ≠ 0)
  { s with prt := { s.prt with vfEnable := false } }

/-- VF_ENABLE_CLEAR. -/
def doVfEnableClear (env : Env) (s : State) : State := s.vfClear env false

def execVfEnableClear (env : Env) (s : State) : Host.Outcome State Fault Refusal := done (doVfEnableClear env s)

/-- NUMVFS_WRITE (R368). -/
def doNumvfsWrite (value : Nat) (s : State) : State :=
  if s.prt.vfEnable then s
  else { s with prt := { s.prt with numVfs := min (Config.parts s.part) (value % 65536) } }

def execNumvfsWrite (value : Nat) (s : State) : Host.Outcome State Fault Refusal := done (doNumvfsWrite value s)

end Sys2Proof.Machine
end

