-- ==== Sys2Proof/Machine/Power.lean ====
section
/-! DEFINITION. Power and thermal control: the limit, the control window with its admission, the brake, and the loss and
return of airflow (spec/19, R383 of spec/16). -/

namespace Sys2Proof.Machine

/-! ### The limit (R431) -/

/-- A value held within a range. -/
def clampTo (lo hi v : Nat) : Nat := max lo (min hi v)

/-- PWR_CAP_W and PWR_BRAKE_W as they read. -/
def State.capW (s : State) (f : Fld) : Nat := clampTo (Config.capFloor s.part) (Config.envelope s.part) (s.fld f 0 0)

/-- The thermal limit: the envelope until a window has moved it (R438). -/
def State.thermalW (s : State) : Nat := if s.pwr.thermal = 0 then Config.envelope s.part else s.pwr.thermal

/-- The limit, and which term it is (R431). -/
def State.limit (s : State) : Nat × Nat :=
  let c := s.capW F.PWR_CAP_W
  let b := if s.flag F.PWR_BRAKE_ON 0 0 then s.capW F.PWR_BRAKE_W else Config.envelope s.part
  let t := s.thermalW
  let l := min c (min b t)
  (l, if Config.envelope s.part ≤ l then 0 else if c = l then 1 else if b = l then 2 else 3)

/-- Put the limit in force into PWR_POWER and PWR_STATUS. -/
def State.showLimit (s : State) : State :=
  (s.setFld F.PWR_LIMIT_W 0 0 s.limit.1).setFld F.PWR_LIMITER 0 0 s.limit.2

/-! ### The admission level and the operating point (R428, R433) -/

/-- Frequencies in MHz and voltages in mV of the operating points. -/
def opFreq (n : Nat) : Nat := 800 + 200 * n
def opVolt (n : Nat) : Nat := ([600, 620, 650, 680, 710, 730, 750, 800] : List Nat).getD n 800

/-- One step of the loop: the new level and point, from P and L in watts. -/
def powerStep (dynamic : Bool) (top p l a op : Nat) : Nat × Nat :=
  if l < p then
    if dynamic && decide (0 < op) && a = 16 then (a, op - 1) else (max 1 (min (a - 1) (a * l / p)), op)
  else if a < 16 then (if p * (a + 1) ≤ l * a then a + 1 else a, op)
  else if dynamic && decide (op < top)
      && decide (p * opFreq (op + 1) * opVolt (op + 1) ^ 2 ≤ l * opFreq op * opVolt op ^ 2) then (a, op + 1)
  else (a, op)

/-! ### Cell admission (R383) -/

/-- Cells on which each partition had an operation queued or executing. -/
def State.busyCells (s : State) (n : Nat) : Nat :=
  let live := s.pool.flatMap fun e =>
    ((e.2.queue ++ e.2.gqueue).filter fun o => o.part = n).flatMap fun o => ((s.group e.1 (tdOf o.d)).getD []).map Pos.c
  let past := (s.pwr.ran.filter fun e => e.1 = n).flatMap (·.2)
  (live ++ past).eraseDups.length

/-- Partitions whose share reaches 16 are capped until none is (R383): `l` holds partition, cells and weight of the set S. -/
def capShares : Nat → Nat → List (Nat × Nat × Nat) → List (Nat × Nat) → Nat × List (Nat × Nat × Nat) × List (Nat × Nat)
  | 0, budget, l, k => (budget, l, k)
  | f + 1, budget, l, k =>
    let w := l.foldl (fun a e => a + e.2.2 * e.2.1) 0
    let cap := l.filter fun e => decide (16 * w ≤ budget * e.2.2)
    if cap = [] then (budget, l, k)
    else capShares f (cap.foldl (fun b e => b - 16 * e.2.1) budget) (l.filter fun e => !decide (16 * w ≤ budget * e.2.2))
      (k ++ cap.map fun e => (e.1, 16))

/-- k[p] for the partitions with work, by partition. -/
def admission (a : Nat) (l : List (Nat × Nat × Nat)) : List (Nat × Nat) :=
  let x := capShares (l.length + 1) (a * l.foldl (fun b e => b + e.2.1) 0) l []
  let w := x.2.1.foldl (fun b e => b + e.2.2 * e.2.1) 0
  x.2.2 ++ x.2.1.map fun e => (e.1, max 1 (x.1 * e.2.2 / w))

/-- Set PRT_ADMIT. For a partition without work below full admission the spec states no value (log entry 3). -/
def State.setAdmission (s : State) (a : Nat) : State :=
  let work := ((upFrom 0 64).map fun n => (n, s.busyCells n, (s.partRec n).wCell)).filter fun e => e.2.1 ≠ 0
  let k := admission a work
  let s := (upFrom 0 64).foldl (fun s n =>
    if a = 16 then s.setFld F.PRT_ADMIT_K 0 n 16 else
    match k.find? fun e => e.1 = n with
    | some e => s.setFld F.PRT_ADMIT_K 0 n e.2
    | none => (s.setFld F.PRT_ADMIT_K 0 n (1 + s.freeBits 4)).bump) s
  { s with pwr := { s.pwr with ran := [] } }

/-! ### Sensors (R437) -/

/-- The sensors of the part, by ascending index. -/
def sensors (p : Part) : List Nat :=
  upFrom 0 (8 * Config.tiers p) ++ upFrom 32 12 ++ upFrom 64 (Config.channels p / 4)

/-- The control limit of a sensor. -/
def State.sensorLimit (s : State) (i : Nat) : Int :=
  if i < 36 then min 100 (s.fld F.PWR_T_CTL 0 0) else if i < 44 then 115 else min 95 (s.fld F.PWR_T_MEM_CTL 0 0)

/-- What a sensor gives: packages as last read under R179, the others from the window's readings. -/
def State.sensorRaw (s : State) (w : WindowIn) (i : Nat) : Option Int :=
  if 64 ≤ i then some ((sget 0 s.memc.temps (i - 64) : Nat) : Int)
  else match w.temps.find? fun e => e.1 = i with
    | some e => e.2
    | none => some w.ambient

/-- A sensor has a valid reading. -/
def State.sensorOk (s : State) (w : WindowIn) (i : Nat) : Bool :=
  match s.sensorRaw w i with
  | some t => decide (-40 ≤ t) && decide (t ≤ 150)
  | none => false

/-- The reading the device goes by: the control limit where there is none. -/
def State.sensor (s : State) (w : WindowIn) (i : Nat) : Int :=
  if s.sensorOk w i then (s.sensorRaw w i).getD 0 else s.sensorLimit i

/-- A temperature as a byte field, saturating at 0 and 255. -/
def tempByte (t : Int) : Nat := min 255 t.toNat

/-- The hottest of some sensors, saturating at 0 and 255. -/
def State.hottest (s : State) (w : WindowIn) (l : List Nat) : Nat := l.foldl (fun m i => max m (tempByte (s.sensor w i))) 0

/-- An error of the power block (R446). -/
def State.pwrErr (s : State) (b sensor temp : Nat) : State :=
  s.errOne .pwrErrSts .pwrErrFirst b
    (pack [(F.PWR_EF_INPUT_W, s.fld F.PWR_INPUT_DW 0 0 / 10), (F.PWR_EF_TEMP, temp), (F.PWR_EF_SENSOR, sensor),
      (F.PWR_EF_VALID, 1), (F.PWR_EF_CAUSE, b)]) 0 0

/-- The hottest junction that the registers show. -/
def State.hotJunction (s : State) : Nat := max (s.fld F.PWR_T_TIER 0 0) (s.fld F.PWR_T_PLINTH 0 0)

/-! ### Loss of airflow and thermal trip (R441, R442) -/

/-- TOP_STAGE moves. -/
def State.setStage (s : State) (n : Nat) : State :=
  if s.fld F.TOP_STAGE 0 0 = n then s else (s.setFld F.TOP_STAGE 0 0 n).stateSensor 0 n

/-- A channel completes every write it has accepted and enters self-refresh (R442, R488). -/
def State.chanRest (s : State) (env : Env) (ch : Nat) : State :=
  let c := s.chan ch
  if c.selfRefresh then s else
  let s := (c.queue.filter (·.write)).foldl (fun s q => s.serve env ch q) s
  (s.setChan ch { c with queue := [], selfRefresh := true, powerDown := false }).emit (.dram ch .selfRefreshEntry)

/-- Every Ethernet link goes down as the SerDes is powered down. -/
def State.portsDown (s : State) : State := (upFrom 0 16).foldl (fun s lp => doLinkDown lp s) s

/-- The compute side stops (R442). -/
def State.stopCompute (s : State) (env : Env) : State :=
  let s := { s with top := { s.top with stopped := true, boot := 0 } }
  let s := (upFrom 0 (Config.channels s.part)).foldl (fun s ch => s.chanRest env ch) s
  s.portsDown.setStage 10

/-- The fields of AIRFLOW_LOST. -/
def State.airflowData (s : State) : List Byte :=
  toLe 2 (s.fld F.PWR_INPUT_DW 0 0 / 10) ++ toLe 1 s.hotJunction ++ toLe 1 (1 - s.fld F.PWR_BRAKE_ON 0 0)

/-- Enter the airflow-lost state, with the event `code` and its data. -/
def State.airflowLost (s : State) (env : Env) (code : Nat) (d : List Byte) : State :=
  let s := (s.setFld F.PWR_AIRFLOW_STATE 0 0 1).pwrErr 4 0 s.hotJunction
  ((s.stateSensor 1 1).eventPf code d).stopCompute env

/-- The tier rails are up: from the training of the links to READY. -/
def State.railsUp (s : State) : Bool :=
  let n := s.fld F.TOP_STAGE 0 0
  decide (4 ≤ n) && decide (n ≤ 9)

/-- AIRFLOW_LOSS: the pin has been low for 1 µs (R442, R483). -/
def doAirflowLoss (env : Env) (s : State) : State :=
  if !s.top.airflow then s else
  let s := { s with top := { s.top with airflow := false } }
  if s.railsUp && !s.flag F.PWR_AIRFLOW_STATE 0 0 then s.airflowLost env 0x0802 s.airflowData else s

def execAirflowLoss (env : Env) (s : State) : Host.Outcome State Fault Refusal := done (doAirflowLoss env s)

/-- A thermal trip by sensor `i` (R441). -/
def State.thermalTrip (s : State) (env : Env) (w : WindowIn) (i : Nat) : State :=
  let s := (s.setFld F.PWR_TRIPPED 0 0 1).pwrErr 3 i (tempByte (s.sensor w i))
  let s := s.stateSensor 2 1
  s.airflowLost env 0x0803 (s.airflowData ++ toLe 1 i)

/-! ### The control window (R433 to R441) -/

/-- The thermal limit moves; the lowest sensor above its limit where it falls (R438). -/
def State.thermalStep (s : State) (w : WindowIn) : State :=
  let e := Config.envelope s.part
  let d := e * 2 / 100
  let l := s.thermalW
  match (sensors s.part).find? fun i => s.sensorLimit i < s.sensor w i with
  | some i =>
    let n := max (Config.capFloor s.part) (l - d)
    let t := { s with pwr := { s.pwr with thermal := n } }
    if n < l then t.pwrErr 2 i (tempByte (s.sensor w i)) else t
  | none =>
    if (sensors s.part).all fun i => s.sensor w i + 3 ≤ s.sensorLimit i then
      { s with pwr := { s.pwr with thermal := min e (l + d) } }
    else s

/-- THERM_ALERT_N (R440). -/
def State.thermAlert (s : State) (w : WindowIn) : State :=
  let t : Int := s.fld F.PWR_T_ALERT 0 0
  let l := sensors s.part
  if !s.pwr.alert && l.any (fun i => decide (t ≤ s.sensor w i)) then
    ({ s with pwr := { s.pwr with alert := true } }.emit (.pin .thermAlert false)).stateSensor 4 1
  else if s.pwr.alert && l.all (fun i => decide (s.sensor w i + 3 ≤ t)) then
    ({ s with pwr := { s.pwr with alert := false } }.emit (.pin .thermAlert true)).stateSensor 4 0
  else s

/-- The floor: no lower level and no lower point (R435). -/
def State.atFloor (s : State) : Bool :=
  s.fld F.PWR_A 0 0 = 1 && (!s.flag F.PWR_MODE 0 0 || s.fld F.PWR_OP 0 0 = 0)

/-- Ten windows over the limit at the floor raise CAP_UNREACHABLE; ten at or below it end the condition (R435). -/
def State.reachable (s : State) (p l : Nat) (floor : Bool) : State :=
  let above := if floor && decide (l < p) then s.pwr.above + 1 else 0
  let under := if p ≤ l then s.pwr.under + 1 else 0
  let s := { s with pwr := { s.pwr with above := min 10 above, under := min 10 under } }
  let now := s.flag F.PWR_UNREACH_NOW 0 0
  if !now && decide (10 ≤ above) then
    let s := (s.setFld F.PWR_UNREACH_NOW 0 0 1).pwrErr 0 0 s.hotJunction
    s.eventPf 0x0801 (toLe 2 p ++ toLe 2 l ++ toLe 1 (s.fld F.PWR_MODE 0 0) ++ toLe 1 (s.fld F.PWR_OP 0 0)
      ++ toLe 1 (s.fld F.PWR_LIMITER 0 0))
  else if now && decide (10 ≤ under) then s.setFld F.PWR_UNREACH_NOW 0 0 0
  else s

/-- Every junction sensor is at least 5 °C below PWR_T_CTL (R439). -/
def State.coolEnough (s : State) (w : WindowIn) : Bool :=
  ((sensors s.part).filter (· < 36)).all fun i => decide (s.sensor w i + 5 ≤ s.sensorLimit i)

/-- PWR_TEMP and the invalid sensors (R437). -/
def State.readSensors (s : State) (w : WindowIn) : State :=
  let l := sensors s.part
  let t := ((s.setFld F.PWR_T_TIER 0 0 (s.hottest w (l.filter (· < 32)))).setFld F.PWR_T_PLINTH 0 0
    (s.hottest w (upFrom 32 4))).setFld F.PWR_T_VR 0 0 (s.hottest w (upFrom 36 8))
  let t := t.setFld F.PWR_T_MEM 0 0 (s.hottest w (l.filter (64 ≤ ·)))
  match l.find? fun i => !s.sensorOk w i with
  | some i => t.pwrErr 5 i (tempByte (s.sensor w i))
  | none => t

/-- The level and the point of the next window (R430, R433, R439). -/
def State.nextLevel (s : State) (w : WindowIn) (p l : Nat) : State :=
  let dyn := s.flag F.PWR_MODE 0 0
  let a := s.fld F.PWR_A 0 0
  let boost := dyn && s.flag F.PWR_BOOST_EN 0 0 && s.coolEnough w
  let top := if boost then 7 else 6
  let op := if dyn then s.fld F.PWR_OP 0 0 else min 6 (s.fld F.PWR_FIXED_OP 0 0)
  let x := powerStep dyn top p l a op
  let s := (s.setFld F.PWR_A 0 0 x.1).setFld F.PWR_OP 0 0 (min top x.2)
  s.setAdmission x.1

/-- CONTROL_WINDOW: 100 µs have passed (R383, R433). -/
def doControlWindow (w : WindowIn) (env : Env) (s : State) : State :=
  if s.fld F.TOP_STAGE 0 0 < 3 then s else
  let s := (s.setFld F.PWR_INPUT_DW 0 0 (min 65535 w.dw)).readSensors w
  let s := ((s.thermalStep w).showLimit).thermAlert w
  match ((sensors s.part).filter (· < 36)).find? fun i => s.sensorOk w i && decide (110 ≤ s.sensor w i) && !s.flag F.PWR_TRIPPED 0 0 with
  | some i => s.thermalTrip env w i
  | none =>
    let p := w.dw / 10
    let l := s.limit.1
    (s.nextLevel w p l).reachable p l s.atFloor

def execControlWindow (w : WindowIn) (env : Env) (s : State) : Host.Outcome State Fault Refusal :=
  done (doControlWindow w env s)

/-- PWR_BRAKE_FALL (R434). -/
def doPwrBrakeFall (s : State) : State :=
  if s.flag F.PWR_BRAKE_ON 0 0 then s else
  let s := (s.setFld F.PWR_BRAKE_ON 0 0 1).pwrErr 1 0 s.hotJunction
  (s.setFld F.PWR_A 0 0 (min (s.fld F.PWR_A 0 0) (max 1 (s.fld F.PWR_BRAKE_A 0 0)))).showLimit

def execPwrBrakeFall (s : State) : Host.Outcome State Fault Refusal := done (doPwrBrakeFall s)

/-- PWR_BRAKE_RISE (R434). -/
def doPwrBrakeRise (s : State) : State :=
  if s.flag F.PWR_BRAKE_ON 0 0 then (s.setFld F.PWR_BRAKE_ON 0 0 0).showLimit else s

def execPwrBrakeRise (s : State) : Host.Outcome State Fault Refusal := done (doPwrBrakeRise s)

end Sys2Proof.Machine
end

