-- ==== Sys2Proof/Machine/Links.lean ====
section
/-! DEFINITION. The die links: replays, lane checks, spares, retirement and fencing, training and die identity (spec/20). -/

namespace Sys2Proof.Machine

/-- The link exists on this part (R447). -/
def linkExists (p : Part) (l : Nat) : Bool :=
  match p with
  | .gx4 => decide (l < 8)
  | .gx2 => l = 0 || l = 4 || l = 5

/-- A group of a link direction. -/
def State.grpOf (s : State) (l d g : Nat) : LnkGroup := sget {} s.lnk (32 * l + 16 * d + g)

/-- Store a group. -/
def State.setLnk (s : State) (l d g : Nat) (x : LnkGroup) : State := { s with lnk := sput {} s.lnk (32 * l + 16 * d + g) x }

/-- The groups of a direction. -/
def State.dirGroups (s : State) (l d : Nat) : List LnkGroup := (upFrom 0 16).map (s.grpOf l d)

/-- Groups retired in a direction. -/
def State.lost (s : State) (l d : Nat) : Nat := ((s.dirGroups l d).filter (·.retired)).length

/-- An error of the die links (R459). -/
def State.lnkErr (s : State) (b l d g lane : Nat) : State :=
  s.errOne .lnkErrSts .lnkErrFirst b
    (pack [(F.LNK_EF_LANE, lane), (F.LNK_EF_GROUP, g), (F.LNK_EF_DIR, d), (F.LNK_EF_LINK, l), (F.LNK_EF_VALID, 1),
      (F.LNK_EF_CAUSE, b)]) 0 0

/-- Put a direction's state into LNK_STATE; `fenced` once nine groups of either direction are retired (R454). -/
def State.showLink (s : State) (l d : Nat) : State :=
  let i := 2 * l + d
  let bitsOf := fun (f : LnkGroup → Nat) (n : Nat) => ((upFrom 0 16).foldl (fun a g => a + (f (s.grpOf l d g)) <<< (n * g)) 0)
  let fence := decide (9 ≤ s.lost l 0) || decide (9 ≤ s.lost l 1)
  let st := if fence then 3 else if s.lost l d = 0 then 1 else 2
  let s := (s.setFld F.LNK_GRP_RETIRED 0 i (bitsOf (fun x => b2n x.retired) 1)).setFld F.LNK_SPARES_USED 0 i
    (bitsOf (fun x => x.roles.length) 2)
  (s.setFld F.LNK_GRP_LOST 0 i (s.lost l d)).setFld F.LNK_LINK_STATE 0 i st

/-- Give the failed lanes their spares, in ascending order: the group, whether a spare was taken, and the lane for which
none was left (R452). -/
def takeSpares : List Nat → LnkGroup → Bool → LnkGroup × Bool × Option Nat
  | [], x, t => (x, t, none)
  | lane :: rest, x, t =>
    if lane ∈ x.failed then takeSpares rest x t else
    let x := { x with failed := x.failed ++ [lane] }
    let role := if lane < 32 ∨ lane = 34 then some lane else (x.roles.find? fun r => r.2 = lane).map (·.1)
    match role with
    | none => takeSpares rest x t
    | some r =>
      let roles := x.roles.filter fun e => e.2 ≠ lane
      match ([32, 33] : List Nat).find? fun p => p ∉ x.failed && roles.all fun e => e.2 ≠ p with
      | some p => takeSpares rest { x with roles := roles ++ [(r, p)] } true
      | none => ({ x with roles := roles }, t, some lane)

/-- A channel's requests that a fenced link cuts off receive UE (R21, R454). -/
def State.cutChannel (s : State) (ch : Nat) : State :=
  let c := s.chan ch
  let hit := c.queue.filter fun q => s.cut q.die (chanDie ch)
  if hit = [] then s else
  hit.foldl (fun s q => s.respond q .ue [])
    (s.setChan ch (c.requeue (c.queue.filter fun q => !s.cut q.die (chanDie ch))))

/-- Requests on the way over a fenced link receive UE in place of their responses (R454). -/
def State.cutRequests (s : State) : State :=
  let s := (upFrom 0 (Config.channels s.part)).foldl State.cutChannel s
  let hit := s.memc.hostOut.filter fun q => s.cut q.die .plinth
  hit.foldl (fun s q => s.respond q .ue [])
    { s with memc := { s.memc with hostOut := s.memc.hostOut.filter fun q => !s.cut q.die .plinth } }

/-- Fence a link whose direction has lost its ninth group: the module fails (R454). -/
def State.fenceCheck (s : State) (l d g lane : Nat) : State :=
  if s.lost l d = 9 then
    let s := ((s.showLink l 0).showLink l 1).cutRequests
    (s.lnkErr 3 l d g lane).failModule 2 l
  else s

/-- Retire a group, with the lane that exhausted its spares; `quiet` in training (R449, R452). -/
def State.retireGroup (s : State) (l d g lane : Nat) (quiet : Bool) : State :=
  let s := s.setLnk l d g { s.grpOf l d g with retired := true, checking := false, due := false, replays := [] }
  let s := (s.lnkErr 2 l d g lane).showLink l d
  let s := if quiet then s
    else s.eventPf 0x0804 (toLe 1 l ++ toLe 1 d ++ toLe 1 g ++ toLe 1 lane ++ toLe 1 (s.lost l d))
  s.fenceCheck l d g 0

/-- Assign spares after a check or in training, the failed lanes in ascending order. -/
def State.assign (s : State) (l d g : Nat) (lanes : List Nat) (quiet : Bool) : State :=
  match takeSpares ((upFrom 0 35).filter (· ∈ lanes)) (s.grpOf l d g) false with
  | (x, took, out) =>
    let s := s.setLnk l d g { x with checking := false, due := false, replays := [] }
    let s := if took then s.lnkErr 1 l d g (((x.roles.getLast?).map (·.1)).getD 0) else s
    match out with
    | some lane => s.retireGroup l d g lane quiet
    | none => s.showLink l d

/-- The links carry traffic (R455). -/
def State.linkLive (s : State) (l d g : Nat) : Bool :=
  !s.stopped && linkExists s.part l && decide (d < 2) && decide (g < 16) && !(s.grpOf l d g).retired

/-- SLICE_CHECK_FAIL: a slice is replayed, and the replays of the last millisecond are counted (R450, R451). -/
def doSliceCheckFail (l d g : Nat) (s : State) : State :=
  if !s.linkLive l d g then s else
  let x := s.grpOf l d g
  let rs := (x.replays.filter fun t => decide (s.ns < t + 1000000)) ++ [s.ns]
  let lim := max 1 (s.fld F.LNK_REPLAY_LIMIT 0 0)
  let s := s.setLnk l d g { x with replays := rs, due := x.due || (!x.checking && decide (lim ≤ rs.length)) }
  (s.count 0x0B01 (2 * l + d) [] 1).lnkErr 0 l d g 0

def execSliceCheckFail (l d g : Nat) (s : State) : Host.Outcome State Fault Refusal := done (doSliceCheckFail l d g s)

/-- LANE_CHECK_START: a group that has reached the limit leaves the rotation, one of a direction at a time (R451). -/
def doLaneCheckStart (l d g : Nat) (s : State) : State :=
  if s.linkLive l d g && (s.grpOf l d g).due && (s.dirGroups l d).all (fun x => !x.checking) then
    s.setLnk l d g { s.grpOf l d g with due := false, checking := true, replays := [] }
  else s

def execLaneCheckStart (l d g : Nat) (s : State) : Host.Outcome State Fault Refusal := done (doLaneCheckStart l d g s)

/-- LANE_CHECK_END: the check has found `lanes` failed (R451, R452). -/
def doLaneCheckEnd (l d g : Nat) (lanes : List Nat) (s : State) : State :=
  if s.linkLive l d g && (s.grpOf l d g).checking then s.assign l d g lanes false else s

def execLaneCheckEnd (l d g : Nat) (lanes : List Nat) (s : State) : Host.Outcome State Fault Refusal :=
  done (doLaneCheckEnd l d g lanes s)

/-- FORWARDED_CLOCK_LOSS: the group is retired at once (R451). -/
def doForwardedClockLoss (l d g : Nat) (s : State) : State :=
  if s.linkLive l d g then s.retireGroup l d g 35 false else s

def execForwardedClockLoss (l d g : Nat) (s : State) : Host.Outcome State Fault Refusal := done (doForwardedClockLoss l d g s)

/-! ### Training and identity (R449, R456, R457) -/

/-- Train one direction of a link from all lanes (R449). -/
def State.trainDir (s : State) (b : BootIn) (l d : Nat) : State :=
  (upFrom 0 16).foldl (fun s g =>
    if (l, d, g) ∈ b.unlocked then s.retireGroup l d g 35 true
    else s.assign l d g (((b.badLanes.find? fun e => e.1 = (l, d, g)).map (·.2)).getD []) true)
    ((s.setRegN .lnkState 0 (2 * l + d) 0).showLink l d)

/-- Train every link. -/
def State.trainLinks (s : State) (b : BootIn) : State :=
  let s := { s with lnk := [] }
  (upFrom 0 8).foldl (fun s l =>
    if linkExists s.part l then (s.trainDir b l 0).trainDir b l 1
    else (s.setRegN .lnkState 0 (2 * l) 0).setRegN .lnkState 0 (2 * l + 1) 0) s

/-- Tiers, as a mask, that fail a check. -/
def tierMask (n : Nat) (bad : Nat → Bool) : Nat := (upFrom 0 n).foldl (fun a t => a + b2n (bad t) * 2 ^ t) 0

/-- The identity checks in the order of LNK_ID_RESULT: the first that fails and its tiers (R456). -/
def identity (p : Part) (b : BootIn) : Nat × Nat :=
  let n := Config.tiers p
  let die := fun t => b.dies.getD t ⟨0, 0, b.set, b.stepping, t⟩
  let four := p = .gx4
  let port := tierMask n fun t => (die t).serial ≠ (die t).portSerial
  let pos := tierMask n fun t => (die t).position ≠ t
  let set := tierMask n fun t => (die t).set ≠ b.set
  let step := tierMask n fun t => (die t).stepping ≠ b.stepping
  if four && !(b.hops = 4 && b.back) then (1, 15)
  else if four && port ≠ 0 then (2, port)
  else if !four && pos ≠ 0 then (3, pos)
  else if set ≠ 0 then (4, set)
  else if step ≠ 0 then (5, step)
  else (0, 0)

/-- Record the outcome of the identity checks. -/
def State.showIdentity (s : State) (b : BootIn) : State :=
  let x := identity s.part b
  let s := s.setFld F.TOP_STEPPING 0 0 b.stepping
  let s := (s.setFld F.LNK_SET_ID 0 0 b.set).setFld F.LNK_BAD_TIERS 0 0 x.2
  let s := (s.setFld F.LNK_ID_RESULT 0 0 x.1).setFld F.LNK_DIAG 0 0 (b2n (x.1 ≠ 0))
  if x.1 = 0 then s else s.lnkErr 4 0 0 0 0

end Sys2Proof.Machine
end

