-- ==== Sys2Proof/Machine/Security.lean ====
section
/-! DEFINITION. Security and confidential partitions (spec/17): the SPDM responder, IDE streams and their keys, the TDISP
messages, the lock sequence, key-release blobs, encrypted ingest, and the security-version fuses. -/

namespace Sys2Proof.Machine

/-- Update the security state. -/
def State.withSec (s : State) (f : SecSt → SecSt) : State := { s with sec := f s.sec }

/-! ### SPDM (R392 to R394) -/

/-- The plinth's firmware runs: bring-up has passed the boot ROM, and the ROM has not refused both copies (R484). -/
def State.firmware (s : State) : Bool := 3 ≤ s.fld F.TOP_STAGE 0 0 && s.top.p54v

/-- D of R392. -/
def State.debugOn (s : State) : Bool := s.flag F.SEC_DEBUG 0 0

/-- The module's identity, as the ROM makes it for the body of digest `body` and the version `svn`: the DeviceID key from the
device secret alone, the Alias key from the CDI, and the Alias certificate under the DeviceID key. The secret is then closed;
no field holds the DeviceID private key or the CDI (R389, R392). -/
def State.dice (s : State) (body : List Byte) (svn : Nat) : State :=
  let device := Config.deriveP384 s.sec.uds
  let cdi := Config.hmacSha384 s.sec.uds (body ++ toLe 1 svn ++ toLe 1 (b2n s.sec.debug))
  let key := Config.deriveP384 cdi
  let tbs := Config.aliasTbs (Config.p384Public key) body svn s.sec.debug
  s.withSec fun x => { x with
    body := body, aliasKey := key, aliasCert := Config.x509 tbs (Config.ecdsaSign device tbs)
    makerCerts := Config.makerCerts (Config.p384Public device), udsShut := true }

/-- The transport answers: 0 is DOE, over the link, 1 is MCTP. -/
def State.spdmOpen (s : State) (t : Nat) : Bool := s.firmware && (if t = 0 then s.que.linkUp else t = 1 && s.top.standby)

/-- Answer on a transport. -/
def State.spdmSay (s : State) (t : Nat) (r : SpdmResp) : State := s.emit (.spdm t r)

/-- How far a transport's version, capabilities and algorithms have come. -/
def State.spdmStage (s : State) (t : Nat) : Nat := sget 0 s.sec.spdm t

/-- Store it. -/
def State.setSpdm (s : State) (t k : Nat) : State := s.withSec fun x => { x with spdm := sput 0 x.spdm t k }

/-- A request that needs the negotiation to be over: `f` answers it, and otherwise it is unexpected. -/
def State.spdmReq (s : State) (t : Nat) (f : State → State) : State :=
  if !s.spdmOpen t then s
  else if s.spdmStage t = 3 then f s
  else s.spdmSay t (.error .unexpectedRequest)

/-- The Alias key's signature over a message (R392). -/
def State.signed (s : State) (m : List Byte) : List Byte := Config.ecdsaSign s.sec.aliasKey m

/-- The chain of slot 0: Dunakel root, Dunakel intermediate, DeviceID, Alias (R392). -/
def State.chain (s : State) : List Byte := s.sec.makerCerts ++ s.sec.aliasCert

/-- The capabilities of R394; those it calls absent are not announced (R14). -/
def spdmCaps : List SpdmCap := [.cert, .chal, .meas, .encrypt, .mac, .keyExchange, .heartbeat, .keyUpdate, .chunk]

/-- The one set of algorithms of R394. -/
def spdmAlgs : List SpdmAlg := [.ecdsaP384, .sha384, .secp384r1, .aes256Gcm]

/-- GET_VERSION: 1.2 and 1.3. -/
def doGetVersion (t : Nat) (s : State) : State :=
  if s.spdmOpen t then (s.setSpdm t 1).spdmSay t (.version [0x12, 0x13]) else s

def execGetVersion (t : Nat) (s : State) : Host.Outcome State Fault Refusal := done (doGetVersion t s)

/-- A step of the negotiation: allowed from stage `k` only. -/
def State.negotiate (s : State) (t k : Nat) (r : SpdmResp) : State :=
  if !s.spdmOpen t then s
  else if s.spdmStage t = k then (s.setSpdm t (k + 1)).spdmSay t r
  else s.spdmSay t (.error .unexpectedRequest)

/-- GET_CAPABILITIES. -/
def doGetCapabilities (t : Nat) (s : State) : State := s.negotiate t 1 (.capabilities spdmCaps 4096)

def execGetCapabilities (t : Nat) (s : State) : Host.Outcome State Fault Refusal := done (doGetCapabilities t s)

/-- NEGOTIATE_ALGORITHMS: the one set of algorithms of R394. -/
def doNegotiateAlgorithms (t : Nat) (s : State) : State := s.negotiate t 2 (.algorithms spdmAlgs)

def execNegotiateAlgorithms (t : Nat) (s : State) : Host.Outcome State Fault Refusal := done (doNegotiateAlgorithms t s)

/-- GET_DIGESTS: slot 0 only. -/
def doGetDigests (t : Nat) (s : State) : State :=
  s.spdmReq t fun s => s.spdmSay t (.digests 1 (Config.sha384 s.chain))

def execGetDigests (t : Nat) (s : State) : Host.Outcome State Fault Refusal := done (doGetDigests t s)

/-- Bytes of a message of 4,096 that a chunk or a certificate portion leaves for its content. -/
def spdmRoom : Nat := 4080

/-- GET_CERTIFICATE: a portion of the chain of slot 0; one that a message cannot hold travels by chunks (R392, R394). -/
def doGetCertificate (t slot off len : Nat) (s : State) : State :=
  s.spdmReq t fun s =>
    let all := s.chain
    if slot ≠ 0 ∨ all.length ≤ off then s.spdmSay t (.error .invalidRequest) else
    let d := (all.drop off).take (len % 65536)
    if d.length ≤ spdmRoom then s.spdmSay t (.certificate d (all.length - off - d.length))
    else (s.withSec fun x => { x with chunkOut := sput [] x.chunkOut t d }).spdmSay t (.error (.largeResponse 1))

def execGetCertificate (t slot off len : Nat) (s : State) : Host.Outcome State Fault Refusal :=
  done (doGetCertificate t slot off len s)

/-- CHALLENGE: signed with the Alias key. -/
def doChallenge (t slot : Nat) (nonce : List Byte) (s : State) : State :=
  s.spdmReq t fun s =>
    if slot ≠ 0 then s.spdmSay t (.error .invalidRequest) else
    let d := Config.sha384 s.chain
    s.spdmSay t (.challengeAuth d (s.signed (d ++ nonce)))

def execChallenge (t slot : Nat) (nonce : List Byte) (s : State) : Host.Outcome State Fault Refusal :=
  done (doChallenge t slot nonce s)

/-- A measurement block: its index, whether it is raw, and its content (R393). -/
def State.measurement (s : State) (i : Nat) : Nat × Bool × List Byte :=
  match i with
  | 1 => (1, true, Config.romVersion)
  | 2 => (2, false, s.sec.body)
  | 3 => (3, true, toLe 1 (s.fld F.SEC_SVN_IMG 0 0) ++ toLe 1 s.sec.svn)
  | 4 => (4, true, toLe 1 (b2n s.sec.debug) ++ toLe 1 (b2n s.debugOn))
  | 5 => (5, false, if s.pte.raw = [] then zeros 48 else Config.sha384 s.pte.raw)
  | _ => (6, false, Config.sha384 (s.weir.fwDigest ++ toLe 4 s.weir.sealCount))

/-- GET_MEASUREMENTS: 0 asks how many there are, 1 to 6 for one block, 0xFF for all (R393). -/
def doGetMeasurements (t op : Nat) (nonce : List Byte) (s : State) : State :=
  s.spdmReq t fun s =>
    let l := if op = 0 then [] else if op = 0xFF then (upFrom 1 6).map s.measurement else [s.measurement op]
    if op ≠ 0 ∧ op ≠ 0xFF ∧ 6 < op then s.spdmSay t (.error .invalidRequest)
    else s.spdmSay t (.measurements 6 l (s.signed (l.flatMap (fun b => toLe 1 b.1 ++ b.2.2) ++ nonce)))

def execGetMeasurements (t op : Nat) (nonce : List Byte) (s : State) : Host.Outcome State Fault Refusal :=
  done (doGetMeasurements t op nonce s)

/-- KEY_EXCHANGE: a session opens, or the ninth is refused (R394). -/
def doKeyExchange (t slot : Nat) (nonce : List Byte) (s : State) : State :=
  s.spdmReq t fun s =>
    if slot ≠ 0 then s.spdmSay t (.error .invalidRequest)
    else if 8 ≤ s.sec.sessions.length then s.spdmSay t (.error .sessionLimitExceeded)
    else
      let id := s.sec.nextSession
      let s := s.withSec fun x => { x with nextSession := id + 1, sessions := x.sessions ++ [{ id := id, transport := t }] }
      s.spdmSay t (.keyExchange id (s.signed (toLe 4 id ++ nonce)))

def execKeyExchange (t slot : Nat) (nonce : List Byte) (s : State) : Host.Outcome State Fault Refusal :=
  done (doKeyExchange t slot nonce s)

/-- The session `id` of a transport. -/
def State.session (s : State) (t id : Nat) : Option Session := s.sec.sessions.find? fun x => x.id = id && x.transport = t

/-- Update a session. -/
def State.modSession (s : State) (id : Nat) (f : Session → Session) : State :=
  s.withSec fun x => { x with sessions := x.sessions.map fun y => if y.id = id then f y else y }

/-- A request in a session: `f` answers it when FINISH has come, or has not, as `finished` says. -/
def State.inSession (s : State) (t id : Nat) (finished : Bool) (f : State → State) : State :=
  s.spdmReq t fun s =>
    match s.session t id with
    | none => s.spdmSay t (.error .invalidSession)
    | some x => if x.finished = finished then f s else s.spdmSay t (.error .unexpectedRequest)

/-- FINISH: the session is established. -/
def doFinish (t id : Nat) (s : State) : State :=
  s.inSession t id false fun s => (s.modSession id fun x => { x with finished := true }).spdmSay t .finish

def execFinish (t id : Nat) (s : State) : Host.Outcome State Fault Refusal := done (doFinish t id s)

/-- HEARTBEAT. -/
def doHeartbeat (t id : Nat) (s : State) : State := s.inSession t id true fun s => s.spdmSay t .heartbeatAck

def execHeartbeat (t id : Nat) (s : State) : Host.Outcome State Fault Refusal := done (doHeartbeat t id s)

/-- KEY_UPDATE: 1 updates the requester's keys, 2 both sides', 3 verifies the new ones. -/
def doKeyUpdate (t id op : Nat) (s : State) : State :=
  s.inSession t id true fun s =>
    if op = 0 ∨ 3 < op then s.spdmSay t (.error .invalidRequest) else
    (s.modSession id fun x => { x with updates := (x.updates.1 + b2n (decide (op ≠ 3)), x.updates.2 + b2n (decide (op = 2))) }).spdmSay t
      (.keyUpdateAck op)

def execKeyUpdate (t id op : Nat) (s : State) : Host.Outcome State Fault Refusal := done (doKeyUpdate t id op s)

/-- END_SESSION: the session's place is free again. -/
def doEndSession (t id : Nat) (s : State) : State :=
  s.inSession t id true fun s =>
    (s.withSec fun x => { x with sessions := x.sessions.filter fun y => y.id ≠ id }).spdmSay t .endSessionAck

def execEndSession (t id : Nat) (s : State) : Host.Outcome State Fault Refusal := done (doEndSession t id s)

/-- CHUNK_SEND: one chunk of a large request, which its last chunk makes whole (R394). -/
def doChunkSend (t seq : Nat) (bytes : List Byte) (s : State) : State :=
  s.spdmReq t fun s =>
    let old := if seq = 0 then [] else sget [] s.sec.chunkIn t
    if spdmRoom < bytes.length then s.spdmSay t (.error .invalidRequest)
    else (s.withSec fun x => { x with chunkIn := sput [] x.chunkIn t (old ++ bytes) }).spdmSay t (.chunkSendAck seq)

def execChunkSend (t seq : Nat) (bytes : List Byte) (s : State) : Host.Outcome State Fault Refusal :=
  done (doChunkSend t seq bytes s)

/-- CHUNK_GET: one chunk of the large response that waits (R394). -/
def doChunkGet (t seq : Nat) (s : State) : State :=
  s.spdmReq t fun s =>
    let d := sget [] s.sec.chunkOut t
    if d.length ≤ spdmRoom * seq then s.spdmSay t (.error .invalidRequest) else
    let last := decide (d.length ≤ spdmRoom * (seq + 1))
    let s := if last then s.withSec fun x => { x with chunkOut := sput [] x.chunkOut t [] } else s
    s.spdmSay t (.chunk seq last ((d.drop (spdmRoom * seq)).take spdmRoom))

def execChunkGet (t seq : Nat) (s : State) : Host.Outcome State Fault Refusal := done (doChunkGet t seq s)

/-! ### IDE (R395) -/

/-- What an IDE stream holds. -/
def State.stream (s : State) (k : Nat) : IdeStream := sget {} s.sec.streams k

/-- Store it. -/
def State.setStream (s : State) (k : Nat) (x : IdeStream) : State :=
  s.withSec fun y => { y with streams := sput {} y.streams k x }

/-- Number of the key of a set, direction and sub-stream. -/
def ideKey (set dir sub : Nat) : Nat := 6 * set + 3 * dir + sub

/-- One key set of the stream goes in both directions and every sub-stream. -/
def IdeStream.whole (x : IdeStream) : Bool :=
  [0, 1].any fun set => (upFrom 0 6).all fun k => decide (6 * set + k ∈ x.going)

/-- An IDE_KM message: keys are programmed, and started once programmed; a stream is secure while a set goes. -/
def State.ideKm (s : State) (t : Nat) : IdeKm → State
  | .query => s.spdmSay t (.ideQuery 9)
  | .keyProg k set dir sub =>
    if 9 ≤ k ∨ 2 ≤ set ∨ 2 ≤ dir ∨ 3 ≤ sub then s.spdmSay t (.ideKeyAck false) else
    let x := s.stream k
    (s.setStream k { x with keyed := ideKey set dir sub :: x.keyed.filter (· ≠ ideKey set dir sub) }).spdmSay t (.ideKeyAck true)
  | .setGo k set dir sub =>
    let x := s.stream k
    if ideKey set dir sub ∈ x.keyed then
      let x := { x with going := ideKey set dir sub :: x.going.filter (· ≠ ideKey set dir sub) }
      (s.setStream k { x with secure := x.enabled && x.whole }).spdmSay t (.ideGoStopAck true)
    else s.spdmSay t (.ideGoStopAck false)
  | .setStop k set dir sub =>
    let x := s.stream k
    let x := { x with going := x.going.filter (· ≠ ideKey set dir sub), keyed := x.keyed.filter (· ≠ ideKey set dir sub) }
    (s.setStream k { x with secure := x.secure && x.whole }).spdmSay t (.ideGoStopAck true)

/-- VENDOR_DEFINED_REQUEST carrying IDE_KM: only in a session over the physical function's DOE (R395). -/
def doVendorDefinedRequest (t id : Nat) (km : IdeKm) (s : State) : State :=
  s.inSession t id true fun s => if t = 0 then s.ideKm t km else s.spdmSay t (.error .invalidRequest)

def execVendorDefinedRequest (t id : Nat) (km : IdeKm) (s : State) : Host.Outcome State Fault Refusal :=
  done (doVendorDefinedRequest t id km s)

/-- Partitions whose locked TDI is bound to a stream. -/
def State.boundTo (s : State) (k : Nat) : List Nat :=
  (upFrom 0 64).filter fun n => (s.tdi n = 1 || s.tdi n = 2) && decide (s.fld F.SEC_STREAM 0 n = k)

/-- The stream is insecure: SEC_E_IDE, and every interface bound to it enters ERROR (R395, R400). -/
def State.streamLost (s : State) (env : Env) (k : Nat) : State :=
  let s := s.setStream k { s.stream k with secure := false }
  match s.boundTo k with
  | [] => s.secErr 0 64 k 0
  | l => l.foldl (fun s n => (s.secErr 0 n k 0).tdiError env n) s

/-- IDE_INTEGRITY_FAILURE. -/
def doIdeIntegrityFailure (stream : Nat) (env : Env) (s : State) : State :=
  if (s.stream stream).enabled && (s.stream stream).secure then s.streamLost env stream else s

def execIdeIntegrityFailure (stream : Nat) (env : Env) (s : State) : Host.Outcome State Fault Refusal :=
  done (doIdeIntegrityFailure stream env s)

/-! ### TDISP (R395 to R400) -/

/-- A TDI: an existing virtual function, reached while firmware runs and the link is up. -/
def State.tdiOpen (s : State) (part : Nat) : Bool := s.firmware && s.que.linkUp && s.vfExists (part + 1)

/-- Answer for a TDI. -/
def State.tdispSay (s : State) (part : Nat) (r : TdispResp) : State := s.emit (.tdisp part r)

/-- GET_TDISP_VERSION. -/
def doGetTdispVersion (part : Nat) (s : State) : State := if s.tdiOpen part then s.tdispSay part .version else s

def execGetTdispVersion (part : Nat) (s : State) : Host.Outcome State Fault Refusal := done (doGetTdispVersion part s)

/-- The messages of R395, and no other. -/
def tdispMsgs : List TdispMsg :=
  [.getVersion, .getCapabilities, .lockInterface, .getInterfaceReport, .getInterfaceState, .startInterface, .stopInterface]

/-- GET_TDISP_CAPABILITIES. -/
def doGetTdispCapabilities (part : Nat) (s : State) : State :=
  if s.tdiOpen part then s.tdispSay part (.capabilities tdispMsgs) else s

def execGetTdispCapabilities (part : Nat) (s : State) : Host.Outcome State Fault Refusal :=
  done (doGetTdispCapabilities part s)

/-- GET_DEVICE_INTERFACE_STATE (R396). -/
def doGetDeviceInterfaceState (part : Nat) (s : State) : State :=
  if s.tdiOpen part then s.tdispSay part (.state (s.tdi part)) else s

def execGetDeviceInterfaceState (part : Nat) (s : State) : Host.Outcome State Fault Refusal :=
  done (doGetDeviceInterfaceState part s)

/-- A ring of a function is enabled. -/
def State.ringOn (s : State) (fn : Nat) : Bool := (upFrom 0 16).any fun r => s.flag F.QUE_RING_EN fn r

/-- An HMP_MAP entry in write or read mode names a partition (R354, R355). -/
def State.mapped (s : State) (part : Nat) : Bool :=
  [0, 1].any fun c => (upFrom 0 4096).any fun pg =>
    (s.hmpMapOf F.HMP_MAP_MODE c pg = 1 || s.hmpMapOf F.HMP_MAP_MODE c pg = 2) && decide (s.hmpMapOf F.HMP_MAP_PART c pg = part)

/-- A stream that a TDI can be bound to: selective, limited by the T bit, secure. -/
def State.boundable (s : State) (k : Nat) : Bool :=
  decide (k < 8) && (s.stream k).enabled && (s.stream k).tee && (s.stream k).secure

/-- R397 refuses the lock. -/
def State.lockRefused (s : State) (part stream : Nat) : Bool :=
  !s.partEnabled part || s.resetting part || s.mapped part || s.ringOn (part + 1) || !s.boundable stream

/-- The bytes of a table page as reads under key 0 give them. -/
def State.pageBytes (s : State) (dpa : Nat) : List Byte :=
  match dpaRoute s.part dpa with
  | none => zeros 4096
  | some (ch, off) => (upFrom 0 128).flatMap fun i => s.seen 0 (physKey ch off + 32 * i)

/-- Rewrite a table page of a partition in place under its key, but for a unit that cannot be read (R398 step 3). -/
def State.rewritePage (s : State) (env : Env) (part dpa : Nat) : State :=
  (upFrom 0 64).foldl (fun s u =>
    match s.readUnitDpa env (scrubRq 64) (dpa + 64 * u) with
    | (s, .okay, d) => (s.writeUnitDpa env (scrubRq part) (dpa + 64 * u) d (List.replicate 64 true)).1
    | (s, _, _) => s) s

/-- The lock sequence (R398). -/
def State.lock (s : State) (env : Env) (part stream : Nat) : State :=
  let q := s.sec.drawn + 1
  match s.tree env part with
  | (s, t) =>
    let digest := Config.tableDigest (t.pages.map s.pageBytes) (t.leaves.map fun e => (e.1, 2 ^ pageBits e.2.1, bit e.2.2 1))
    let s := s.withSec fun x => { x with drawn := q, xts := sput 0 x.xts part q, digests := sput [] x.digests part digest }
    let s := t.pages.foldl (fun s p => s.rewritePage env part p) s
    match s.zeroLeaves env (scrubRq part) t.leaves with
    | (s, k) =>
      let s := (s.setFld F.SEC_TDI_STATE 0 part 1).setFld F.SEC_STREAM 0 part stream
      let w := scrubResult t.bad k
      let s := if w = 0 then s else s.secErr 2 part 0 (w >>> 24)
      s.tdispSay part .locked

/-- LOCK_INTERFACE_REQUEST (R396 to R398). -/
def doLockInterfaceRequest (part stream : Nat) (env : Env) (s : State) : State :=
  if !s.tdiOpen part then s
  else if s.tdi part ≠ 0 then s.tdispSay part (.error .invalidInterfaceState)
  else if s.lockRefused part stream then s.tdispSay part (.error .invalidDeviceConfiguration)
  else s.lock env part stream

def execLockInterfaceRequest (part stream : Nat) (env : Env) (s : State) : Host.Outcome State Fault Refusal :=
  done (doLockInterfaceRequest part stream env s)

/-- The device-specific area of the interface report (R399). -/
def State.reportArea (s : State) (part : Nat) : List Byte :=
  let mask := fun (l : List Nat) => l.foldl (fun a p => a + 2 ^ p) 0
  toLe 1 part ++ toLe 1 (s.fld F.SEC_NET_PLAIN 0 part) ++ zeros 6 ++ toLe 8 (mask (s.owned part)) ++ toLe 8 (mask (s.guestOn part))
    ++ fit 48 (sget [] s.sec.digests part) ++ fit 96 (Config.partPub (sget 0 s.sec.xts part))

/-- GET_DEVICE_INTERFACE_REPORT (R399): of a TDI in CONFIG_LOCKED or RUN. -/
def doGetDeviceInterfaceReport (part : Nat) (s : State) : State :=
  if !s.tdiOpen part then s
  else if s.tdi part = 1 ∨ s.tdi part = 2 then
    s.tdispSay part (.report [(0, 0x100000, true), (2, 0x1000000, true)] (s.reportArea part))
  else s.tdispSay part (.error .invalidInterfaceState)

def execGetDeviceInterfaceReport (part : Nat) (s : State) : Host.Outcome State Fault Refusal :=
  done (doGetDeviceInterfaceReport part s)

/-- START_INTERFACE_REQUEST: the queue engine begins fetching for the partition (R396). -/
def doStartInterfaceRequest (part : Nat) (s : State) : State :=
  if !s.tdiOpen part then s
  else if s.tdi part ≠ 1 then s.tdispSay part (.error .invalidInterfaceState)
  else
    let s := s.setFld F.SEC_TDI_STATE 0 part 2
    let s := (upFrom 0 16).foldl (fun s r => s.fetch (part + 1) r) s
    s.tdispSay part .started

def execStartInterfaceRequest (part : Nat) (s : State) : Host.Outcome State Fault Refusal :=
  done (doStartInterfaceRequest part s)

/-- STOP_INTERFACE_REQUEST: the partition reset, whose end answers (R396). -/
def doStopInterfaceRequest (part : Nat) (env : Env) (s : State) : State :=
  if !s.tdiOpen part then s
  else if s.tdi part = 0 then s.tdispSay part .stopped
  else (s.resetTrigger env part 2 false).modReset part fun r => { r with reply := r.phase ≠ 0 }

def execStopInterfaceRequest (part : Nat) (env : Env) (s : State) : Host.Outcome State Fault Refusal :=
  done (doStopInterfaceRequest part env s)

/-! ### The security-version fuses (R391, R410) -/

/-- SEC_SVN_BURN: fuses blow up to the target, never above the running image's version. -/
def doSecSvnBurn (value : Nat) (s : State) : State :=
  if s.fld F.SEC_SVN_IMG 0 0 < value % 256 then s.secErr 4 64 0 0 else
  let v := max s.sec.svn (value % 256)
  (s.withSec fun x => { x with svn := v }).setFld F.SEC_SVN_FUSE 0 0 v

def execSecSvnBurn (value : Nat) (s : State) : Host.Outcome State Fault Refusal := done (doSecSvnBurn value s)

/-! ### Security operations (R407 to R410) -/

/-- The operation of a partition ends with a status. -/
def State.secOpEnd (s : State) (part st : Nat) : State :=
  let s := (s.setFld F.SEC_OP_BUSY (part + 1) 0 0).setFld F.SEC_OP_STATUS (part + 1) 0 st
  if st = 0 then s else s.secErr 3 part 0 st

/-- The operation block is as R409 lays it out. -/
def sopOk (b : List Byte) : Bool :=
  let kind := leAt b 0 1
  (kind = 1 || kind = 2) && decide (leAt b 1 1 < 4) && zeroAt b 2 2 && zeroAt b 24 40 && decide (leAt b 8 8 % 64 = 0)
    && (kind = 1 || decide (leAt b 4 4 % 64 = 0))

/-- A write of SEC_OP_CTRL through a virtual function: SEC_OP_GO runs the block (R409, R410). -/
def State.secOpCtrl (s : State) (env : Env) (fn value : Nat) : State :=
  let part := fn - 1
  if !bit value 0 then s
  else if s.flag F.SEC_OP_BUSY fn 0 then s.secErr 4 part 0 0
  else if s.tdi part ≠ 2 then s.secOpEnd part 2
  else match s.readVa env (otherRq part .plinth) (s.fld F.SEC_OP_VA fn 0 * 64) 64 with
    | (s, r, b) =>
      if r ≠ .okay then s.secOpEnd part 5
      else if !sopOk b then s.secOpEnd part 4
      else (s.setFld F.SEC_OP_BUSY fn 0 1).withSec fun x => { x with ops := sput none x.ops part (some ⟨b, none⟩) }

/-- The block of the operation that runs for a partition and has not ended, of a kind. -/
def State.sop (s : State) (part kind : Nat) : Option (List Byte) :=
  match sget none s.sec.ops part with
  | some o => if o.status = none ∧ leAt o.block 0 1 = kind then some o.block else none
  | none => none

/-- The work of an operation is over. -/
def State.sopOver (s : State) (part : Nat) (b : List Byte) (st : Nat) : State :=
  s.withSec fun x => { x with ops := sput none x.ops part (some ⟨b, some st⟩) }

/-- The magic, version and reserved bytes of a key-release blob (R407). -/
def blobOk (b : List Byte) : Bool :=
  decide (leAt b 0 4 = 0x4B525847) && decide (leAt b 4 1 = 1) && zeroAt b 5 3 && zeroAt b 116 4 && zeroAt b 168 88

/-- KEY_INSTALL: the blob is read, checked and opened (R407). -/
def doKeyInstall (part : Nat) (env : Env) (s : State) : State :=
  match s.sop part 1 with
  | none => s
  | some b =>
    match s.readVa env (otherRq part .plinth) (leAt b 8 8) 256 with
    | (s, r, blob) =>
      if r ≠ .okay then s.sopOver part b 5 else
      match (if blobOk blob then Config.openBlob (sget 0 s.sec.xts part) blob else none) with
      | none => s.sopOver part b 1
      | some key =>
        (s.withSec fun x => { x with slots := sput none x.slots (4 * part + leAt b 1 1) (some (fit 32 key)) }).sopOver part b 0

def execKeyInstall (part : Nat) (env : Env) (s : State) : Host.Outcome State Fault Refusal := done (doKeyInstall part env s)

/-- The header of a segment is as R408 lays it out, and the segment lies within the `left` bytes of source. -/
def segOk (h : List Byte) (left : Nat) : Bool :=
  let n := leAt h 4 4
  decide (leAt h 0 4 = 0x4E495847) && decide (1 ≤ n) && decide (n ≤ 0x4000000) && zeroAt h 28 4 && zeroAt h 48 16
    && decide (64 + 64 * cdiv n 64 ≤ left)

/-- Segments from `src` on, until `left` bytes of source are consumed; the first argument bounds their number. -/
def State.segments (s : State) (env : Env) (part : Nat) (key : List Byte) (dst : Nat) : Nat → Nat → Nat → State × Nat
  | 0, _, _ => (s, 0)
  | n + 1, src, left =>
    if left = 0 then (s, 0) else
    match s.readVa env (otherRq part .plinth) src 64 with
    | (s, r, h) =>
      if r ≠ .okay then (s, 5) else if !segOk h left then (s, 4) else
      let len := leAt h 4 4
      let va := dst + leAt h 8 8
      match s.readVa env (otherRq part .plinth) (src + 64) len with
      | (s, r, ct) =>
        if r ≠ .okay then (s, 5) else
        match Config.gcmOpen key (slice h 16 12) (slice h 0 32) ct (slice h 32 16) with
        | none => ((s.writeVa env (otherRq part .plinth) va (zeros len)).1, 1)
        | some pt =>
          match s.writeVa env (otherRq part .plinth) va (fit len pt) with
          | (s, r) =>
            if r ≠ .okay then (s, 5)
            else s.segments env part key dst n (src + 64 + 64 * cdiv len 64) (left - (64 + 64 * cdiv len 64))

/-- INGEST: segments in order under the named slot's key (R408, R409). -/
def doIngest (part : Nat) (env : Env) (s : State) : State :=
  match s.sop part 2 with
  | none => s
  | some b =>
    match sget none s.sec.slots (4 * part + leAt b 1 1) with
    | none => s.sopOver part b 3
    | some key =>
      match s.segments env part key (leAt b 16 8) (leAt b 4 4 / 64) (leAt b 8 8) (leAt b 4 4) with
      | (s, st) => s.sopOver part b st

def execIngest (part : Nat) (env : Env) (s : State) : Host.Outcome State Fault Refusal := done (doIngest part env s)

/-- SEC_OP_COMPLETE: SEC_OP_STATUS is written (R409, R410). -/
def doSecOpComplete (part : Nat) (s : State) : State :=
  match sget none s.sec.ops part with
  | some ⟨_, some st⟩ => (s.withSec fun x => { x with ops := sput none x.ops part none }).secOpEnd part st
  | _ => s

def execSecOpComplete (part : Nat) (s : State) : Host.Outcome State Fault Refusal := done (doSecOpComplete part s)

end Sys2Proof.Machine
end

