-- ==== Sys2Proof/Machine/Parterre.lean ====
section
/-! DEFINITION. The Parterre controller: the image's fields, its checks in their order, and bringing it into force
(R156 to R163 of spec/06). -/

namespace Sys2Proof.Machine

/-! ### The image (R156, R157) -/

def poolEntOf (b : List Byte) (p : Nat) : PoolEnt :=
  let o := 64 + 8 * p
  ⟨leAt b o 1, leAt b (o + 1) 1, leAt b (o + 2) 1⟩

def basinEntOf (b : List Byte) (i : Nat) : BasinEnt := ⟨leAt b (576 + 4 * i) 1, leAt b (576 + 4 * i + 1) 1⟩

def partRecOf (b : List Byte) (n : Nat) : PartRec :=
  let o := 640 + 32 * n
  { flags := leAt b o 1, wMem := leAt b (o + 1) 1, wNet := leAt b (o + 2) 1, wPcie := leAt b (o + 3) 1,
    wCell := leAt b (o + 4) 1, clp := leAt b (o + 8) 2, aqd := leAt b (o + 12) 4,
    cis := (upFrom 0 4).map fun t => leAt b (o + 16 + 2 * t) 2 }

/-- The fields of an image. -/
def imageOf (b : List Byte) : Image :=
  { serial := leAt b 12 4
    pools := (upFrom 0 64).map (poolEntOf b)
    basins := (upFrom 0 16).map (basinEntOf b)
    parts := (upFrom 0 64).map (partRecOf b)
    pfClp := leAt b 2688 2 }

def Image.pool (x : Image) (p : Nat) : PoolEnt := x.pools.getD p ⟨0xFF, 0xFF, 0⟩
def Image.basin (x : Image) (b : Nat) : BasinEnt := x.basins.getD b ⟨0, 0xFF⟩
def Image.rec_ (x : Image) (n : Nat) : PartRec := x.parts.getD n ⟨0, 0, 0, 0, 0, 0, 0, []⟩

/-- A record enables its partition. -/
def PartRec.on (r : PartRec) : Bool := bit r.flags 0

/-- The quotas of a record are all zero. -/
def PartRec.noQuota (r : PartRec) : Bool := r.clp = 0 && r.aqd = 0 && r.cis.all (· = 0)

/-! ### The checks (R159): each gives the first failing item -/

/-- The first of `n` items, numbered from `base`, that fails. -/
def firstItem (base n : Nat) (bad : Nat → Bool) : Option Nat := ((upFrom 0 n).find? bad).map (base + ·)

/-- A partition ID field out of range. -/
def idBad (x : Nat) : Bool := decide (64 ≤ x) && decide (x ≤ 0xFE)

/-- 0x04 PART. -/
def partItem (p : Part) (b : List Byte) (x : Image) : Option Nat :=
  if leAt b 20 2 ≠ Config.partCode p then some 0xFF
  else match p with
  | .gx4 => none
  | .gx2 =>
    (firstItem 0 64 fun i => decide (32 ≤ i) && !((x.pool i).owner = 0xFF && (x.pool i).guest = 0xFF && (x.pool i).reserve % 4 = 0))
    <|> (firstItem 64 16 fun i => decide (8 ≤ i) && !(x.basin i = ⟨0, 0xFF⟩ && zeroAt b (578 + 4 * i) 2))
    <|> (firstItem 128 64 fun i => (decide (32 ≤ i) && (x.rec_ i).on) || (x.rec_ i).cis.drop 2 ≠ [0, 0])

/-- 0x05 RESERVED. -/
def reservedItem (b : List Byte) (x : Image) : Option Nat :=
  (if zeroAt b 6 2 && zeroAt b 22 42 then none else some 0xFF)
  <|> (firstItem 0 64 fun i => !zeroAt b (67 + 8 * i) 5 || decide (4 ≤ (x.pool i).reserve))
  <|> (firstItem 64 16 fun i => !zeroAt b (578 + 4 * i) 2)
  <|> (firstItem 128 64 fun i =>
        let o := 640 + 32 * i
        decide (2 ≤ (x.rec_ i).flags) || !zeroAt b (o + 5) 3 || !zeroAt b (o + 10) 2 || !zeroAt b (o + 24) 8)
  <|> (if zeroAt b 2690 30 then none else some 0xFF)

/-- 0x06 RANGE. -/
def rangeItem (x : Image) : Option Nat :=
  (firstItem 0 64 fun i => idBad (x.pool i).owner || idBad (x.pool i).guest)
  <|> (firstItem 64 16 fun i => decide (1 < (x.basin i).compose) || idBad (x.basin i).check)
  <|> (firstItem 128 64 fun i =>
        let r := x.rec_ i
        let ws := [r.wMem, r.wNet, r.wPcie, r.wCell]
        decide (1024 < r.clp) || decide (40960 < r.aqd) || r.cis.any (fun q => decide (256 < q))
          || (if r.on then ws.any (· = 0) else ws.any (· ≠ 0) || !r.noQuota))
  <|> (if 1024 < x.pfClp then some 0xFF else none)

/-- The ID names a disabled partition. -/
def Image.offId (x : Image) (n : Nat) : Bool := n ≠ 0xFF && !(x.rec_ n).on

/-- 0x07 PARTITION. -/
def partitionItem (x : Image) : Option Nat :=
  (firstItem 0 64 fun i => x.offId (x.pool i).owner || x.offId (x.pool i).guest)
  <|> (firstItem 128 64 fun i => (x.rec_ i).on && x.pools.all fun e => e.owner ≠ i)

/-- The basin is composed in the image. -/
def Image.isComposed (x : Image) (b : Nat) : Bool := (x.basin b).compose = 1

/-- 0x08 COMPOSE (R19). -/
def composeItem (x : Image) : Option Nat :=
  firstItem 64 16 fun i =>
    let o := (x.pool (4 * i)).owner
    x.isComposed i && (o = 0xFF || (upFrom (4 * i) 4).any fun p => (x.pool p).owner ≠ o)

/-- 0x09 GUEST. -/
def guestItem (x : Image) : Option Nat :=
  firstItem 0 64 fun i =>
    let e := x.pool i
    e.guest ≠ 0xFF && (e.owner = 0xFF || e.guest = e.owner || x.isComposed (i / 4))

/-- 0x0A CLAIM. -/
def claimItem (x : Image) : Option Nat :=
  (firstItem 0 64 fun i => (x.pool i).reserve ≠ 0 && (x.pool i).owner = 0xFF)
  <|> (firstItem 64 16 fun i =>
        x.isComposed i && (upFrom (4 * i) 4).any fun p => (x.pool p).reserve ≠ (x.pool (4 * i)).reserve)

/-- 0x0B CHECKBUF. -/
def checkbufItem (x : Image) : Option Nat :=
  (firstItem 0 64 fun i => (x.pool i).reserve = 1 && (x.basin (i / 4)).check ≠ (x.pool i).owner)
  <|> (firstItem 64 16 fun i =>
        let c := (x.basin i).check
        c ≠ 0xFF && (upFrom (4 * i) 4).all fun p => (x.pool p).reserve ≠ 1 || (x.pool p).owner ≠ c)

/-- Sum of a list. -/
def total (l : List Nat) : Nat := l.foldl (· + ·) 0

/-- 0x0C QUOTA. -/
def quotaItem (x : Image) : Option Nat :=
  (firstItem 192 4 fun t =>
      decide (256 < total (x.parts.map fun r => r.cis.getD t 0)
        + 6 * ((upFrom (4 * t) 4).filter fun b => (x.basin b).check ≠ 0xFF).length))
  <|> (if 1024 < total (x.parts.map (·.clp)) + x.pfClp then some 0xFF else none)
  <|> (if 40960 < total (x.parts.map (·.aqd)) then some 0xFF else none)

/-! ### What the work of the module allows (R160, R161, R400) -/

/-- A pool differs between the image in force and `x`. -/
def State.affected (s : State) (x : Image) (p : Nat) : Bool :=
  s.pte.image.pool p ≠ x.pool p || s.pte.image.basin (p / 4) ≠ x.basin (p / 4)

/-- Idle under R160; a pool that a locked partition owns or shares is not (R400), nor one whose owner's reset has not ended
its step 4 (R379). -/
def State.poolIdle (s : State) (p : Nat) : Bool :=
  let y := s.poolSt p
  s.flag F.POOL_CORE_HALTED 0 p && decide (y.inbox = []) && decide (y.popped = []) && decide (y.queue = [])
    && decide (y.gqueue = []) && decide (y.gwork = none) && decide (y.cpls = [])
    && (upFrom 0 8).all (fun ch => decide (s.dmaRun p ch = none))
    && (((s.owner p).toList ++ (s.guest p).toList).all fun n => decide (s.tdi n = 0))
    && (s.owner p).toList.all fun n => decide ((sget {} s.prt.resets n).phase = 0) || decide (4 < (sget {} s.prt.resets n).phase)

/-- Scheduled events that a partition holds. -/
def State.sevHeld (s : State) (n : Nat) : Nat := (s.clp.sev.filter fun e => e.2.kind ≠ 0 && e.2.owner = n).length

/-- A record that changes leaves room for what the partition holds. -/
def State.recFits (s : State) (x : Image) (n : Nat) : Bool :=
  s.pte.image.rec_ n = x.rec_ n
    || ((upFrom 0 4).all (fun t => decide (s.cisUsed n t ≤ (x.rec_ n).cis.getD t 0))
      && decide (s.sevHeld n ≤ (x.rec_ n).clp))

/-- Quiet under R161. -/
def State.quiet (s : State) (n : Nat) : Bool :=
  (upFrom 0 16).all (fun r => decide (s.fld F.QUE_RING_STATE (n + 1) r = 0)) && decide (s.fld F.QUE_EQ_STATE (n + 1) 0 = 0)
    && s.flowless n && !(s.aqd.regions.any fun e => e.2.part = n && (e.2.state = 1 || e.2.state = 2))
    && (upFrom 0 16).all (fun g => decide (s.grpState n g = 0)) && !s.flag F.UPD_MIR_ENABLE (n + 1) 0
    && (upFrom 0 8192).all (fun i =>
        !(s.fld F.HMP_MAP_PART 0 i = n && (s.fld F.HMP_MAP_MODE 0 i = 1 || s.fld F.HMP_MAP_MODE 0 i = 2)))
    && decide (s.sevHeld n = 0) && (upFrom 0 4).all (fun b => decide (s.fld F.CLP_BAR_STATE (n + 1) b = 0))
    && decide (s.tdi n = 0) && !s.resetting n

/-- 0x0D BUSY. -/
def State.busyItem (s : State) (x : Image) : Option Nat :=
  (firstItem 0 64 fun p => s.affected x p && !s.poolIdle p)
  <|> (firstItem 128 64 fun n =>
        !s.recFits x n || ((s.pte.image.rec_ n).on && !(x.rec_ n).on && !s.quiet n))

/-- The first check that fails, with its item (R159). -/
def State.imageFault (s : State) (b : List Byte) : Option (Nat × Nat) :=
  let x := imageOf b
  let at1 := fun (code : Nat) (o : Option Nat) => o.map fun i => (code, i)
  (if leAt b 0 4 = 0x54505847 && leAt b 4 2 = 1 && leAt b 8 4 = 2720 then none else some (2, 0xFF))
  <|> (if leAt b 16 4 = crc32 (slice b 64 2656) then none else some (3, 0xFF))
  <|> at1 4 (partItem s.part b x) <|> at1 5 (reservedItem b x) <|> at1 6 (rangeItem x) <|> at1 7 (partitionItem x)
  <|> at1 8 (composeItem x) <|> at1 9 (guestItem x) <|> at1 10 (claimItem x) <|> at1 11 (checkbufItem x)
  <|> at1 12 (quotaItem x) <|> at1 13 (s.busyItem x)

/-! ### Bringing an image into force (R162) -/

/-- The watched cell of a basin after a load: kept while the monitor may watch it, and otherwise one of the cells that it
may watch, which the spec does not choose (R134). -/
def State.tamChoose (s : State) (b : Nat) : State :=
  let l := s.tamCells b
  let y := s.tamOf b
  match y.watched with
  | some c => if c ∈ l then s else choose l y
  | none => choose l y
where
  choose (l : List Nat) (y : TamSt) : State :=
    if l = [] then s.setTam b { y with watched := none }
    else (s.setTam b { y with watched := l[s.freeBits 6 % l.length]? }).bump

/-- Bring an image into force. -/
def State.inForce (s : State) (b : List Byte) : State :=
  let x := imageOf b
  let hit := (upFrom 0 (Config.pools s.part)).filter (s.affected x)
  let s := hit.foldl (fun s p =>
    let s := (s.poolReset p true true).dropCaches p
    s.setTam (p / 4) { s.tamOf (p / 4) with sample := none, shadow := [] }) s
  let s := { s with pte := { s.pte with image := x, raw := b } }
  let s := (upFrom 0 (Config.basins s.part)).foldl State.tamChoose s
  let s := (s.setFld F.PTE_IN_FORCE 0 0 1).setFld F.PTE_SERIAL_IN_FORCE 0 0 x.serial
  s

/-- Cistern space that a changed quota grants goes to the buckets that wait for it (R162, R221). -/
def State.cisAll (s : State) (env : Env) : State :=
  (upFrom 0 64).foldl (fun s n => (upFrom 0 (Config.tiers s.part)).foldl (fun s t => s.cisRelease env n t) s) s

/-- A check or load has passed: the result is 0x00, and PTE_FAIL_INDEX, which names a failing item, stays (R159, R162). -/
def State.ptePass (s : State) : State :=
  (({ s with pte := { s.pte with running := none } }).setFld F.PTE_RESULT 0 0 0).setFld F.PTE_BUSY 0 0 0

/-- A check or load ends with the code of a check that failed, and its item (R159). -/
def State.pteReject (s : State) (code item serial : Nat) : State :=
  let s := { s with pte := { s.pte with running := none } }
  (((s.setFld F.PTE_RESULT 0 0 code).setFld F.PTE_FAIL_INDEX 0 0 item).setFld F.PTE_BUSY 0 0 0).pteErr 0 serial code item

/-- PARTERRE_IMAGE_CHECK: the image has been read (R159, R162, R467). -/
def doParterreImageCheck (env : Env) (s : State) : State :=
  match s.pte.running with
  | none => s
  | some checkOnly =>
    match s.readBus env (s.fld F.PTE_IMAGE_BUS 0 0 * 64) 2720 with
    | (s, false, _) => s.pteReject (if s.stopped then 13 else 1) 0xFF 0
    | (s, true, b) =>
      let serial := leAt b 12 4
      if s.stopped then s.pteReject 13 0xFF serial else
      match s.imageFault b with
      | some (code, item) => s.pteReject code item serial
      | none => if checkOnly then s.ptePass else ((s.inForce b).cisAll env).ptePass

def execParterreImageCheck (env : Env) (s : State) : Host.Outcome State Fault Refusal := done (doParterreImageCheck env s)

/-- A write of PTE_CTRL (R159); before READY it completes BUSY (R457, R485). -/
def State.pteCtrl (s : State) (value : Nat) : State :=
  if !bit value 0 && !bit value 1 then s
  else if s.pte.running ≠ none then s.pteErr 1 0 0 0
  else if s.fld F.TOP_STAGE 0 0 ≠ 7 then s.pteReject 13 0xFF 0
  else { s.setFld F.PTE_BUSY 0 0 1 with pte := { s.pte with running := some (bit value 1) } }

/-- PTE_LOAD: the write that sets the load bit alone. -/
def doPteLoad (s : State) : State := s.pteCtrl 1

def execPteLoad (s : State) : Host.Outcome State Fault Refusal := done (doPteLoad s)

/-- PTE_CHECK_ONLY: the write that sets the check bit, with or without the load bit. -/
def doPteCheckOnly (load : Bool) (s : State) : State := s.pteCtrl (2 + b2n load)

def execPteCheckOnly (load : Bool) (s : State) : Host.Outcome State Fault Refusal := done (doPteCheckOnly load s)

end Sys2Proof.Machine
end

