-- ==== Sys2Proof/Machine/Weir.lean ====
section
/-! DEFINITION. The Weir (spec/18): its clock and totals, its records and log, commits under hold-up, the commands the
plinth carries to it, its seal, and its power. -/

namespace Sys2Proof.Machine

/-- Update the Weir. -/
def State.withWeir (s : State) (f : WeirSt → WeirSt) : State := { s with weir := f s.weir }

/-- The link between the plinth and the Weir is up. -/
def State.weirLink (s : State) : Bool := s.flag F.WEIR_LINK 0 0

/-- An error of the Weir's registers (R427): status for causes 0 and 2, sequence number for causes 1 and 4. -/
def State.weirErr (s : State) (b seq part : Nat) : State :=
  s.errOne .weirErrSts .weirErrFirst b
    (pack [(F.WEIR_EF_SEQ, if b = 1 ∨ b = 4 then seq else 0),
      (F.WEIR_EF_STATUS, if b = 0 ∨ b = 2 then s.fld F.WEIR_CMD_STATUS 0 0 else 0), (F.WEIR_EF_PART, part),
      (F.WEIR_EF_VALID, 1), (F.WEIR_EF_CAUSE, b)]) 0 0

/-- An error that the Weir reports: over the link, or once it returns (R426). -/
def State.weirSays (s : State) (b seq part : Nat) : State :=
  if s.weirLink then s.weirErr b seq part else s.withWeir fun w => { w with late := w.late ++ [(b, seq, part)] }

/-! ### Clock and totals (R412 to R414) -/

/-- Pools whose owner the Weir last heard to be `part`. -/
def WeirSt.poolsOf (w : WeirSt) (part : Nat) : Nat := (w.owners.filter (· = part)).length

/-- Weir time and the totals move on to the command's time: energy, and the occupancy of the open sessions. -/
def WeirSt.advance (w : WeirSt) (i : WeirIn) : WeirSt :=
  { w with wtime := w.wtime + i.ms, energy := (w.energy + i.mj) % two64, holdup := i.uj, power := i.dw, jumper := i.jumper,
           sessions := w.sessions.map fun x => { x with occ := x.occ + i.ms * w.poolsOf x.part } }

/-- Records committed and not acknowledged, and those that wait, against the 4096 of the log (R421). -/
def WeirSt.room (w : WeirSt) : Nat := 4096 - (w.log.length + w.waiting.length)

/-- The registers as the Weir reports them while its link is up (R426). -/
def State.weirShow (s : State) : State :=
  if !s.weirLink then s else
  let w := s.weir
  let s := (s.setFld F.WEIR_SEAL_FITTED 0 0 (b2n w.jumper)).setFld F.WEIR_FAULT 0 0 (b2n w.fault)
  let s := (s.setFld F.WEIR_PENDING 0 0 w.waiting.length).setFld F.WEIR_SEAL_COUNT 0 0 w.sealCount
  let oldest := ((w.log.map (·.1)) ++ w.waiting.map (·.seq)).headD w.nextSeq
  let s := (s.setFld F.WEIR_LOG_NEXT 0 0 w.nextSeq).setFld F.WEIR_LOG_OLDEST 0 0 oldest
  let s := (s.setFld F.WEIR_LOG_READ 0 0 w.highRead).setFld F.WEIR_ENERGY 0 0 w.energy
  (s.setFld F.WEIR_HOLDUP 0 0 (satTo 0xFFFF w.holdup)).setFld F.WEIR_POWER_DW 0 0 w.power

/-- The Weir's own time moves on; nothing does while it is not powered. -/
def State.weirTime (s : State) (i : WeirIn) : State := s.withWeir fun w => if w.powered then w.advance i else w

/-! ### Records (R418, R421, R424) -/

/-- The 160 bytes of a record. -/
def weirRecord (seq kind part sealN session flags wtime ctime energy occ : Nat) (digest : List Byte) : List Byte :=
  let b := toLe 4 seq ++ toLe 1 kind ++ toLe 1 part ++ toLe 2 sealN ++ toLe 4 session ++ toLe 4 flags ++ toLe 8 wtime
    ++ toLe 8 ctime ++ toLe 8 energy ++ toLe 8 occ ++ fit 16 digest
  b ++ fit 96 (Config.weirSign (Config.sha384 b))

/-- Does R421 let a record of this kind be created? -/
def WeirSt.mayCreate (w : WeirSt) (kind : Nat) : Bool :=
  kind = 3 || decide (w.sessions.length + (if kind = 1 then 4 else 1) ≤ w.room)

/-- The oldest waiting INTERVAL record whose commit has not started (R424). -/
def WeirSt.spare (w : WeirSt) : Option WeirRec :=
  (if w.commit.isSome then w.waiting.drop 1 else w.waiting).find? fun r => r.kind = 2

/-- Append a record to those that wait; `gap` and the session fill its fields. False when a ninth would wait and no
INTERVAL record can make room (R424). -/
def State.weirRecordNew (s : State) (kind part : Nat) (x : Option WeirSession) (gap : Bool) (digest : List Byte) : State × Bool :=
  let w := s.weir
  let full := decide (8 ≤ w.waiting.length)
  if full && w.spare.isNone then (s, false) else
  let s := match (if full then w.spare else none) with
    | some r => (s.withWeir fun w => { w with waiting := w.waiting.erase r }).weirSays 4 r.seq r.part
    | none => s
  let seq := w.nextSeq
  let down := !s.weirLink
  let flags := b2n gap + 2 * b2n ((x.map (·.link)).getD false) + 4 * b2n w.jumper
  let b := weirRecord seq kind (if x.isSome then part else 0xFF) w.sealCount ((x.map (·.number)).getD 0) flags w.wtime
    (if down then 0 else s.ns) w.energy ((x.map (·.occ)).getD 0) digest
  (s.withWeir fun w => { w with
    nextSeq := seq + 1
    waiting := w.waiting ++ [⟨seq, kind, part, b⟩]
    sessions := w.sessions.map fun y => if x.isSome && y.part = part then { y with link := down } else y }, true)

/-! ### Commits (R422 to R424) -/

/-- WEIR_DEFERRED: its event, now or when the link returns. -/
def State.weirDeferred (s : State) (r : WeirRec) : State :=
  let d := toLe 1 r.kind ++ toLe 1 r.part ++ toLe 4 r.seq ++ toLe 4 2000 ++ toLe 4 s.weir.holdup
  let s := s.weirSays 1 r.seq r.part
  if s.weirLink then s.eventPf 0x0805 d
  else s.withWeir fun w => { w with held := w.held.or (some d) }

/-- Start the commit of the oldest waiting record, or defer it (R423). -/
def State.weirCommit (s : State) : State :=
  let w := s.weir
  match w.waiting with
  | [] => s
  | r :: _ =>
    if w.commit.isSome || w.fault || !w.powered then s
    else if 3600 ≤ w.holdup then s.withWeir fun w => { w with commit := some 0, deferring := false }
    else if w.deferring then s
    else (s.withWeir fun w => { w with deferring := true }).weirDeferred r

/-- The oldest waiting record is committed. -/
def WeirSt.committed (w : WeirSt) : WeirSt :=
  match w.waiting with
  | [] => w
  | r :: rest =>
    { w with
      waiting := rest, commit := none, log := w.log ++ [(r.seq, r.bytes)]
      newest := some (r.kind, leAt r.bytes 16 8, leAt r.bytes 32 8)
      sessions := w.sessions.map fun x =>
        if r.kind ≤ 3 && x.part = r.part then { x with savedOcc := leAt r.bytes 40 8 } else x }

/-- COMMIT_RETRY: a deferred commit is tried again (R423). -/
def doCommitRetry (w : WeirIn) (s : State) : State := ((s.weirTime w).weirCommit).weirShow

def execCommitRetry (w : WeirIn) (s : State) : Host.Outcome State Fault Refusal := done (doCommitRetry w s)

/-- COMMIT_DONE: the record has been written and read back; a second failure is the fault state (R424). -/
def doCommitDone (ok : Bool) (w : WeirIn) (s : State) : State :=
  match s.weir.commit with
  | none => s
  | some k =>
    let s := s.weirTime w
    let s :=
      if ok then (s.withWeir WeirSt.committed).weirCommit
      else if k = 0 then s.withWeir fun w => { w with commit := some 1 }
      else (s.withWeir fun w => { w with commit := none, fault := true }).weirSays 5 0 0
    s.weirShow

def execCommitDone (ok : Bool) (w : WeirIn) (s : State) : Host.Outcome State Fault Refusal := done (doCommitDone ok w s)

/-! ### The commands (R416, R417, R419, R420, R422, R426) -/

/-- A write of WEIR_CMD: the plinth carries the command to the Weir (R426). -/
def State.weirCtrl (s : State) (value : Nat) : State :=
  let op := bits value 3 0
  let part := bits value 13 8
  if s.flag F.WEIR_BUSY 0 0 then s.weirErr 0 0 part else
  let s := s.setFld F.WEIR_CMD_PART 0 0 part
  if op = 0 ∨ 7 < op then s.weirErr 0 0 part
  else if !s.weirLink then s.setFld F.WEIR_CMD_STATUS 0 0 9
  else (s.setFld F.WEIR_BUSY 0 0 1).withWeir fun w => { w with order := some ⟨op, part, s.fld F.WEIR_ARG 0 0⟩ }

/-- The Weir runs the command `op` that it holds: `f` answers a state and the status. -/
def State.weirRun (s : State) (i : WeirIn) (op : Nat) (f : WeirOrder → State → State × Nat) : State :=
  match s.weir.order with
  | none => s
  | some o =>
    if o.op ≠ op ∨ !s.weir.powered then s else
    let s := s.weirTime i
    match (if s.weir.fault && op ≠ 3 && op ≠ 5 then (s, 8) else f o s) with
    | (s, st) =>
      let s := s.withWeir fun w => { w with order := none }
      let s := ((s.setFld F.WEIR_BUSY 0 0 0).setFld F.WEIR_CMD_STATUS 0 0 st)
      let s := if op = 1 ∧ st = 1 then s.weirErr 2 0 o.part else s
      s.weirCommit.weirShow

/-- The open session of a partition. -/
def WeirSt.session (w : WeirSt) (part : Nat) : Option WeirSession := w.sessions.find? fun x => x.part = part

/-- OPEN (R420, R421). -/
def weirOpenBody (o : WeirOrder) (s : State) : State × Nat :=
  if Config.parts s.part ≤ o.part then (s, 3)
  else if (s.weir.session o.part).isSome then (s, 2)
  else if !s.weir.mayCreate 1 then (s, 1)
  else
    let x : WeirSession := { part := o.part, number := s.weir.nextSession + 1, since := s.weir.wtime }
    match s.weirRecordNew 1 o.part (some x) false [] with
    | (s, false) => (s, 7)
    | (s, true) => (s.withWeir fun w => { w with nextSession := x.number, sessions := w.sessions ++ [x] }, 0)

/-- WEIR_OPEN. -/
def doWeirOpen (w : WeirIn) (s : State) : State := s.weirRun w 1 weirOpenBody

def execWeirOpen (w : WeirIn) (s : State) : Host.Outcome State Fault Refusal := done (doWeirOpen w s)

/-- CLOSE (R420, R421). -/
def weirCloseBody (o : WeirOrder) (s : State) : State × Nat :=
  if Config.parts s.part ≤ o.part then (s, 3) else
  match s.weir.session o.part with
  | none => (s, 2)
  | some x =>
    match s.weirRecordNew 3 o.part (some x) false [] with
    | (s, false) => (s, 7)
    | (s, true) => (s.withWeir fun w => { w with sessions := w.sessions.filter fun y => y.part ≠ o.part }, 0)

/-- WEIR_CLOSE. -/
def doWeirClose (w : WeirIn) (s : State) : State := s.weirRun w 2 weirCloseBody

def execWeirClose (w : WeirIn) (s : State) : Host.Outcome State Fault Refusal := done (doWeirClose w s)

/-- Load WEIR_RECORD. -/
def State.weirLoad (s : State) (b : List Byte) : State :=
  (upFrom 0 40).foldl (fun s i => s.setFld F.WEIR_RECORD 0 i (leAt b (4 * i) 4)) s

/-- READ (R422). -/
def weirReadBody (o : WeirOrder) (s : State) : State × Nat :=
  let n := o.arg % 2 ^ 32
  match s.weir.log.find? fun e => e.1 = n with
  | none => (s, 6)
  | some e => ((s.withWeir fun w => { w with highRead := max w.highRead n }).weirLoad e.2, 0)

/-- WEIR_READ. -/
def doWeirRead (w : WeirIn) (s : State) : State := s.weirRun w 3 weirReadBody

def execWeirRead (w : WeirIn) (s : State) : Host.Outcome State Fault Refusal := done (doWeirRead w s)

/-- ACK (R422). -/
def weirAckBody (o : WeirOrder) (s : State) : State × Nat :=
  let n := o.arg % 2 ^ 32
  if s.weir.highRead < n then (s, 6)
  else (s.withWeir fun w => { w with log := w.log.filter fun e => n < e.1 }, 0)

/-- WEIR_ACK. -/
def doWeirAck (w : WeirIn) (s : State) : State := s.weirRun w 4 weirAckBody

def execWeirAck (w : WeirIn) (s : State) : Host.Outcome State Fault Refusal := done (doWeirAck w s)

/-- READ_KEY (R419). -/
def doReadKey (w : WeirIn) (s : State) : State := s.weirRun w 5 fun _ s => (s.weirLoad (fit 96 Config.weirKey), 0)

def execReadKey (w : WeirIn) (s : State) : Host.Outcome State Fault Refusal := done (doReadKey w s)

/-- The header checks that a Weir image takes of R391 (R390, R416). -/
def weirImageOk (h body : List Byte) (magic : Nat) : Bool :=
  decide (leAt h 0 4 = magic) && decide (leAt h 4 2 = 1) && decide (leAt h 6 1 = 0) && zeroAt h 12 4 && zeroAt h 208 48
    && decide (Config.sha384 (slice h 16 96) = Config.weirRoot)
    && Config.ecdsaOk (slice h 16 96) (Config.sha384 (slice h 0 112 ++ body)) (slice h 112 96)

/-- FW_LOAD and CAL_LOAD: an image is read, checked, and accepted under the seal (R416, R417, R421). -/
def State.weirImage (s : State) (env : Env) (o : WeirOrder) (fw : Bool) : State × Nat :=
  let w := s.weir
  if !w.jumper ∨ w.sealCount = 0xFFFF then (s, 4) else
  match s.readBus env o.arg 256 with
  | (s, okH, h) =>
    let len := leAt h 8 4
    if !okH ∨ o.arg % 64 ≠ 0 ∨ (if fw then 0x40000 < len ∨ len % 4096 ≠ 0 else len ≠ 4096) then (s, 5) else
    match s.readBus env (o.arg + 256) len with
    | (s, okB, body) =>
      if !okB ∨ !weirImageOk h body (if fw then 0x45575847 else 0x4C435847) then (s, 5)
      else if !w.mayCreate 6 then (s.weirSays 4 w.nextSeq 0, 1)
      else
        let d := Config.sha384 body
        let s1 := s.withWeir fun w => { w with sealCount := w.sealCount + 1 }
        match s1.weirRecordNew 6 0 none false d with
        | (_, false) => (s, 7)
        | (s, true) => (s.withWeir fun w => if fw then { w with nextFw := some d } else { w with calDigest := d }, 0)

/-- FW_LOAD. -/
def doFwLoad (w : WeirIn) (env : Env) (s : State) : State := s.weirRun w 6 fun o s => s.weirImage env o true

def execFwLoad (w : WeirIn) (env : Env) (s : State) : Host.Outcome State Fault Refusal := done (doFwLoad w env s)

/-- CAL_LOAD. -/
def doCalLoad (w : WeirIn) (env : Env) (s : State) : State := s.weirRun w 7 fun o s => s.weirImage env o false

def execCalLoad (w : WeirIn) (env : Env) (s : State) : Host.Outcome State Fault Refusal := done (doCalLoad w env s)

/-! ### What the Weir does by itself -/

/-- INTERVAL_RECORD: a period of an open session has passed (R420, R421). -/
def doIntervalRecord (part : Nat) (w : WeirIn) (s : State) : State :=
  if !s.weir.powered then s else
  let s := s.weirTime w
  let period := s.fld F.WEIR_INTERVAL_MIN 0 0 * 60000
  match s.weir.session part with
  | none => s.weirShow
  | some x =>
    if period = 0 ∨ s.weir.wtime < x.since + period then s.weirShow else
    let s := s.withWeir fun w => { w with sessions := w.sessions.map fun y => if y.part = part then { y with since := y.since + period } else y }
    let seq := s.weir.nextSeq
    if !s.weir.mayCreate 2 then (s.weirSays 4 seq part).weirShow else
    match s.weirRecordNew 2 part (some x) false [] with
    | (s, true) => s.weirCommit.weirShow
    | (s, false) => (s.weirSays 4 seq part).weirShow

def execIntervalRecord (part : Nat) (w : WeirIn) (s : State) : Host.Outcome State Fault Refusal := done (doIntervalRecord part w s)

/-- OWNER_MESSAGE: the owner of every pool, as the image in force gives it, from the message's Weir time on (R413). -/
def doOwnerMessage (w : WeirIn) (s : State) : State :=
  if !s.weir.powered ∨ !s.weirLink then s else
  let s := s.weirTime w
  (s.withWeir fun x => { x with owners := (upFrom 0 (Config.pools s.part)).map fun p => (s.owner p).getD 0xFF }).weirShow

def execOwnerMessage (w : WeirIn) (s : State) : Host.Outcome State Fault Refusal := done (doOwnerMessage w s)

/-- The link goes down: every pool counts as unassigned, and a command that runs ends with LINK (R413, R426). -/
def State.weirUnlink (s : State) : State :=
  if !s.weirLink then s else
  let s := if s.flag F.WEIR_BUSY 0 0 then (s.setFld F.WEIR_BUSY 0 0 0).setFld F.WEIR_CMD_STATUS 0 0 9 else s
  let s := s.withWeir fun x => { x with owners := [], order := none, sessions := x.sessions.map fun y => { y with link := true } }
  (s.setFld F.WEIR_LINK 0 0 0).weirErr 3 0 0

/-- WEIR_LINK_DOWN. -/
def doWeirLinkDown (w : WeirIn) (s : State) : State := (s.weirTime w).weirUnlink

def execWeirLinkDown (w : WeirIn) (s : State) : Host.Outcome State Fault Refusal := done (doWeirLinkDown w s)

/-- The link comes up: what was held is delivered (R424, R426). -/
def State.weirRelink (s : State) : State :=
  if s.weirLink ∨ !s.weir.powered then s else
  let s := s.setFld F.WEIR_LINK 0 0 1
  let late := s.weir.late
  let held := s.weir.held
  let s := s.withWeir fun x => { x with late := [], held := none }
  let s := late.foldl (fun s e => s.weirErr e.1 e.2.1 e.2.2) s
  let s := match held with
    | some d => s.eventPf 0x0805 d
    | none => s
  s.weirShow

/-- WEIR_LINK_UP. -/
def doWeirLinkUp (w : WeirIn) (s : State) : State := (s.weirTime w).weirRelink

def execWeirLinkUp (w : WeirIn) (s : State) : Host.Outcome State Fault Refusal := done (doWeirLinkUp w s)

/-- Commit the waiting records in order while the capacitor allows each (R423, R425); the first argument bounds them. -/
def WeirSt.flush : Nat → WeirSt → WeirSt
  | 0, w => w
  | n + 1, w =>
    if w.waiting = [] ∨ w.fault ∨ w.holdup < 3600 then w
    else WeirSt.flush n { w.committed with holdup := w.holdup - 2000 }

/-- STANDBY_LOSS: the commit under way ends, POWER_LOSS is created and committed if it can be, and the Weir halts; the
management endpoint goes with the rail (R425, R494). -/
def doStandbyLoss (w : WeirIn) (s : State) : State :=
  let s := { s with top := { s.top with standby := false }, mgmt := {} }
  if !s.weir.powered then s else
  let s := s.weirTime w
  let s := if s.weir.commit.isSome then s.withWeir WeirSt.committed else s
  let seq := s.weir.nextSeq
  let s := if !s.weir.mayCreate 5 then s.weirSays 4 seq 0 else
    match s.weirRecordNew 5 0 none false [] with
    | (s, true) => s
    | (s, false) => s.weirSays 4 seq 0
  (s.withWeir fun x => { WeirSt.flush 9 x with powered := false, waiting := [], commit := none, deferring := false }).weirUnlink

def execStandbyLoss (w : WeirIn) (s : State) : Host.Outcome State Fault Refusal := done (doStandbyLoss w s)

/-- WEIR_POWER_UP: totals and Weir time from the newest committed record, each open session's occupancy from its own,
and a POWER_UP record (R414, R417, R425). -/
def doWeirPowerUp (w : WeirIn) (s : State) : State :=
  if s.weir.powered ∨ !s.top.standby then s else
  let n := s.weir.newest
  let s := s.withWeir fun x => { x with
    powered := true, fault := false, highRead := 0, owners := [], order := none
    holdup := w.uj, power := w.dw, jumper := w.jumper
    wtime := (n.map (·.2.1)).getD 0, energy := (n.map (·.2.2)).getD 0
    fwDigest := x.nextFw.getD x.fwDigest, nextFw := none
    sessions := x.sessions.map fun y => { y with occ := y.savedOcc, since := min y.since ((n.map (·.2.1)).getD 0), link := true } }
  let seq := s.weir.nextSeq
  if !s.weir.mayCreate 4 then s.weirSays 4 seq 0 else
  match s.weirRecordNew 4 0 none ((n.map (·.1)) ≠ some 5) [] with
  | (s, true) => s.weirCommit
  | (s, false) => s.weirSays 4 seq 0

def execWeirPowerUp (w : WeirIn) (s : State) : Host.Outcome State Fault Refusal := done (doWeirPowerUp w s)

end Sys2Proof.Machine
end

