-- ==== Sys2Proof/Machine/Bringup.lean ====
section
/-! DEFINITION. Bring-up and the four resets (spec/23), the boot ROM's checks (R390, R391 of spec/17), the two power inputs
and the reset pins (spec/24), and configuration requests. -/

namespace Sys2Proof.Machine

/-! ### The boot ROM (R390, R391) -/

/-- Offsets of the two image copies in boot flash (R390). -/
def copyA : Nat := 0
def copyB : Nat := 0x02000000

/-- Bytes of boot flash; one that nothing has written reads as zero (log entry 36). -/
def State.flashRun (s : State) (o n : Nat) : List Byte := sgetRun 0 s.sec.flash o n

/-- Bytes that outside tools have written into boot flash (R390, R483). -/
def State.flashWrite (s : State) (l : List (Nat × List Byte)) : State :=
  s.withSec fun x => { x with flash := l.foldl (fun m e => sputRun 0 m e.1 e.2) x.flash }

/-- The header of the copy at `base`, and the digest of its body (R390, R393). -/
def State.copyHead (s : State) (base : Nat) : List Byte := s.flashRun base 256
def State.copyDigest (s : State) (base : Nat) : List Byte :=
  Config.sha384 (s.flashRun (base + 256) (leAt (s.copyHead base) 8 4))

/-- The first check of R391 that the copy at `base` fails; 0 when it passes. -/
def State.romCheck (s : State) (base : Nat) : Nat :=
  let c := s.copyHead base
  let len := leAt c 8 4
  if leAt c 0 4 ≠ 0x4D495847 ∨ leAt c 4 2 ≠ 1 ∨ len % 4096 ≠ 0 ∨ 0x1FFF000 < len ∨ !zeroAt c 12 4 ∨ !zeroAt c 208 48
      ∨ 3 < leAt c 6 1 ∨ 64 < leAt c 7 1 then 1
  else if leAt c 6 1 ∈ s.sec.revoked then 2
  else if Config.sha384 (slice c 16 96) ≠ sget [] s.sec.roots (leAt c 6 1) then 3
  else if leAt c 7 1 < s.sec.svn then 4
  else if Config.ecdsaOk (slice c 16 96) (Config.sha384 (slice c 0 112 ++ s.flashRun (base + 256) len)) (slice c 112 96) then 0 else 5

/-- SEC_BOOT and the module's identity for the copy that runs (R391, R392). -/
def State.romAccept (s : State) (base result : Nat) : State :=
  let c := s.copyHead base
  let s := s.setRegN .secBoot 0 0 (pack [(F.SEC_SVN_FUSE, s.sec.svn), (F.SEC_SVN_IMG, leAt c 7 1), (F.SEC_BOOT_RESULT, result),
    (F.SEC_BOOT_SLOT, leAt c 6 1), (F.SEC_DEBUG, b2n s.sec.debug), (F.SEC_BOOT_COPY, b2n (base = copyB))])
  s.dice (s.copyDigest base) (leAt c 7 1)

/-! ### The stages of R482, R483 -/

/-- Bring-up goes no further, at a stage. -/
def State.bootStop (s : State) (stage : Nat) : State :=
  ({ s with top := { s.top with boot := 0 } }).setStage stage

/-- READY (R482). -/
def State.ready (s : State) : State :=
  ({ s with top := { s.top with boot := 0, stopped := false, scrubs := [] } }).setStage 7

/-- Every half of external memory as its first zero write leaves it: zero bytes in plaintext under fresh check bytes. What an
upset had left is gone (R176, R482). -/
def State.zeroed (s : State) : State :=
  { s with mem := [], sec := { s.sec with halfKey := [] }
           memc := { s.memc with words := s.memc.words.map fun e => (e.1, { e.2 with errs := [] }) } }

/-- Scrub a partition whose TDI was locked, from the table root it had, and destroy its keys (R489). -/
def State.bootScrub (s : State) (env : Env) (n root : Nat) : State :=
  match State.treeWalk env (scrubWalkRq n) 4 root 0 (s, {}) with
  | (s, t) =>
    let s := s.withSec fun x => { x with xts := sput 0 x.xts n 0 }
    match s.zeroLeaves env (scrubRq 64) t.leaves with
    | (s, k) => let w := scrubResult t.bad k; if w = 0 then s else s.secErr 2 n 0 (w >>> 24)

/-- Every channel in self-refresh leaves it, as training begins (R166, R488). -/
def State.memoryWakes (s : State) : State :=
  (upFrom 0 (Config.channels s.part)).foldl (fun s ch =>
    if (s.chan ch).selfRefresh then (s.setChan ch { s.chan ch with selfRefresh := false }).emit (.dram ch .selfRefreshExit)
    else s) s

/-- The stage that runs ends (R482, R483, R488, R489). -/
def State.nextStage (s : State) (b : BootIn) (env : Env) : State :=
  match s.fld F.TOP_STAGE 0 0 with
  | 1 =>
    let s := s.flashWrite b.flash
    let a := s.romCheck copyA
    if a = 0 then (s.romAccept copyA 0).weirRelink.setStage 3
    else if s.romCheck copyB = 0 then (s.romAccept copyB a).weirRelink.setStage 3
    else (s.setRegN .secBoot 0 0 (pack [(F.SEC_SVN_FUSE, s.sec.svn), (F.SEC_BOOT_RESULT, a), (F.SEC_DEBUG, b2n s.sec.debug)])).bootStop 2
  | 3 => if s.top.airflow then s.setStage 4 else s.setStage 10
  | 4 =>
    let s := s.trainLinks b
    if s.failed then s.bootStop 9 else
    let s := s.showIdentity b
    if s.flag F.LNK_DIAG 0 0 then s.bootStop 8 else s.setStage 5
  | 5 =>
    let s := s.memoryWakes
    match (upFrom 0 (Config.channels s.part)).filter (· ∈ b.badChannels) with
    | ch :: _ =>
      let c := s.chan ch
      ((((s.setChan ch { c with failed := true }).memErr 5 0 64 ch).failModule 3 ch)).bootStop 9
    | [] => if s.top.boot = 1 ∨ s.top.scrubs ≠ [] then s.setStage 6 else s.ready
  | 6 =>
    if s.top.boot = 1 then s.zeroed.ready
    else (s.top.scrubs.foldl (fun s e => s.bootScrub env e.1 e.2) s).ready
  | _ => s

/-- BRINGUP_STAGE_ADVANCE. -/
def doBringupStageAdvance (b : BootIn) (env : Env) (s : State) : State :=
  if s.top.boot = 0 ∨ !s.top.p54v then s
  else (s.setFld F.TOP_BOOT_MS 0 0 (satTo 0xFFFF b.ms)).nextStage b env

def execBringupStageAdvance (b : BootIn) (env : Env) (s : State) : Host.Outcome State Fault Refusal :=
  done (doBringupStageAdvance b env s)

/-! ### Cold start (R482, R486, R487, R495) -/

/-- The block with everything outside the standby domain as a cold reset leaves it: registers at reset, links untrained,
the Weir's link down; external memory stays until stage 6 zeroes it. -/
def State.cold (s : State) (stage cause : Nat) : State :=
  let s := s.weirUnlink
  let fresh : State := { State.reset with
    part := s.part, pending := s.pending, emitted := s.emitted, free := s.free, mem := s.mem
    top := { s.top with stopped := true, boot := b2n (stage = 1), waits := none, scrubs := [] }
    clp := { clk10m := s.clp.clk10m }
    sec := { flash := s.sec.flash, uds := s.sec.uds, drawn := s.sec.drawn, svn := s.sec.svn, revoked := s.sec.revoked, roots := s.sec.roots, debug := s.sec.debug
             halfKey := s.sec.halfKey, nextSession := s.sec.nextSession }
    weir := s.weir, mgmt := s.mgmt }
  let fresh := (upFrom 0 16).foldl (fun t i => t.setRegN .lnkState 0 i 0) fresh
  let fresh := (fresh.setRegN .weirStatus 0 0 0).setRegN .secBoot 0 0 0
  let fresh := fresh.setFld F.PWR_BRAKE_ON 0 0 (s.fld F.PWR_BRAKE_ON 0 0)
  let fresh := fresh.setRegN .topBoot 0 0 (pack [(F.TOP_STAGE, stage), (F.TOP_LAST_RESET, cause)])
  if s.fld F.TOP_STAGE 0 0 = stage then fresh else fresh.stateSensor 0 stage

/-! ### Warm and module resets (R487 to R491) -/

/-- Registers that a warm or module reset keeps beside the ERR_STS and ERR_FIRST pairs: identity, boot, the Weir's, the
die links' and the performance counters'. -/
def keptRegs : List Reg :=
  [.topPartId, .topHier, .topFail, .topBoot, .secBoot, .secConf, .weirStatus, .weirCmd, .weirArg, .weirLog, .weirLogRead,
   .weirEnergy, .weirPower, .weirCfg, .weirRecord, .lnkCtrl, .lnkIdent, .lnkState, .pmcCtrl, .pmcSnapStamp, .pmcTagCtrl,
   .pmcTagSeed, .pmcTagBus, .pmcTagIdx, .pmcTagLost, .pmcSel, .queCapLink]

/-- Registers that a module reset keeps further: the ports', the Clepsydra's, the power loop's, and HMP_EN with its
channel's registers. -/
def moduleRegs : List Reg :=
  [.macPortCfg, .macFilter, .macFcCtrl, .macFcWd, .macLpiCtrl, .macLpiSts, .macTsMiss, .clpTime, .clpTimeFrac, .clpCtrl, .clpLoop,
   .clpSet, .clpStatus, .clpOffset, .clpFreq, .clpPortLat, .clpPtpSrcip, .clpSnapTime, .clpSnapCtrl, .hmpChCtrl, .hmpChSts,
   .hmpChDrain, .pwrCtrl, .pwrCap, .pwrStatus, .pwrPower, .pwrTemp, .pwrTherm]

/-- The register file after a warm (`module` false) or module reset: what R487 keeps. -/
def State.keptFile (s : State) (module : Bool) : List (Nat × RegWord) :=
  s.regs.filter fun e =>
    match regOf e.1 with
    | none => false
    | some r => r ∈ errRegs || r ∈ keptRegs || (module && decide (r ∈ moduleRegs))

/-- The window of a Host Memory Port channel is discarded (R487). -/
def HmpChan.emptied (x : HmpChan) : HmpChan :=
  { rows := x.rows, modeRegs := x.modeRegs, setPoint := x.setPoint, powerDown := x.powerDown, selfRefresh := x.selfRefresh }

/-- What a module reset leaves of a logical port: what does not belong to Aqueduct (R487). -/
def LpSt.withoutFlows (x : LpSt) : LpSt :=
  let whole := fun (t : TxItem) => match t.what with
    | .whole f => (match f.body with | .aqd _ => false | _ => true)
    | .seq _ _ _ => false
  { x with txq := x.txq.filter whole, tags := [], vnow := 0 }

/-- The Clepsydra after a warm reset: only time counts on. -/
def ClpSt.restarted (c : ClpSt) : ClpSt := { time := c.time, ticks := c.ticks, clk10m := c.clk10m, ppsHigh := false }

/-- The Clepsydra after a module reset: the entries of partitions are removed. -/
def ClpSt.moduleReset (c : ClpSt) : ClpSt :=
  { c with sev := c.sev.filter fun e => decide (64 ≤ e.2.owner), barriers := [] }

/-- The block after QUIESCE (R487). SR-IOV keeps its fields but in a PCIe reset. -/
def State.quiesced (s : State) (module sriov : Bool) : State :=
  let t : State := { State.reset with
    part := s.part, pending := s.pending, emitted := s.emitted, free := s.free, mem := s.mem
    regs := s.keptFile module
    top := s.top
    prt := if sriov then {} else { vfEnable := s.prt.vfEnable, numVfs := s.prt.numVfs, cfg := s.prt.cfg }
    memc := { nextId := s.memc.nextId, words := s.memc.words
              chans := (s.memc.chans.filter fun e => e.2.selfRefresh).map fun e => (e.1, { selfRefresh := true }) }
    que := { woCount := s.que.woCount, linkUp := s.que.linkUp }
    pmc := s.pmc
    clp := if module then s.clp.moduleReset else s.clp.restarted
    hmp := if module then { chans := s.hmp.chans.map fun e => (e.1, e.2.emptied) } else {}
    mac := if module then { lps := s.mac.lps.map fun e => (e.1, e.2.withoutFlows) } else {}
    sec := { s.sec with digests := [], slots := [], ops := [], broken := []
                        streams := if module then s.sec.streams else []
                        sessions := if module then s.sec.sessions else []
                        spdm := if module then s.sec.spdm else []
                        chunkIn := [], chunkOut := [] }
    weir := s.weir
    pwr := if module then { s.pwr with ran := [] } else { alert := s.pwr.alert }
    lnk := s.lnk, mgmt := s.mgmt }
  let t := (upFrom 0 64).foldl (fun t n => (t.setFld F.SEC_TDI_STATE 0 n 0).setFld F.SEC_STREAM 0 n 0) t
  let t := (t.setFld F.TOP_FAILED 0 0 0).setFld F.LNK_DIAG 0 0 0
  let t := (t.setFld F.PWR_AIRFLOW_STATE 0 0 0).setFld F.PWR_TRIPPED 0 0 0
  let t := (t.setFld F.PWR_BRAKE_ON 0 0 (s.fld F.PWR_BRAKE_ON 0 0)).showLimit
  (upFrom 0 2).foldl (fun t c =>
    ((t.setFld F.HMP_CH_DRAINING 0 c 0).setFld F.HMP_CH_FILL_DONE 0 c 0).setFld F.HMP_CH_FILL_PENDING 0 c 0) t

/-- Partitions whose TDI is not CONFIG_UNLOCKED, with their table roots, and those of a scrub that has not run (R489). -/
def State.toScrub (s : State) : List (Nat × Nat) :=
  let now := ((upFrom 0 64).filter fun n => s.tdi n ≠ 0 && s.flag F.MEM_PT_EN 0 n).map fun n => (n, s.fld F.MEM_PT_DPA 0 n <<< 12)
  now ++ s.top.scrubs.filter fun e => now.all fun x => x.1 ≠ e.1

/-- QUIESCE begins (R488). -/
def State.quiesce (s : State) (env : Env) (kind cause : Nat) : State :=
  let s := { s with top := { s.top with stopped := true, boot := kind, waits := none, scrubs := s.toScrub } }
  let s := (upFrom 0 (Config.channels s.part)).foldl (fun s ch => s.chanRest env ch) s
  ((s.setFld F.TOP_LAST_RESET 0 0 cause).setFld F.TOP_BOOT_MS 0 0 0).setStage 11

/-- A reset begins: 1 cold, 2 warm, 3 module; a weaker one than the one that runs or waits is ignored (R486, R491). -/
def State.resetBegin (s : State) (env : Env) (kind cause : Nat) : State :=
  let runs := if s.top.boot ≠ 0 then s.top.boot else (s.top.waits.map (·.1)).getD 0
  if !s.top.p54v ∨ (runs ≠ 0 ∧ runs < kind) then s
  else if kind = 1 then s.cold 1 cause
  else if s.fld F.TOP_STAGE 0 0 < 3 then s
  else if !s.top.airflow then ({ s with top := { s.top with waits := some (kind, cause), boot := 0, stopped := true } }).setStage 10
  else s.quiesce env kind cause

/-- QUIESCE_END: a warm reset restarts the firmware, a module reset goes on with the tier rails (R488). -/
def doQuiesceEnd (s : State) : State :=
  if s.fld F.TOP_STAGE 0 0 ≠ 11 ∨ s.top.boot < 2 then s else
  let module := decide (s.top.boot = 3)
  let cause := s.fld F.TOP_LAST_RESET 0 0
  let s := s.quiesced module (cause = 3 || cause = 5)
  if !module then s.setStage 3 else if s.top.airflow then s.setStage 4 else s.setStage 10

def execQuiesceEnd (s : State) : Host.Outcome State Fault Refusal := done (doQuiesceEnd s)

/-! ### The triggers (R486) -/

/-- MOD_RESET_N has been low for 1 ms. -/
def doModResetN (env : Env) (s : State) : State := s.resetBegin env 1 1

def execModResetN (env : Env) (s : State) : Host.Outcome State Fault Refusal := done (doModResetN env s)

/-- PERST_N has been low for 100 µs: a warm reset; the link is down. -/
def doPerstN (env : Env) (s : State) : State :=
  ({ s with top := { s.top with perst := false }, que := { s.que with linkUp := false } }).resetBegin env 2 3

def execPerstN (env : Env) (s : State) : Host.Outcome State Fault Refusal := done (doPerstN env s)

/-- PERST_N_RISE: the link may train (R484). -/
def doPerstNRise (s : State) : State := { s with top := { s.top with perst := true } }

def execPerstNRise (s : State) : Host.Outcome State Fault Refusal := done (doPerstNRise s)

/-- A write of TOP_RST_CTRL: the strongest bit applies (R486). -/
def State.rstCtrl (s : State) (env : Env) (value : Nat) : State :=
  if bit value 2 then s.resetBegin env 1 2
  else if bit value 1 then s.resetBegin env 2 4
  else if bit value 0 then s.resetBegin env 3 6
  else s

/-- TOP_RST_COLD. -/
def doTopRstCold (value : Nat) (env : Env) (s : State) : State := s.rstCtrl env (setBits value 2 2 1)

def execTopRstCold (value : Nat) (env : Env) (s : State) : Host.Outcome State Fault Refusal := done (doTopRstCold value env s)

/-- TOP_RST_WARM. -/
def doTopRstWarm (value : Nat) (env : Env) (s : State) : State := s.rstCtrl env (setBits value 1 1 1)

def execTopRstWarm (value : Nat) (env : Env) (s : State) : Host.Outcome State Fault Refusal := done (doTopRstWarm value env s)

/-- TOP_RST_MODULE. -/
def doTopRstModule (value : Nat) (env : Env) (s : State) : State := s.rstCtrl env (setBits value 0 0 1)

def execTopRstModule (value : Nat) (env : Env) (s : State) : Host.Outcome State Fault Refusal := done (doTopRstModule value env s)

/-- PF_FLR: a Function Level Reset of the physical function (R373, R486). -/
def doPfFlr (env : Env) (s : State) : State := s.resetBegin env 3 5

def execPfFlr (env : Env) (s : State) : Host.Outcome State Fault Refusal := done (doPfFlr env s)

/-- A ring of the physical function is dropped without records and without CleanEvict (R490). -/
def State.dropRing (s : State) (r : Nat) : State :=
  let g := s.ring 0 r
  let s := s.setRing 0 r { g with fetched := [], reading := [], rereads := 0, stale := 0, lineHeld := false, lineReading := false }
  if r = 16 then (s.setFld F.QUE_EQ_EN 0 0 0).setFld F.QUE_EQ_STATE 0 0 0
  else (s.setFld F.QUE_RING_EN 0 r 0).ringSettle 0 r

/-- LINK_RESET (R487, R490, R491). -/
def doLinkReset (env : Env) (s : State) : State :=
  if !s.top.perst ∨ s.top.boot = 1 ∨ s.top.boot = 2 then s else
  let bound := (upFrom 0 64).filter fun n => s.tdi n = 1 || s.tdi n = 2
  let s : State := (upFrom 0 17).foldl (fun (s : State) r => s.dropRing r) s
  let s := ((s.linkHold.vfClear env true).cfgReset fun _ => true)
  let s := s.withSec fun x => { x with
    streams := [], sessions := x.sessions.filter fun y => y.transport ≠ 0
    spdm := sput 0 x.spdm 0 0, chunkIn := sput [] x.chunkIn 0 [], chunkOut := sput [] x.chunkOut 0 [] }
  let s := bound.foldl (fun (s : State) n => s.tdiError env n) s
  let s : State := { s with que := { s.que with linkUp := false } }
  if s.top.boot = 0 then s.setFld F.TOP_LAST_RESET 0 0 7 else s

def execLinkReset (env : Env) (s : State) : Host.Outcome State Fault Refusal := done (doLinkReset env s)

/-! ### The inputs (R481, R482, R495) -/

/-- STANDBY_POWER_UP: the management endpoint starts; the module's cold start follows when the 54 V input is good. -/
def doStandbyPowerUp (s : State) : State :=
  let s := { s with top := { s.top with standby := true }, mgmt := {} }
  if s.top.p54v then s.cold 1 0 else s

def execStandbyPowerUp (s : State) : Host.Outcome State Fault Refusal := done (doStandbyPowerUp s)

/-- P54V_GOOD: cold bring-up, once the standby rail is good. -/
def doP54vGood (s : State) : State :=
  if s.top.p54v then s else
  let s := { s with top := { s.top with p54v := true } }
  if s.top.standby then s.cold 1 0 else s

def execP54vGood (s : State) : Host.Outcome State Fault Refusal := done (doP54vGood s)

/-- P54V_LOSS: everything outside the standby domain is lost at once (R495). -/
def doP54vLoss (s : State) : State :=
  if !s.top.p54v then s else
  let s := { s.zeroed with top := { s.top with p54v := false } }
  { s.cold 0 0 with que := {} }

def execP54vLoss (s : State) : Host.Outcome State Fault Refusal := done (doP54vLoss s)

/-- AIRFLOW_RESTORE: the pin rises; a reset that waits runs, and a held bring-up goes on (R443, R483, R491). -/
def doAirflowRestore (env : Env) (s : State) : State :=
  let s := { s with top := { s.top with airflow := true } }
  match s.top.waits with
  | some (k, c) => s.quiesce env k c
  | none =>
    if s.fld F.TOP_STAGE 0 0 = 10 ∧ s.top.boot ≠ 0 then s.setStage 4 else s

def execAirflowRestore (env : Env) (s : State) : Host.Outcome State Fault Refusal := done (doAirflowRestore env s)

/-! ### Pins (R496) -/

/-- What the module puts on an output pin; MOD_TYPE and MOD_PRSNT_N need no rail. -/
def State.pinLevel (s : State) : Pin → PinLevel
  | .clkPpsOut => if s.clp.ppsHigh then .high else .low
  | .thermAlert => if s.pwr.alert then .low else .open_
  | .modPrsnt => .ground
  | .modType => match s.part with
    | .gx4 => .ground
    | .gx2 => .open_

/-! ### Configuration requests (R304, R305, R368, R484) -/

/-- A field of the SR-IOV capability, in the order of R368's table. -/
def State.sriov (s : State) (k : Nat) : Nat :=
  match k with
  | 0 => b2n s.prt.vfEnable
  | 1 => s.prt.numVfs
  | 2 | 3 => Config.parts s.part
  | 4 | 5 | 6 => 1
  | _ => 0

/-- Enable virtual functions; clearing VF Enable resets their partitions (R373). -/
def State.setVfEnable (s : State) (env : Env) (on : Bool) : State :=
  if on then { s with prt := { s.prt with vfEnable := true } } else s.vfClear env false

/-- A capability is announced: those of R304, R305, R368 and R395; every other is absent (R14). -/
def capPresent (fn : Nat) : Capability → Bool
  | .aer | .msix | .ari | .flr | .flitMode | .tags14 | .tdisp => true
  | .sriov | .doe | .ide | .cxlIo | .cxlCache => fn = 0
  | .aspm | .l1Substates | .l0p | .ats | .pri | .pasid | .atomicOps | .tph | .ltr | .resizableBar | .idOrdering | .noSnoop
  | .vfMigration | .cxlMem | .hdmDecoders | .backInvalidation => false

/-- A BAR of a virtual function (R305, R368). -/
def vfBar : Nat → Nat
  | 0 => 0x100000 + 1
  | 2 => 0x1000000 + 1 + 2
  | _ => 0

/-- A BAR of the physical function (R8, R305). -/
def pfBar : Nat → Nat
  | 0 => 0x4000000 + 1
  | _ => 0

/-- What a field of a configuration space reads (R304, R305, R328, R368). -/
def State.cfgGet (s : State) (fn : Nat) : CfgField → Nat
  | .present c => b2n (capPresent fn c)
  | .maxRate => 128
  | .maxWidth => 16
  | .payloadSupported => 512
  | .payload => 128 * 2 ^ (s.cfg fn).payload
  | .readRequest => 128 * 2 ^ (s.cfg fn).readReq
  | .powerState => if (s.cfg fn).d3 then 3 else 0
  | .msixSize => 64
  | .msixTable => 0x12000
  | .msixPba => 0x12800
  | .msixEnable => b2n (s.cfg fn).msixEn
  | .msixMask => b2n (s.cfg fn).fnMask
  | .bar n => if fn = 0 then pfBar n else vfBar n
  | .vfBar n => if fn = 0 then vfBar n else 0
  | .ariHierarchy => b2n (fn = 0 && (s.cfg 0).ari)

/-- The control fields of a configuration space after a write: one of a value that R304 does not list, of a fixed field, or of
the payload and request sizes, which are the physical function's, through a virtual function changes nothing (log entry 39). -/
def CfgSt.set (c : CfgSt) (fn v : Nat) : CfgField → CfgSt
  | .payload => match ([128, 256, 512] : List Nat).idxOf? v with
    | some k => if fn = 0 then { c with payload := k } else c
    | none => c
  | .readRequest => match ([128, 256, 512, 1024, 2048, 4096] : List Nat).idxOf? v with
    | some k => if fn = 0 then { c with readReq := k } else c
    | none => c
  | .powerState => if v = 0 then { c with d3 := false } else if v = 3 then { c with d3 := true } else c
  | .msixEnable => { c with msixEn := bit v 0 }
  | .msixMask => { c with fnMask := bit v 0 }
  | .ariHierarchy => if fn = 0 then { c with ari := bit v 0 } else c
  | .present _ | .maxRate | .maxWidth | .payloadSupported | .msixSize | .msixTable | .msixPba | .bar _ | .vfBar _ => c

/-- Write a field of a configuration space; messages that waited for MSI-X Enable, Function Mask or D0 are then sent (R328).
While a reset that a Function Level Reset began runs, the fields stay at their reset values (R377). -/
def State.cfgSet (s : State) (fn v : Nat) (f : CfgField) : State :=
  if fn ≠ 0 ∧ s.resetting (fn - 1) ∧ (sget {} s.prt.resets (fn - 1)).trigger = 1 then s else
  let s := { s with prt := { s.prt with cfg := sput {} s.prt.cfg fn ((s.cfg fn).set fn v f) } }
  (upFrom 0 64).foldl (fun s k => s.msixFlush fn k) s

/-- CONFIG_REQUEST: Request Retry Status until the configuration space answers (R484). What other registers of a
configuration space read, the spec does not state: a free value (log entry 3). -/
def doConfigRequest (fn : Nat) (req : CfgReq) (env : Env) (s : State) : State :=
  let stage := s.fld F.TOP_STAGE 0 0
  if !s.top.p54v ∨ !s.top.perst then s
  else if stage ≠ 2 ∧ stage < 3 then s.emit (.config fn none)
  else if fn ≠ 0 ∧ !s.vfExists fn then s.emit (.unsupported fn 0)
  else
    match req with
    | .get f => s.emit (.config fn (some (s.cfgGet fn f)))
    | .set f v => (s.cfgSet fn v f).emit (.config fn (some 0))
    | .sriov k => s.emit (.config fn (some (if fn = 0 then s.sriov k else 0)))
    | .read _ => (s.emit (.config fn (some (s.freeBits 32)))).bump
    | .write _ _ => s.emit (.config fn (some 0))
    | .vfEnable on => (if fn = 0 then s.setVfEnable env on else s).emit (.config fn (some 0))
    | .ideStream k enable tee =>
      let x := s.stream k
      let x := if enable then { x with enabled := true, tee := tee } else {}
      (if fn = 0 ∧ k < 9 then s.setStream k x else s).emit (.config fn (some 0))

def execConfigRequest (fn : Nat) (req : CfgReq) (env : Env) (s : State) : Host.Outcome State Fault Refusal :=
  done (doConfigRequest fn req env s)

end Sys2Proof.Machine
end

