-- ==== Sys2Proof/Machine/Bar.lean ====
section
/-! DEFINITION. The BAR0 space: where each register lies in the space of each function, what a read completes with, and
what a write does, whether it stores fields by their type codes (R8 to R11) or starts what its chapter says. -/

namespace Sys2Proof.Machine

/-! ### Where a register lies -/

/-- The instance of a register that covers offset `o` of its space, and the byte within it. -/
def RegSpec.hit (r : RegSpec) (o : Nat) : Option (Nat × Nat) :=
  if o < r.off then none else
  let d := o - r.off
  let i := if r.n1 = 1 then 0 else d / r.s1
  let d := d - i * r.s1
  let j := if r.n2 = 1 then 0 else d / r.s2
  let b := d - j * r.s2
  if i < r.n1 ∧ j < r.n2 ∧ b < r.bytes then some (i * r.n2 + j, b) else none

/-- The register of a list that covers an offset: register, instance, byte within it. -/
def regAt (l : List Reg) (o : Nat) : Option (Reg × Nat × Nat) :=
  l.findSome? fun r => ((regSpec r).hit o).map fun h => (r, h)

/-- A register reached: its name, the view and instance under which it is held, and the byte of it that the offset
names. -/
structure Place where
  reg : Reg
  view : Nat
  inst : Nat
  byte : Nat
  deriving DecidableEq, Repr

/-- The part has this instance: the GX2-768 lacks the registers of the units it lacks (R3, R9), and a logical port that
does not exist reads zero (R267's chapter). -/
def State.present (s : State) (r : Reg) (i : Nat) : Bool :=
  match r with
  | .memPtRoot | .prtState | .prtAdmit | .secConf => decide (i < Config.parts s.part)
  | .memEccCount => decide (i < Config.channels s.part)
  | .pmcCell | .pmcCellSh => decide (i < 4 * Config.cells s.part)
  | .lnkState => linkExists s.part (i / 2)
  | .macFilter => s.lpExists (i / 16)
  | .macFcCtrl | .macFcWd | .macLpiCtrl | .macLpiSts | .macTsMiss => s.lpExists i
  | _ => true

/-- A register of the function's own map, under the view that its scope gives (R48, R90). -/
def State.ownPlace (s : State) (fn off : Nat) : Option Place :=
  match regAt barRegs off with
  | none => none
  | some (r, i, b) =>
    let reached := match (regSpec r).scope with
      | .all | .each => true
      | .vf => fn ≠ 0
      | .pf => fn = 0
      | _ => false
    let v := if (regSpec r).scope = .each ∨ (regSpec r).scope = .vf then fn else 0
    if reached && s.present r i then some ⟨r, v, i, b⟩ else none

/-- The view under which a register of a pool's page is held: only its error registers differ between views (R90). -/
def poolView (r : Reg) (fn : Nat) : Nat := if r = .poolErrSts ∨ r = .poolErrFirst then fn else 0

/-- A register of the page of pool `p`; `fn` is the function through whose view it is seen. -/
def State.poolPlace (s : State) (fn p o : Nat) : Option Place :=
  if Config.pools s.part ≤ p then none else
  (regAt poolRegs o).map fun (r, i, b) => ⟨r, poolView r fn, (regSpec r).n1 * p + i, b⟩

/-- A register of a DMA channel's block. -/
def dmaPlace (p ch o : Nat) : Option Place := (regAt dmaRegs o).map fun (r, _, b) => ⟨r, 0, dmaKey p ch, b⟩

/-- The register at an offset of a function's BAR0 space: the pages of R146, the guest channels of R335, or the map. -/
def State.place (s : State) (fn off : Nat) : Option Place :=
  if fn = 0 ∧ 0x100000 ≤ off ∧ off < 0x140000 then s.poolPlace 0 ((off - 0x100000) / 4096) (off % 4096)
  else if fn ≠ 0 ∧ 0x8000 ≤ off ∧ off < 0x10000 then
    let p := (off - 0x8000) / 512
    if s.owner p = some (fn - 1) then s.poolPlace fn p (off % 512) else none
  else if fn ≠ 0 ∧ 0x24000 ≤ off ∧ off < 0x28000 then
    let p := (off - 0x24000) / 256
    if s.guest p = some (fn - 1) then dmaPlace p (6 + off / 128 % 2) (off % 128) else none
  else s.ownPlace fn off

/-! ### Which registers answer -/

/-- The block of a register, as TOP_ERR_SUM numbers them. -/
def blockAt (fn off : Nat) : Nat :=
  if fn = 0 ∧ 0x100000 ≤ off ∧ off < 0x140000 then 3
  else if fn ≠ 0 ∧ 0x8000 ≤ off ∧ off < 0x10000 then 3
  else match off / 0x10000 with
    | 0 => 0
    | 1 => 13
    | 2 => 14
    | 3 => 1
    | 4 => 2
    | 5 => if off < 0x51000 then 4 else 5
    | 6 => 7
    | 7 => 6
    | 8 => 8
    | 9 => 9
    | 0xA => 10
    | 0xB => 11
    | 0xC => 12
    | 0xD => 15
    | 0xE => 16
    | 0xF => 17
    | 0x14 => 18
    | 0x15 => 19
    | 0x18 => 15
    | _ => 20

/-- The registers that the module's state lets answer: none before the link's stage, three of them after a failed boot
(R483, R484), four blocks and PTE in the diagnostic-only state (R457), none of the tier blocks while their rails are
down (R442), and through a virtual function whose partition is disabled or resetting only three (R369, R377). -/
def State.answers (s : State) (fn off : Nat) (r : Reg) : Bool :=
  let stage := s.fld F.TOP_STAGE 0 0
  let b := blockAt fn off
  if stage = 2 then r = .topPartId || r = .topBoot || r = .secBoot
  else if stage < 2 then false
  else if stage = 8 ∧ !(b ∈ ([0, 7, 16, 18, 19] : List Nat)) then false
  else if s.top.stopped ∧ stage ≠ 11 ∧ b ∈ ([2, 3, 8, 9, 14] : List Nat) then false
  else s.fnOpen fn || r = .topPartId || r = .topHier || r = .prtStatus

/-- A BAR claims the offset: the PCIe link is up, the function exists and is in D0, and the offset lies within its BAR0 (R8,
R9, R304, R484). -/
def State.decodes (s : State) (fn off : Nat) : Bool :=
  decide (2 ≤ s.fld F.TOP_STAGE 0 0) && !(s.cfg fn).d3 && if fn = 0 then decide (off < 0x4000000) else s.vfExists fn && decide (off < 0x100000)

/-- An access of a size and alignment that R9 accepts. -/
def sizeOk (off size : Nat) : Bool := (size = 4 || size = 8) && off % size = 0

/-! ### Reads -/

/-- A clamp that a field's table states for reading. -/
def clampRead (r : Reg) (w : Nat) : Nat :=
  let atLeast := fun (w hi lo n : Nat) => if bits w hi lo = 0 then setBits w hi lo n else w
  let within := fun (w hi lo a b : Nat) => setBits w hi lo (max a (min b (bits w hi lo)))
  match r with
  | .staTableLen | .tamTableLen => min 65536 w
  | .tamCtrl => within (within w 29 24 1 32) 12 8 4 16
  | .memPatrolCtrl => atLeast w 15 0 1
  | .updMirCtrl => atLeast w 31 16 1
  | .aqdCcCtrl => atLeast w 7 0 1
  | .aqdCcRate => atLeast w 15 0 1
  | .aqdCcProbe => atLeast w 15 0 1000
  | .aqdRtoCtrl => atLeast (atLeast w 31 24 1) 11 0 1
  | .aqdRgnSlots => min 0x1000000 w
  | .macFcCtrl => atLeast w 15 0 1
  | .macFcWd => atLeast (atLeast w 31 16 1) 15 0 1
  | .macLpiCtrl => atLeast w 31 16 1
  | .clpCtrl => within w 23 20 0 7
  | .pwrCtrl => within w 6 4 0 6
  | .pwrTherm => within (within w 15 8 0 95) 7 0 0 100
  | .lnkCtrl => atLeast w 31 16 1
  | .pmcTagCtrl => within (within w 12 8 4 20) 19 16 0 9
  | _ => w

/-- The stored bits of a register that a read shows: its write-only and reserved bits read zero (R10, R11). -/
def readMask (r : Reg) (w : Nat) : Nat :=
  (regSpec r).flds.foldl (fun a f => if f.ty = .wo then a else a + at_ f.lo (bits w f.hi f.lo)) 0

/-- Some ERR_STS of the block is set in a view: the bits of TOP_ERR_SUM in order. -/
def State.errSum (s : State) (fn : Nat) : Nat :=
  let on := fun (r : Reg) => decide (s.regN r fn 0 ≠ 0)
  let pool := (upFrom 0 (Config.pools s.part)).any fun p =>
    (fn = 0 || s.owner p = some (fn - 1)) && s.regN .poolErrSts fn p ≠ 0
  let l : List Bool := [on .topErrSts, on .prtErrSts, on .celErrSts, pool, on .staErrSts, on .tamErrSts, on .memErrSts,
    on .pteErrSts, on .updErrSts, on .casErrSts, on .aqdErrSts, on .macErrSts, on .clpErrSts, on .queErrSts,
    on .dmaErrSts, on .hmpErrSts, on .secErrSts, on .weirErrSts, on .pwrErrSts, on .lnkErrSts]
  (upFrom 0 20).foldl (fun a i => a + at_ i (b2n (l.getD i false))) 0

/-- POOL_ID of a pool. -/
def State.poolIdWord (s : State) (p : Nat) : Nat :=
  let who := fun (o : Option Nat) => o.getD 0
  pack [(F.POOL_RESERVE, (s.poolEnt p).reserve), (F.POOL_LEAD, b2n (s.composed (p / 4) && p % 4 = 0)),
    (F.POOL_COMPOSED, b2n (s.composed (p / 4))), (F.POOL_GUEST_VALID, b2n (s.guest p).isSome),
    (F.POOL_GUEST, who (s.guest p)), (F.POOL_OWNER_VALID, b2n (s.owner p).isSome), (F.POOL_OWNER, who (s.owner p)),
    (F.POOL_INDEX, p)]

/-- PRT_PHASE as it reads: 7 while the partition is disabled. -/
def State.phaseOf (s : State) (n : Nat) : Nat :=
  if s.resetting n then s.fld F.PRT_PHASE 0 n else if s.partEnabled n then 0 else 7

/-- Scheduled-event entries in use, of every owner (R302). -/
def State.sevInUse (s : State) : Nat := (s.clp.sev.filter fun e => e.2.kind ≠ 0).length

/-- A register as a read finds it. -/
def State.regRead (s : State) (fn : Nat) (r : Reg) (view i : Nat) : Nat :=
  let w := readMask r (s.regN r view i)
  match r with
  | .topErrSum => s.errSum fn
  | .prtState => setBits w 2 0 (s.phaseOf i)
  | .prtStatus => s.phaseOf (fn - 1)
  | .casCisUse => (upFrom 0 4).foldl (fun a t => a + at_ (16 * t) (s.cisUse fn t % 65536)) 0
  | .aqdTrkFree => s.trackerFree
  | .clpTime => s.ns
  | .clpStatus => setBits (setBits w 31 30 (s.fld F.CLP_STATE 0 0)) 26 16 (if fn = 0 then s.sevInUse else s.sevUsed (fn - 1))
  | .pwrCap => setBits (setBits (clampRead r w) 26 16 (s.capW F.PWR_BRAKE_W)) 10 0 (s.capW F.PWR_CAP_W)
      |> fun w => if bits w 31 28 = 0 then setBits w 31 28 1 else w
  | .poolId => s.poolIdWord i
  | .poolIrqSts => s.irqSts i
  | .pmcGen => sget 0 s.pmc.gen i
  | .pmcGenSh => sget 0 s.pmc.genSh i
  | .pmcPort => sget 0 s.pmc.port i
  | .pmcPortSh => sget 0 s.pmc.portSh i
  | .pmcCell => sget 0 s.pmc.cell i
  | .pmcCellSh => sget 0 s.pmc.cellSh i
  | _ => clampRead r w

/-- The 16 bytes of a scheduled-event entry as a number (R293). -/
def sevWord (e : SevEnt) : Nat := e.time + at_ 64 e.kind + at_ 72 e.owner + at_ 80 e.ref + at_ 96 (e.aux % 2 ^ 32)

/-- Four bytes at an aligned offset. -/
def State.word (s : State) (fn off : Nat) : Nat :=
  if fn = 0 ∧ 0xC1000 ≤ off ∧ off < 0xC5000 then
    if s.answers fn off .clpTime then (sevWord (sget {} s.clp.sev ((off - 0xC1000) / 16)) >>> (8 * (off % 16))) % 2 ^ 32 else 0
  else match s.place fn off with
    | none => 0
    | some k =>
      if s.answers fn off k.reg then (s.regRead fn k.reg k.view k.inst >>> (8 * k.byte)) % 2 ^ 32 else 0

/-- What a read of BAR0 completes with: zero for an access of another size or alignment and where no register lies; one that
no BAR claims has no data and completes as an Unsupported Request (R9). A read of CLP_TIME latches CLP_TIME_FRAC besides,
which is CLP_TIME_READ. -/
def State.barRead (s : State) (fn off size : Nat) : Option Nat :=
  if !s.decodes fn off then none
  else if !sizeOk off size then some 0
  else if size = 4 then some (s.word fn off)
  else some (s.word fn off + s.word fn (off + 4) * 2 ^ 32)

/-! ### Writes -/

/-- A field after a write of `w` to the bits of `m`, by its type code (R10). -/
def FldSpec.write (f : FldSpec) (old w m : Nat) : Nat :=
  let o := bits old f.hi f.lo
  let x := bits w f.hi f.lo
  let k := bits m f.hi f.lo
  match f.ty with
  | .rw => (o ^^^ (o &&& k)) ||| (x &&& k)
  | .w1c => o ^^^ (o &&& (x &&& k))
  | .w1s => o ||| (x &&& k)
  | .ro | .roSt | .wo => o

/-- A register after a write of `w` to the bits of `m`: every field by its type code, and no other bit (R10, R11). -/
def writeFlds (r : Reg) (old w m : Nat) : Nat :=
  (regSpec r).flds.foldl (fun a f => setBits a f.hi f.lo (f.write old w m)) old

/-- The ERR_FIRST register beside an ERR_STS register. -/
def errFirstOf : Reg → Option Reg
  | .topErrSts => some .topErrFirst
  | .queErrSts => some .queErrFirst
  | .dmaErrSts => some .dmaErrFirst
  | .prtErrSts => some .prtErrFirst
  | .celErrSts => some .celErrFirst
  | .staErrSts => some .staErrFirst
  | .tamErrSts => some .tamErrFirst
  | .pteErrSts => some .pteErrFirst
  | .memErrSts => some .memErrFirst
  | .updErrSts => some .updErrFirst
  | .casErrSts => some .casErrFirst
  | .aqdErrSts => some .aqdErrFirst
  | .macErrSts => some .macErrFirst
  | .clpErrSts => some .clpErrFirst
  | .hmpErrSts => some .hmpErrFirst
  | .secErrSts => some .secErrFirst
  | .weirErrSts => some .weirErrFirst
  | .pwrErrSts => some .pwrErrFirst
  | .lnkErrSts => some .lnkErrFirst
  | .poolErrSts => some .poolErrFirst
  | _ => none

/-- A register without a behaviour of its own stores the write (R10). -/
def State.store (s : State) (r : Reg) (view i w m : Nat) : State :=
  s.setRegN r view i (writeFlds r (s.regN r view i) w m)

/-- A write of AQD_FLOW_CMD (R263). -/
def State.flowCmd (s : State) (env : Env) (vf w : Nat) : State :=
  if s.flag F.AQD_FLOW_BUSY vf 0 then s.aqdErr 0 (vf - 1) 0 0 else
  let s := s.setFld F.AQD_FLOW_RUN vf 0 (bits w 17 16)
  match bits w 2 0 with
  | 1 => doAlloc vf (bits w 17 16) s
  | 2 => doConnect vf env s
  | 3 => doClose vf env s
  | 4 => doQuery vf env s
  | _ => s.aqdErr 0 (vf - 1) 0 0

/-- A write of AQD_RGN_CMD (R263). -/
def State.rgnCmd (s : State) (vf w : Nat) : State :=
  if s.flag F.AQD_RGN_BUSY vf 0 then s.aqdErr 0 (vf - 1) 0 0 else
  let s := s.setFld F.AQD_RGN_PERM vf 0 (bits w 9 8)
  match bits w 2 0 with
  | 1 => doRegister vf (bits w 9 8) s
  | 2 => doRevoke vf s
  | 3 => doRegionQuery vf s
  | _ => s.aqdErr 0 (vf - 1) 0 0

/-- A write of TAM_CTRL: the chain counts of the function's claiming basins start at zero when TAM_ENABLE is set
(R135). -/
def State.tamCtrl (s : State) (fn w m : Nat) : State :=
  let was := s.flag F.TAM_ENABLE fn 0
  let s := s.store .tamCtrl fn 0 w m
  if s.flag F.TAM_ENABLE fn 0 && !was then
    ((upFrom 0 (Config.basins s.part)).filter fun b =>
      decide ((s.pte.image.basins.getD b ⟨0, 0xFF⟩).check ∈ s.governed fn)).foldl
      (fun (s : State) b => s.setTam b { s.tamOf b with n := 0 }) s
  else s

/-- A W1C write of an ERR_STS register; TOP_FAIL_CAUSE and TOP_FAIL_INFO clear with the physical function's
TOP_E_FAILED (R90, R467). -/
def State.errWrite (s : State) (r first : Reg) (view i w : Nat) : State :=
  let s := s.errClear r first w view i
  if r = .topErrSts ∧ view = 0 ∧ bit w 1 then (s.setFld F.TOP_FAIL_CAUSE 0 0 0).setFld F.TOP_FAIL_INFO 0 0 0 else s

/-- A write of a register of a DMA channel: one that runs refuses all but its control register (R336). -/
def State.dmaWrite (s : State) (env : Env) (r : Reg) (i w m : Nat) : State :=
  let p := i / 8
  let ch := i % 8
  if r = .dmaChCtrl then (if s.stopped then s else s.dmaCtrl env p ch w)
  else match s.dmaRun p ch, s.dmaOwner p ch with
    | some _, some (part, _) => s.dmaErr 0 part p ch 0
    | _, _ => s.store r 0 i w m

/-- A write of POOL_CORE_CTRL (R149). -/
def State.coreCtrl (s : State) (p w : Nat) : State := if bit w 0 then s.coreStart p else doPoolCoreStop p s

/-- A write of `w` to the bits `m` of instance `i` of a register, seen through function `fn`. A register of two words
whose other half is not written is offered the value it holds there. -/
def State.regWrite (s : State) (env : Env) (fn : Nat) (r : Reg) (view i w m : Nat) : State :=
  let old := s.regN r view i
  let v := (old ^^^ (old &&& m)) ||| (w &&& m)
  match errFirstOf r with
  | some first => s.errWrite r first view i (w &&& m)
  | none =>
  match r with
  | .topRstCtrl => s.rstCtrl env w
  | .queRingCtrl => s.ringCtrl env fn i w
  | .queEqCtrl => s.ringCtrl env fn 16 w
  | .queDb => doQueDb fn i w s
  | .queEqDb => doQueEqDb fn w s
  | .msixCtrl => if bit w 0 then s.store r view i w m else doMsixUnmask fn i s
  | .prtRstCtrl => s.prtCtrl env w
  | .staCloseStep => doStaCloseStep fn w s
  | .staLedgerCtrl => s.ledgerCtrl fn w
  | .tamCtrl => s.tamCtrl fn w m
  | .pteCtrl => s.pteCtrl w
  | .memTlbInvCtrl => doMemTlbGo w s
  | .memPtRoot => if s.tdi i = 1 ∨ s.tdi i = 2 then s.tdiError env i else s.store r view i w m
  | .updMirCtrl => s.mirCtrl fn w
  | .casGrpCtrl => s.grpCtrl env fn i w
  | .aqdFlowCmd => s.flowCmd env fn w
  | .aqdRgnCmd => s.rgnCmd fn w
  | .aqdRgnBase => doAqdRgnEn v s
  | .aqdRgnSlots => if s.flag F.AQD_RGN_EN 0 0 then s else s.store r view i w m
  | .macPortCfg => doMacPortCfgWrite i w s
  | .macFilter => doMacFilterWrite (i / 16) (i % 16) v s
  | .clpCtrl => doClpSrcWrite w s
  | .clpSet => doClpSet (if m = 2 ^ 64 - 2 ^ 32 then 4 else 0) (if m = 2 ^ 64 - 1 then 8 else 4)
      (if m = 2 ^ 64 - 2 ^ 32 then w / 2 ^ 32 else w) s
  | .clpBarCtrl => s.barCtrl fn i w
  | .clpSnapCtrl => s.snapCtrl w
  | .hmpChCtrl => s.hmpCtrl i w
  | .hmpMap => s.mapWrite env (i / 4096) (i % 4096) v
  | .secSvnBurn => doSecSvnBurn w s
  | .secConf => if s.tdi i = 0 then s.store r view i w m else s
  | .secOpCtrl => s.secOpCtrl env fn w
  | .weirCmd => s.weirCtrl w
  | .pwrCtrl | .pwrCap | .pwrTherm => (s.store r view i w m).showLimit
  | .pmcCtrl => s.pmcCtrl w
  | .pmcTagCtrl => s.pmcTagCtrl w
  | .pmcGen => { s with pmc := { s.pmc with gen := sput 0 s.pmc.gen i ((sget 0 s.pmc.gen i ^^^ (sget 0 s.pmc.gen i &&& m)) ||| (w &&& m)) } }
  | .pmcPort => { s with pmc := { s.pmc with port := sput 0 s.pmc.port i ((sget 0 s.pmc.port i ^^^ (sget 0 s.pmc.port i &&& m)) ||| (w &&& m)) } }
  | .pmcCell => { s with pmc := { s.pmc with cell := sput 0 s.pmc.cell i ((sget 0 s.pmc.cell i ^^^ (sget 0 s.pmc.cell i &&& m)) ||| (w &&& m)) } }
  | .poolCoreCtrl => s.coreCtrl i w
  | .poolSgCtrl => s.sgCtrl (i / 4) (i % 4) w
  | r =>
    if r ∈ Machine.dmaRegs then s.dmaWrite env r i w m else s.store r view i w m

/-- A write of one aligned word, or of a whole register of two. -/
def State.placeWrite (s : State) (env : Env) (fn off size value : Nat) : State :=
  match s.place fn off with
  | none => s
  | some k =>
    if !s.answers fn off k.reg then s
    else if size = 8 then s.regWrite env fn k.reg k.view k.inst (value % 2 ^ 64) (2 ^ 64 - 1)
    else s.regWrite env fn k.reg k.view k.inst (at_ (8 * k.byte) (value % 2 ^ 32)) (at_ (8 * k.byte) (2 ^ 32 - 1))

/-- A 64-bit access falls on one register of 64 bits. -/
def State.wide (s : State) (fn off : Nat) : Bool :=
  match s.place fn off with
  | some k => (regSpec k.reg).bytes = 8
  | none => false

/-- A write of BAR0 that is accepted: a 64-bit write to two 32-bit registers writes the lower first (R9). -/
def State.barWrite (s : State) (env : Env) (fn off size value : Nat) : State :=
  if size = 8 ∧ !s.wide fn off then
    (s.placeWrite env fn off 4 value).placeWrite env fn (off + 4) 4 (value / 2 ^ 32)
  else s.placeWrite env fn off size value

/-- An access error (R9). TOP_EF_SIZE has 8 bits: what it holds of a request of 256 bytes or more is a free value. -/
def State.accessErr (s : State) (fn off size : Nat) : State :=
  if size < 256 then s.topAccessErr fn off size else (s.topAccessErr fn off (s.freeBits 8)).bump

/-- REGISTER_WRITE: a write of 32 or 64 bits to BAR0 (R8 to R11, R401). -/
def doRegisterWrite (fn off size value : Nat) (env : Env) (s : State) : State :=
  if !s.decodes fn off then s
  else if s.teeRefused fn env.tee then s.teeErr fn
  else if !sizeOk off size then s.accessErr fn off size
  else s.barWrite env fn off size value

def execRegisterWrite (fn off size value : Nat) (env : Env) (s : State) : Host.Outcome State Fault Refusal :=
  done (doRegisterWrite fn off size value env s)

/-- REGISTER_ACCESS_ERROR: an access of another size or alignment records TOP_E_ACCESS; a read completes with zero data
and a write is discarded (R9). An access that R9 accepts is no access error and changes nothing (log entry 2); a read that no
BAR claims completes as an Unsupported Request. -/
def doRegisterAccessError (fn off size : Nat) (write : Bool) (_value : Nat) (s : State) : State :=
  if !s.decodes fn off then (if write then s else s.emitFn fn (.unsupported fn off)) else
  if sizeOk off size then s else
  let s := s.accessErr fn off size
  if write then s else s.emitFn fn (.regData fn off 0)

def execRegisterAccessError (fn off size : Nat) (write : Bool) (value : Nat) (s : State) :
    Host.Outcome State Fault Refusal := done (doRegisterAccessError fn off size write value s)

end Sys2Proof.Machine
end

