-- ==== Sys2Proof/Machine/Mgmt.lean ====
section
/-! DEFINITION. The management endpoint and the debug console (R500, R501 of spec/24): MCTP control messages, PLDM, and the
UART. -/

namespace Sys2Proof.Machine

/-- MCTP_CONTROL_MESSAGE (R500, DSP0236): completion code 0 success, 2 invalid data, 5 unsupported command. -/
def doMctpControlMessage (req : MctpReq) (s : State) : State :=
  if !s.top.standby then s else
  match req with
  | .setEndpointId e =>
    if e = 0 ∨ 0xFF ≤ e then s.emit (.mctp 2 [])
    else ({ s with mgmt := { s.mgmt with eid := e } }).emit (.mctp 0 [0, e, 0])
  | .getEndpointId => s.emit (.mctp 0 [s.mgmt.eid, 0, 0])
  | .getVersion => s.emit (.mctp 0 [])
  | .getMessageTypes => s.emit (.mctp 0 [0, 1, 5, 6])
  | .other _ => s.emit (.mctp 5 [])

def execMctpControlMessage (req : MctpReq) (s : State) : Host.Outcome State Fault Refusal := done (doMctpControlMessage req s)

/-- A PLDM answer, while the standby rail is good. -/
def State.pldmSay (s : State) (r : PldmResp) : State := if s.top.standby then s.emit (.pldm r) else s

/-- GET_TID. -/
def doGetTid (s : State) : State := s.pldmSay (.tid s.mgmt.tid)

def execGetTid (s : State) : Host.Outcome State Fault Refusal := done (doGetTid s)

/-- SET_TID: 0 and 0xFF are reserved (DSP0240). -/
def doSetTid (tid : Nat) (s : State) : State :=
  if !s.top.standby then s
  else if tid = 0 ∨ 0xFF ≤ tid then s.pldmSay (.done false)
  else ({ s with mgmt := { s.mgmt with tid := tid } }).pldmSay (.done true)

def execSetTid (tid : Nat) (s : State) : Host.Outcome State Fault Refusal := done (doSetTid tid s)

/-- GET_PLDM_VERSION: of types 0 and 2. -/
def doGetPldmVersion (type : Nat) (s : State) : State :=
  if type = 0 ∨ type = 2 then s.pldmSay (.version type) else s.pldmSay (.done false)

def execGetPldmVersion (type : Nat) (s : State) : Host.Outcome State Fault Refusal := done (doGetPldmVersion type s)

/-- GET_PLDM_TYPES. -/
def doGetPldmTypes (s : State) : State := s.pldmSay (.types [0, 2])

def execGetPldmTypes (s : State) : Host.Outcome State Fault Refusal := done (doGetPldmTypes s)

/-- GET_PLDM_COMMANDS: the commands of R501, by their DSP0240 and DSP0248 codes. -/
def doGetPldmCommands (type : Nat) (s : State) : State :=
  if type = 0 then s.pldmSay (.commands [1, 2, 3, 4, 5])
  else if type = 2 then s.pldmSay (.commands [0x04, 0x11, 0x21, 0x50, 0x51])
  else s.pldmSay (.done false)

def execGetPldmCommands (type : Nat) (s : State) : Host.Outcome State Fault Refusal := done (doGetPldmCommands type s)

/-- GET_PDR_REPOSITORY_INFO: one record for each of the six numeric and five state sensors. -/
def doGetPdrRepositoryInfo (s : State) : State := s.pldmSay (.repository 11)

def execGetPdrRepositoryInfo (s : State) : Host.Outcome State Fault Refusal := done (doGetPdrRepositoryInfo s)

/-- GET_PDR: records 1 to 6 name the numeric sensors, 7 to 11 the state sensors. -/
def doGetPdr (record : Nat) (s : State) : State :=
  if 1 ≤ record ∧ record ≤ 6 then s.pldmSay (.pdr record false (record - 1))
  else if 7 ≤ record ∧ record ≤ 11 then s.pldmSay (.pdr record true (record - 7))
  else s.pldmSay (.done false)

def execGetPdr (record : Nat) (s : State) : Host.Outcome State Fault Refusal := done (doGetPdr record s)

/-- The plinth's sensors are available (R500). -/
def State.sensorsUp (s : State) : Bool := 3 ≤ s.fld F.TOP_STAGE 0 0

/-- GET_SENSOR_READING: input power, the limit, and the four temperatures of PWR_TEMP (R501). -/
def doGetSensorReading (sensor : Nat) (s : State) : State :=
  match ([F.PWR_INPUT_DW, F.PWR_LIMIT_W, F.PWR_T_TIER, F.PWR_T_PLINTH, F.PWR_T_MEM, F.PWR_T_VR] : List Fld)[sensor]? with
  | some f => s.pldmSay (.reading (if s.sensorsUp then some (s.fld f 0 0) else none))
  | none => s.pldmSay (.done false)

def execGetSensorReading (sensor : Nat) (s : State) : Host.Outcome State Fault Refusal := done (doGetSensorReading sensor s)

/-- GET_STATE_SENSOR_READINGS: TOP_STAGE, PWR_AIRFLOW_STATE, PWR_TRIPPED, TOP_FAILED and THERM_ALERT_N (R501). -/
def doGetStateSensorReadings (s : State) : State :=
  let l := [s.fld F.TOP_STAGE 0 0, s.fld F.PWR_AIRFLOW_STATE 0 0, s.fld F.PWR_TRIPPED 0 0, s.fld F.TOP_FAILED 0 0, b2n s.pwr.alert]
  s.pldmSay (.states (l.map fun v => if s.sensorsUp then some v else none))

def execGetStateSensorReadings (s : State) : Host.Outcome State Fault Refusal := done (doGetStateSensorReadings s)

/-- SET_EVENT_RECEIVER: PlatformEventMessage goes to it on a state change; none disables them. -/
def doSetEventReceiver (receiver : Option Nat) (s : State) : State :=
  if s.top.standby then ({ s with mgmt := { s.mgmt with receiver := receiver } }).pldmSay (.done true) else s

def execSetEventReceiver (receiver : Option Nat) (s : State) : Host.Outcome State Fault Refusal :=
  done (doSetEventReceiver receiver s)

/-- UART_RX: ignored unless SEC_DEBUG is 1 (R501). -/
def doUartRx (c : Nat) (s : State) : State :=
  if s.firmware && s.debugOn then { s with top := { s.top with console := s.top.console ++ [c % 256] } } else s

def execUartRx (c : Nat) (s : State) : Host.Outcome State Fault Refusal := done (doUartRx c s)

end Sys2Proof.Machine
end

