-- ==== Sys2Proof/Machine/Posts.lean ====
section
/-! DEFINITION. The dispatch of descriptors from the submission rings: fences, refusals, not-before times, and delivery to
the pools, the Cascade and Aqueduct (R295, R309 to R312 of spec/12 and spec/13; R384 of spec/16). -/

namespace Sys2Proof.Machine

/-- The pool has room for the work order: its inbox, or the one guest work order at a time (R153, R384). -/
def State.workRoom (s : State) (fn : Nat) (q : Qd) : Bool :=
  if s.isGuestWork fn q then (s.poolSt q.target).gwork.isNone
  else let x := s.poolSt (s.leadOf q.target); decide (x.inbox.length + x.popped.length < 32)

/-- The descriptor at the dispatch index leaves its ring (R311), with the entry it may still hold. -/
def State.take (s : State) (fn ring : Nat) (f : Fetched) : State :=
  let g := s.ring fn ring
  let s := match f.entry with | some i => s.sevDrop i | none => s
  (s.setRing fn ring { g with fetched := g.fetched.filter fun x => x.idx ≠ f.idx, inflight := g.inflight ++ [f.idx]
                              rereads := 0, stale := 0 }).setFld F.QUE_RING_HEAD fn ring (f.idx + 1)

/-- Deliver a work order; a guest's is at once read by the pool's guest issue unit (R309, R384, R478). -/
def State.deliver (s : State) (env : Env) (t : Ticket) (q : Qd) (d : List Byte) : State :=
  let n := s.que.woCount
  let s := { s with que := { s.que with woCount := n + 1 } }
  let t := { t with tagged := s.tagTest n, t2 := s.ns }
  if s.isGuestWork t.fn q then
    let w := { ticket := t, va := leAt q.body 0 8, count := leAt q.body 8 2 }
    ((s.setPool q.target { s.poolSt q.target with gwork := some w }).guestFill env q.target 16).guestSettle env q.target
  else
    let p := s.leadOf q.target
    s.setPool p { s.poolSt p with inbox := (s.poolSt p).inbox ++ [⟨t, d⟩] }

/-- Act on the descriptor `f` at the dispatch index, which is visible (R309 to R312, R295). -/
def State.dispatch (s : State) (env : Env) (fn ring : Nat) (f : Fetched) : State :=
  let g := s.ring fn ring
  let q := qdOf f.bytes
  let t := ticketOf fn ring f g.tailAt
  if q.fence && g.inflight ≠ [] then s else
  match s.refusal fn f.bytes with
  | some st => ((s.take fn ring f).complete env t 0 st 0).fetch fn ring
  | none =>
    match q.kind with
    | 0 => ((s.take fn ring f).complete env t 0 0 0).fetch fn ring
    | 1 =>
      if f.entry.isSome then s
      else if f.noEntry then ((s.take fn ring f).complete env t 0 3 0).fetch fn ring
      else if s.workRoom fn q then ((s.take fn ring f).deliver env t q f.bytes).fetch fn ring
      else s
    | 2 => ((s.take fn ring f).casPost env (fn - 1) t q.body).fetch fn ring
    | _ => ((s.take fn ring f).aqdDispatch env t q.body).fetch fn ring

/-- The queue engine turns to a ring: the descriptor at its dispatch index, if it is visible. -/
def State.ringTurn (s : State) (env : Env) (fn ring : Nat) : State :=
  if s.stopped ∨ 16 ≤ ring ∨ !s.ringLive fn ring ∨ s.fetchHeld fn ∨ !s.fnOpen fn then s else
  let i := s.fld F.QUE_RING_HEAD fn ring
  match (s.ring fn ring).fetched.find? fun f => f.idx = i && f.visible with
  | some f => s.dispatch env fn ring f
  | none => s

/-- DESCRIPTOR_DISPATCH: the descriptor at the dispatch index, if it is visible, is dispatched or completed (R309 to R312). -/
def doDescriptorDispatch (fn ring : Nat) (env : Env) (s : State) : State := s.ringTurn env fn ring

def execDescriptorDispatch (fn ring : Nat) (env : Env) (s : State) : Host.Outcome State Fault Refusal :=
  done (doDescriptorDispatch fn ring env s)

/-- NOT_BEFORE_RELEASE: entry `i` fires, and the work order that it held is delivered once it stands at the dispatch index
(R294, R295). -/
def doNotBeforeRelease (i : Nat) (env : Env) (s : State) : State :=
  let e := sget {} s.clp.sev i
  if e.kind ≠ 1 ∨ !s.sevDue i then s else
  let fn := e.owner + 1
  let s := s.sevDrop i
  let g := s.ring fn e.ref
  let free := fun (f : Fetched) => if f.entry = some i then { f with entry := none } else f
  (s.setRing fn e.ref { g with fetched := g.fetched.map free }).ringTurn env fn e.ref

def execNotBeforeRelease (i : Nat) (env : Env) (s : State) : Host.Outcome State Fault Refusal :=
  done (doNotBeforeRelease i env s)

end Sys2Proof.Machine
end

