-- ==== Sys2Proof/Machine/CoreFloat.lean ====
section
/-! DEFINITION. Floating-point arithmetic of the pool core (R144): the five rounding modes of frm, the exception flags,
and the operations of F, D, Zfh and their vector kin on bit patterns, with the canonical NaN of R29. The chapter names
the RISC-V standard for them; what that standard says is taken from it (log entry 9). -/

namespace Sys2Proof.Machine

/-- Binary64. -/
def fp64 : Ieee := ⟨53, -1074, 0x7FF0000000000000, 0x7FF8000000000000, 64⟩

/-- A result and its exception flags: 1 NX, 2 UF, 4 OF, 8 DZ, 16 NV. -/
abbrev Fr := Nat × Nat

/-- Does a rounding mode raise the magnitude: 0 RNE, 1 RTZ, 2 RDN, 3 RUP, 4 RMM, 5 to odd; `r` of `2 ^ k` is dropped. -/
def roundUp (rm : Nat) (neg odd : Bool) (r k : Nat) : Bool :=
  match rm with
  | 0 => decide (2 ^ k < 2 * r) || (decide (2 * r = 2 ^ k) && odd)
  | 1 => false
  | 2 => neg && r ≠ 0
  | 3 => !neg && r ≠ 0
  | 5 => !odd && r ≠ 0
  | _ => decide (2 ^ k ≤ 2 * r) && r ≠ 0

/-- `m / 2 ^ k` as an integer under a rounding mode, and whether it is inexact. -/
def roundAt (rm : Nat) (neg : Bool) (m k : Nat) : Nat × Bool :=
  let q := m >>> k
  let r := m - (q <<< k)
  (q + b2n (roundUp rm neg (q % 2 = 1) r k), r ≠ 0)

/-- The sign bit of a format. -/
def Ieee.sign (f : Ieee) (neg : Bool) : Nat := at_ (f.width - 1) (b2n neg)

/-- ±m × 2^e in a format under a rounding mode; a value is tiny when it is so after rounding. -/
def Ieee.rnd (f : Ieee) (rm : Nat) (neg : Bool) (m : Nat) (e : Int) : Fr :=
  if m = 0 then (f.sign neg, 0) else
  let at2 := fun (q : Int) => if q ≤ e then (m <<< (e - q).toNat, false) else roundAt rm neg m (q - e).toNat
  let qu := e + bitLen m - f.p
  let q := max qu f.qmin
  let (n, nx) := at2 q
  let w := ((q - f.qmin).toNat <<< (f.p - 1)) + n
  if f.infBits ≤ w then
    let toInf := rm = 0 || rm = 4 || (rm = 2 && neg) || (rm = 3 && !neg)
    (f.sign neg + (if toInf then f.infBits else f.infBits - 1), 5)
  else
    let u := (at2 qu).1
    let tiny := decide ((bitLen u : Int) + qu ≤ f.qmin + f.p - 1)
    (f.sign neg + w, b2n nx + (if nx && tiny then 2 else 0))

/-- A value in a format; a NaN made here is invalid. -/
def Ieee.put (f : Ieee) (rm : Nat) : Val → Fr
  | .nan => (f.nanBits, 16)
  | .inf n => (f.sign n + f.infBits, 0)
  | .fin n m e => f.rnd rm n m e

/-- Bits of a NaN. -/
def Ieee.isNan (f : Ieee) (w : Nat) : Bool := decide (f.infBits < w % 2 ^ (f.width - 1))

/-- Bits of a signalling NaN. -/
def Ieee.isSnan (f : Ieee) (w : Nat) : Bool := f.isNan w && !bit w (f.p - 2)

/-- NV for a signalling operand. -/
def Ieee.snans (f : Ieee) (l : List Nat) : Nat := if l.any f.isSnan then 16 else 0

/-- Some operand is a NaN. -/
def Ieee.nans (f : Ieee) (l : List Nat) : Bool := l.any f.isNan

/-- An exact zero sum of terms of unlike sign is −0 when rounding down. -/
def zeroSum (rm : Nat) (a b v : Val) : Val :=
  match v with
  | .fin _ 0 e => if a.isZero && b.isZero && a.neg = b.neg then v else .fin (rm = 2) 0 e
  | v => v

/-- a + b. -/
def Ieee.fadd (f : Ieee) (rm a b : Nat) : Fr :=
  if f.nans [a, b] then (f.nanBits, f.snans [a, b]) else
  f.put rm (zeroSum rm (f.toVal a) (f.toVal b) ((f.toVal a).add (f.toVal b)))

/-- The bits with the sign turned. -/
def Ieee.flip (f : Ieee) (a : Nat) : Nat := a ^^^ 2 ^ (f.width - 1)

/-- a − b. -/
def Ieee.fsub (f : Ieee) (rm a b : Nat) : Fr := if f.isNan b then f.fadd rm a b else f.fadd rm a (f.flip b)

/-- a × b. -/
def Ieee.fmul (f : Ieee) (rm a b : Nat) : Fr :=
  if f.nans [a, b] then (f.nanBits, f.snans [a, b]) else f.put rm ((f.toVal a).mul (f.toVal b))

/-- a ÷ b. -/
def Ieee.fdiv (f : Ieee) (rm a b : Nat) : Fr :=
  if f.nans [a, b] then (f.nanBits, f.snans [a, b]) else
  let x := f.toVal a
  let y := f.toVal b
  match f.put rm (x.div y) with
  | (w, fl) => (w, if x.isFin && !x.isZero && y.isZero then 8 else fl)

/-- √a. -/
def Ieee.fsqrt (f : Ieee) (rm a : Nat) : Fr :=
  if f.isNan a then (f.nanBits, f.snans [a]) else f.put rm (f.toVal a).sqrt

/-- a × b + c with one rounding; ∞ × 0 is invalid whatever c is. -/
def Ieee.fma (f : Ieee) (rm a b c : Nat) : Fr :=
  let x := f.toVal a
  let y := f.toVal b
  let bad := (x.isZero && f.toVal b = .inf y.neg) || (y.isZero && f.toVal a = .inf x.neg)
  if f.nans [a, b, c] then (f.nanBits, if bad then 16 else f.snans [a, b, c]) else
  let p := x.mul y
  f.put rm (zeroSum rm p (f.toVal c) (p.add (f.toVal c)))

/-- a < b, a = b on bit patterns that are not NaN. -/
def Ieee.below (f : Ieee) (a b : Nat) : Bool := (f.toVal a).lt (f.toVal b)

/-- The two patterns stand for one number. -/
def Ieee.same (f : Ieee) (a b : Nat) : Bool := !f.below a b && !f.below b a

/-- minimumNumber, or maximumNumber with `mx`; −0 lies below +0. -/
def Ieee.fminmax (f : Ieee) (mx : Bool) (a b : Nat) : Fr :=
  let fl := f.snans [a, b]
  if f.isNan a && f.isNan b then (f.nanBits, fl)
  else if f.isNan a then (b, fl) else if f.isNan b then (a, fl) else
  let less := f.below a b || (f.same a b && bit a (f.width - 1))
  (if less = mx then b else a, fl)

/-- A comparison: 0 ≤, 1 <, 2 =. -/
def Ieee.fcmp (f : Ieee) (k a b : Nat) : Fr :=
  if f.nans [a, b] then (0, if k = 2 then f.snans [a, b] else 16) else
  (b2n (match k with
    | 0 => !f.below b a
    | 1 => f.below a b
    | _ => f.same a b), 0)

/-- Sign injection: 0 the sign of b, 1 its negation, 2 the exclusive or. -/
def Ieee.fsgnj (f : Ieee) (k a b : Nat) : Nat :=
  let sa := b2n (bit a (f.width - 1))
  let sb := b2n (bit b (f.width - 1))
  let s := match k with
    | 0 => sb
    | 1 => 1 - sb
    | _ => sa ^^^ sb
  a % 2 ^ (f.width - 1) + at_ (f.width - 1) s

/-- The class mask. -/
def Ieee.fclass (f : Ieee) (a : Nat) : Nat :=
  let neg := bit a (f.width - 1)
  let mag := a % 2 ^ (f.width - 1)
  2 ^ (if f.infBits < mag then (if bit a (f.p - 2) then 9 else 8)
    else if mag = f.infBits then (if neg then 0 else 7)
    else if mag = 0 then (if neg then 3 else 4)
    else if mag < 2 ^ (f.p - 1) then (if neg then 2 else 5)
    else if neg then 1 else 6)

/-- A float to an `n`-bit integer, signed or not, saturating. -/
def Ieee.toInt (f : Ieee) (rm : Nat) (sg : Bool) (n w : Nat) : Fr :=
  let top : Int := if sg then (2 ^ (n - 1) : Nat) - 1 else (2 ^ n : Nat) - 1
  let low : Int := if sg then -(2 ^ (n - 1) : Nat) else 0
  match f.toVal w with
  | .nan => (unsign n top, 16)
  | .inf neg => (unsign n (if neg then low else top), 16)
  | .fin neg m e =>
    let (k, nx) := if 0 ≤ e then (m <<< e.toNat, false) else roundAt rm neg m (-e).toNat
    let x := sgnInt neg k
    if x < low then (unsign n low, 16) else if top < x then (unsign n top, 16) else (unsign n x, b2n nx)

/-- An `n`-bit integer to a float. -/
def Ieee.ofInt (f : Ieee) (rm : Nat) (sg : Bool) (n w : Nat) : Fr :=
  let x : Int := if sg then signed n w else (w % 2 ^ n : Nat)
  f.rnd rm (decide (x < 0)) x.natAbs 0

/-- One format to another. -/
def fcvt (src dst : Ieee) (rm w : Nat) : Fr :=
  if src.isNan w then (dst.nanBits, src.snans [w]) else dst.put rm (src.toVal w)

/-- The nearest integer to a / b, ties up. -/
def nearest (a b : Nat) : Nat := (2 * a + b) / (2 * b)

/-- The significand table of the 7-bit reciprocal: for 1.i, the seven bits of twice its reciprocal. -/
def rec7 (i : Nat) : Nat := nearest (128 * (512 - (257 + 2 * i))) (257 + 2 * i)

/-- The significand table of the 7-bit reciprocal square root, indexed by the low exponent bit and six bits. -/
def rsqrt7 (i : Nat) : Nat :=
  -- x = (129 + 2 j) / 128, doubled for an even exponent; 2 / √x − 1, in 1/128
  let j := i % 64
  let n := if i < 64 then 2 * (129 + 2 * j) else 129 + 2 * j
  nearest (isqrt (4 * 2 ^ 14 * 128 * 2 ^ 32 / n) - 2 ^ 23) (2 ^ 16)

/-- Significand bits and exponent of a nonzero finite pattern, a subnormal one normalised: the exponent field (which
may be zero or negative) and the fraction. -/
def Ieee.norm (f : Ieee) (w : Nat) : Int × Nat :=
  let mag := w % 2 ^ (f.width - 1)
  let e := mag >>> (f.p - 1)
  let m := mag % 2 ^ (f.p - 1)
  if e ≠ 0 then ((e : Int), m) else
  let k := f.p - bitLen m
  (1 - (k : Int), (m <<< k) % 2 ^ (f.p - 1))

/-- The exponent bias. -/
def Ieee.bias (f : Ieee) : Nat := 2 ^ (f.width - f.p - 1) - 1

/-- vfrsqrt7 of one element. -/
def Ieee.frsqrt7 (f : Ieee) (w : Nat) : Fr :=
  match f.toVal w with
  | .nan => (f.nanBits, f.snans [w])
  | .inf neg => if neg then (f.nanBits, 16) else (0, 0)
  | .fin neg m _ =>
    if m = 0 then (f.sign neg + f.infBits, 8) else if neg then (f.nanBits, 16) else
    let (e, m) := f.norm w
    let i := (e % 2).toNat * 64 + (m >>> (f.p - 7))
    let oe := (3 * (f.bias : Int) - 1 - e) / 2
    ((oe.toNat <<< (f.p - 1)) + (rsqrt7 i <<< (f.p - 8)), 0)

/-- vfrec7 of one element. -/
def Ieee.frec7 (f : Ieee) (rm w : Nat) : Fr :=
  match f.toVal w with
  | .nan => (f.nanBits, f.snans [w])
  | .inf neg => (f.sign neg, 0)
  | .fin neg m _ =>
    if m = 0 then (f.sign neg + f.infBits, 8) else
    let (e, m) := f.norm w
    if e < -1 then
      let up := rm = 0 || rm = 4 || (rm = 2 && neg) || (rm = 3 && !neg)
      (f.sign neg + (if up then f.infBits else f.infBits - 1), 5)
    else
      let oe := 2 * (f.bias : Int) - 1 - e
      let sig := rec7 (m >>> (f.p - 8)) <<< (f.p - 8)
      if oe = 0 then (f.sign neg + (sig >>> 1) + 2 ^ (f.p - 2), 0)
      else if oe < 0 then (f.sign neg + (sig >>> 2) + 2 ^ (f.p - 3), 0)
      else (f.sign neg + (oe.toNat <<< (f.p - 1)) + sig, 0)

end Sys2Proof.Machine
end

