-- ==== Sys2Proof/Machine/CoreMem.lean ====
section
/-! DEFINITION. The pool core: its registers and control registers, physical memory protection, its caches and the local
region, and taking a trap and returning from one (R144 to R148, R154, R506). What the RISC-V standard says beside the
chapter is taken from it (log entry 9). -/

namespace Sys2Proof.Machine

/-- Why an instruction of a pool core does not complete: the core has halted (R148), or a trap is taken. -/
inductive CoreStop where
  | halted
  | exc (cause tval : Nat)
  deriving DecidableEq, Repr

/-- What part of an instruction gives: a state, and a value or the reason it stops. -/
abbrev CoreRes (α : Type) := State × Except CoreStop α

/-- Go on where the first part gave a value. -/
def CoreRes.andThen {α β : Type} (r : CoreRes α) (f : State → α → CoreRes β) : CoreRes β :=
  match r with
  | (s, .ok a) => f s a
  | (s, .error e) => (s, .error e)

/-- The illegal-instruction exception of word `w`. -/
def illegal {α : Type} (s : State) (w : Nat) : CoreRes α := (s, .error (.exc 2 w))

/-! ### Registers -/

/-- `v` of `n` bits, sign-extended to 64. -/
def sx (n v : Nat) : Nat := unsign 64 (signed n v)

/-- The core of a pool. -/
def State.core (s : State) (p : Nat) : CoreSt := (s.poolSt p).core

/-- Integer register `r`; x0 reads zero. -/
def State.xr (s : State) (p r : Nat) : Nat := if r = 0 then 0 else sget 0 (s.core p).x r

/-- Write integer register `r`; x0 discards. -/
def State.xw (s : State) (p r v : Nat) : State :=
  if r = 0 then s else s.withCore p fun c => { c with x := sput 0 c.x r (v % two64) }

/-- A stored CSR. -/
def State.csr (s : State) (p n : Nat) : Nat := sget 0 (s.core p).csr n

/-- Store a CSR. -/
def State.setCsr (s : State) (p n v : Nat) : State := s.withCore p fun c => { c with csr := sput 0 c.csr n (v % two64) }

/-- A field of mstatus. -/
def State.mst (s : State) (p hi lo : Nat) : Nat := bits (s.csr p 0x300) hi lo

/-- Store a field of mstatus. -/
def State.setMst (s : State) (p hi lo v : Nat) : State := s.setCsr p 0x300 (setBits (s.csr p 0x300) hi lo v)

/-- Floating-point register `r`, 64 bits. -/
def State.fr (s : State) (p r : Nat) : Nat := sget 0 (s.core p).f r

/-- Write floating-point register `r`: the state is dirty. -/
def State.fw (s : State) (p r v : Nat) : State :=
  (s.withCore p fun c => { c with f := sput 0 c.f r (v % two64) }).setMst p 14 13 3

/-- Add exception flags to fflags. -/
def State.fflag (s : State) (p fl : Nat) : State :=
  if fl = 0 then s else (s.setCsr p 3 (s.csr p 3 ||| fl)).setMst p 14 13 3

/-- The value of `f` in a floating-point register: one not boxed in ones is the canonical NaN. -/
def State.frx (s : State) (p : Nat) (f : Ieee) (r : Nat) : Nat :=
  let w := s.fr p r
  if w >>> f.width = 2 ^ (64 - f.width) - 1 then w % 2 ^ f.width else f.nanBits

/-- Write a value of `f`, boxed in ones. -/
def State.fwx (s : State) (p : Nat) (f : Ieee) (r v : Nat) : State := s.fw p r (2 ^ 64 - 2 ^ f.width + v % 2 ^ f.width)

/-! ### Control registers -/

/-- mip: the external interrupt of R154 and the timer interrupt of R146. -/
def State.mip (s : State) (p : Nat) : Nat := at_ 11 (b2n (s.meip p)) + at_ 7 (b2n (s.core p).mtip)

/-- mstatus as it reads: UXL is 64 bits, and SD sums FS and VS up. -/
def State.mstatus (s : State) (p : Nat) : Nat :=
  s.csr p 0x300 + at_ 32 2 + at_ 63 (b2n (s.mst p 14 13 = 3 || s.mst p 10 9 = 3))

/-- misa: RV64 with A, C, D, F, I, M, U and V. -/
def misaBits : Nat := 0x800000000030112D

/-- The CSR is one of those of the floating-point state. -/
def fpCsr (n : Nat) : Bool := 1 ≤ n && n ≤ 3

/-- The CSR is one of those of the vector state. -/
def vecCsr (n : Nat) : Bool := n ∈ ([0x008, 0x009, 0x00A, 0x00F, 0xC20, 0xC21, 0xC22] : List Nat)

/-- Machine information and hardwired-zero registers. -/
def State.csrConst (s : State) (p n : Nat) : Option Nat :=
  if n = 0x301 then some misaBits
  else if 0xF11 ≤ n ∧ n ≤ 0xF14 then some (Config.coreInfo n p % two64)
  else if n = 0xF15 ∨ (0xB03 ≤ n ∧ n ≤ 0xB1F) ∨ (0xC03 ≤ n ∧ n ≤ 0xC1F) ∨ (0x323 ≤ n ∧ n ≤ 0x33F) then some 0
  else if n = 0xC22 then some 64
  else if n = 0xC01 then some s.ns
  else if n = 0xC02 then some (s.csr p 0xB02)
  else if n = 0x344 then some (s.mip p)
  else if n = 0x300 then some (s.mstatus p)
  else none

/-- The CSRs that hold what was written to them, with the bits that a write changes. -/
def csrMask (n : Nat) : Option Nat :=
  match n with
  | 0x003 | 0x00A => some (if n = 3 then 0xFF else 3)
  | 0x008 => some 511
  | 0x009 => some 1
  | 0xC20 | 0xC21 => some 0
  | 0x300 => some 0x227E88
  | 0x304 => some 0x888
  | 0x305 => some (two64 - 3)
  | 0x306 => some 7
  | 0x30A => some 0x71
  | 0x320 => some 5
  | 0x340 | 0x342 | 0x343 | 0xB02 => some (two64 - 1)
  | 0x341 => some (two64 - 2)
  | 0x3A0 | 0x3A2 => some (two64 - 1)
  | _ => if 0x3B0 ≤ n ∧ n ≤ 0x3BF then some (2 ^ 54 - 1) else none

/-- Read a CSR; none where there is no such register. The cycle counts are free values: the device counts arithmetic
clocks, and no rule says how many an instruction takes (log entry 3). -/
def State.csrRead (s : State) (p n : Nat) : Option (State × Nat) :=
  if n = 0xC00 ∨ n = 0xB00 then some (s.bump, s.freeBits 64)
  else if n = 1 then some (s, s.csr p 3 % 32)
  else if n = 2 then some (s, s.csr p 3 / 32)
  else if n = 0x00F then some (s, s.csr p 0x009 + at_ 1 (s.csr p 0x00A))
  else match s.csrConst p n with
    | some v => some (s, v)
    | none => (csrMask n).map fun _ => (s, s.csr p n)

/-- Byte `i` of the PMP configuration. -/
def State.pmpCfg (s : State) (p i : Nat) : Nat := bits (s.csr p (0x3A0 + i / 8 * 2)) (8 * (i % 8) + 7) (8 * (i % 8))

/-- A write of a PMP configuration register: locked entries keep theirs, and W without R is not taken. -/
def State.pmpCfgWrite (s : State) (p n v : Nat) : State :=
  (upFrom 0 8).foldl (fun s k =>
    let i := (n - 0x3A0) / 2 * 8 + k
    let x := bits v (8 * k + 7) (8 * k) &&& 0x9F
    if bit (s.pmpCfg p i) 7 ∨ bits x 1 0 = 2 then s
    else s.setCsr p n (setBits (s.csr p n) (8 * k + 7) (8 * k) x)) s

/-- Write a CSR that exists and may be written. -/
def State.csrWrite (s : State) (p n v : Nat) : State :=
  if n = 1 then (s.setCsr p 3 (s.csr p 3 / 32 * 32 + v % 32)).setMst p 14 13 3
  else if n = 2 then (s.setCsr p 3 (s.csr p 3 % 32 + v % 8 * 32)).setMst p 14 13 3
  else if n = 0x00F then ((s.setCsr p 9 (v % 2)).setCsr p 0x00A (bits v 2 1)).setMst p 10 9 3
  else if n = 0x3A0 ∨ n = 0x3A2 then s.pmpCfgWrite p n v
  else if 0x3B0 ≤ n ∧ n ≤ 0x3BF then
    let i := n - 0x3B0
    let next := if i < 15 then s.pmpCfg p (i + 1) else 0
    if bit (s.pmpCfg p i) 7 ∨ (bit next 7 && bits next 4 3 = 1) then s else s.setCsr p n (v % 2 ^ 54)
  else if n = 0x300 then
    -- MPP takes machine or user mode only
    let v := if bits v 12 11 = 3 ∨ bits v 12 11 = 0 then v else setBits v 12 11 (s.mst p 12 11)
    s.setCsr p n (v &&& 0x227E88)
  else match csrMask n with
    | none => s
    | some m =>
      let old := s.csr p n
      let s := s.setCsr p n ((old ^^^ (old &&& m)) ||| (v &&& m))
      if fpCsr n then s.setMst p 14 13 3 else if vecCsr n then s.setMst p 10 9 3 else s

/-- The mode may reach the CSR, and for a write it is not read-only. -/
def State.csrOk (s : State) (p n : Nat) (write : Bool) : Bool :=
  let m := (s.core p).machine
  (m || bits n 9 8 = 0) && !(write && bits n 11 10 = 3) && !(fpCsr n && s.mst p 14 13 = 0)
    && !(vecCsr n && s.mst p 10 9 = 0)
    && (m || !(decide (0xC00 ≤ n) && decide (n ≤ 0xC1F)) || bit (s.csr p 0x306) (n - 0xC00))

/-! ### Physical memory protection -/

/-- The bytes that PMP entry `i` covers: start and size; none when it is off. -/
def State.pmpRange (s : State) (p i : Nat) : Option (Nat × Nat) :=
  let a := s.csr p (0x3B0 + i)
  match bits (s.pmpCfg p i) 4 3 with
  | 0 => none
  | 1 =>
    let lo := if i = 0 then 0 else s.csr p (0x3B0 + i - 1) * 4
    if a * 4 ≤ lo then none else some (lo, a * 4 - lo)
  | 2 => some (a * 4, 4)
  | _ =>
    let k := bitLen ((a ^^^ (a + 1)) / 2)
    some (a / 2 ^ k * 2 ^ k * 4, 2 ^ (k + 3))

/-- The lowest entry that covers a byte of the access decides: `kind` 0 read, 1 write, 2 execute. -/
def State.pmpFrom (s : State) (p : Nat) (machine : Bool) (va n kind i : Nat) : Nat → Bool
  | 0 => machine
  | k + 1 =>
    match s.pmpRange p i with
    | none => s.pmpFrom p machine va n kind (i + 1) k
    | some (lo, size) =>
      if lo < va + n ∧ va < lo + size then
        let all := decide (lo ≤ va) && decide (va + n ≤ lo + size)
        let c := s.pmpCfg p i
        all && ((machine && !bit c 7) || bit c kind)
      else s.pmpFrom p machine va n kind (i + 1) k

/-- The access is allowed. -/
def State.pmpOk (s : State) (p : Nat) (machine : Bool) (va n kind : Nat) : Bool := s.pmpFrom p machine va n kind 0 16

/-- The mode of data accesses: MPRV takes the mode of MPP. -/
def State.dataMachine (s : State) (p : Nat) : Bool :=
  if (s.core p).machine && s.mst p 17 17 = 1 then s.mst p 12 11 = 3 else (s.core p).machine

/-! ### Caches (R147, R148) -/

/-- An access fault: the exception, and POOL_E_ACCESS with the address (R145). -/
def State.accessFault {α : Type} (s : State) (p va cause : Nat) : CoreRes α :=
  (s.poolErr p 2 va, .error (.exc cause va))

/-- The cache may give a line up at any time; which, if any, goes now is a free value (R147: a read returns the stale
value or the new one). A write-back that memory refuses sets POOL_E_ACCESS. -/
def State.spill (s : State) (env : Env) (p line : Nat) : State :=
  let z := s.freeBits 64
  let s := s.bump
  let go := fun (s : State) (l : Nat) =>
    match s.evict env p l with
    | (s, true) => s
    | (s, false) => s.poolErr p 2 (64 * l)
  let s := if bit z 0 then go s line else s
  match (s.core p).dcache.getD (z / 2) (line, none) with
  | (l, some _) => if s.coreRun p then go s l else s
  | (_, none) => s

/-- Lines of the data cache, 192 KiB, and of the instruction cache, 64 KiB (R147). -/
def dcacheLines : Nat := 3072
def icacheLines : Nat := 1024

/-- A full data cache gives a line up before it takes another; which one is a free value (R147). -/
def State.makeRoom (s : State) (env : Env) (p : Nat) : State :=
  let held := (s.core p).dcache
  if held.length < dcacheLines then s else
  let l := (held.getD (s.freeBits 16 % held.length) (0, none)).1
  match s.bump.evict env p l with
  | (s, true) => s
  | (s, false) => s.poolErr p 2 (64 * l)

/-- The bytes of a line of the data cache, fetched when it is absent (R147, R148). -/
def State.lineOf (s : State) (env : Env) (p line va cause : Nat) : CoreRes (List Byte) :=
  let s := s.spill env p line
  if !s.coreRun p then (s, .error .halted) else
  let held := sget none (s.core p).dcache line
  let fetch := fun (s : State) =>
    match s.readVa env (s.coreRq p) (64 * line) 64 with
    | (s, .okay, d) =>
      let s := s.makeRoom env p
      if !s.coreRun p then (s, .error .halted) else
      (s.withCore p fun c => { c with dcache := sput none c.dcache line (some ⟨d, false⟩) }, Except.ok d)
    | (s, _, _) => s.accessFault p va cause
  match held with
  | none => fetch s
  | some l =>
    let s := s.cacheCe env p line
    if upset env true [.dcache p line] then
      if l.dirty then (s.cacheHalt p line, .error .halted) else fetch ((s.poolErr p 3 (64 * line)).dropLine p line)
    else (s, .ok l.bytes)

/-- Put bytes into a line that the cache holds. -/
def State.dirtyLine (s : State) (p line o : Nat) (d : List Byte) : State :=
  let old := match sget none (s.core p).dcache line with
    | some l => l.bytes
    | none => zeros 64
  let new := (upFrom 0 64).map fun i => if o ≤ i ∧ i < o + d.length then d.getD (i - o) 0 else old.getD i 0
  s.withCore p fun c => { c with dcache := sput none c.dcache line (some ⟨new, true⟩) }

/-- Write a dirty line back and keep it, clean (cbo.clean). -/
def State.cleanLine (s : State) (env : Env) (p line : Nat) : State × Bool :=
  match sget none (s.core p).dcache line with
  | none => (s, true)
  | some l =>
    match s.evict env p line with
    | (s, true) =>
      if !s.coreRun p then (s, true)
      else (s.withCore p fun c => { c with dcache := sput none c.dcache line (some ⟨l.bytes, false⟩) }, true)
    | (s, false) => (s, false)

/-! ### The local region (R145, R146, R150, R335, R506) -/

/-- First address of the local region. -/
def localBase : Nat := 0x1000000000000

/-- The function through whose view the core sees its pool's registers: its owner's (R90). -/
def State.coreFn (s : State) (p : Nat) : Nat := s.drive ((s.owner p).getD 64)

/-- The register at an offset of the local region's register pages: the pool's own, or those of its slice. -/
def State.corePlace (s : State) (p o : Nat) : Option Place :=
  if o < 0x1000 then s.poolPlace (s.coreFn p) p o
  else if 0x2000 ≤ o ∧ o < 0x2400 then
    let ch := (o - 0x2000) / 128
    match s.dmaOwner p ch with
    | some (_, false) => dmaPlace p ch (o % 128)
    | _ => none
  else if 0x2400 ≤ o ∧ o < 0x2404 then some ⟨.dmaSlicePend, 0, p, o - 0x2400⟩
  else none

/-- Four bytes of the register pages. -/
def State.coreWord (s : State) (p o : Nat) : Nat :=
  match s.corePlace p o with
  | none => 0
  | some k => (s.regRead (s.coreFn p) k.reg k.view k.inst >>> (8 * k.byte)) % 2 ^ 32

/-- Write one word, or one whole register, of the register pages. -/
def State.coreWordWrite (s : State) (env : Env) (p o size v : Nat) : State :=
  match s.corePlace p o with
  | none => s
  | some k =>
    let m := if size = 8 then 2 ^ 64 - 1 else 2 ^ 32 - 1
    s.regWrite env (s.coreFn p) k.reg k.view k.inst (at_ (8 * k.byte) (v % 2 ^ (8 * size))) (at_ (8 * k.byte) m)

/-- An access to the register pages of a size or alignment that R9 does not accept. -/
def State.coreAccessErr (s : State) (p o n : Nat) : State :=
  let fn := s.coreFn p
  s.topAccessErr fn ((if fn = 0 then 0x100000 + 0x1000 * p else 0x8000 + 0x200 * p) + o) n

/-- A read of the local region. -/
def State.localRead (s : State) (p o n : Nat) : State × List Byte :=
  if 0x1000 ≤ o ∧ o < 0x2000 then s.tqRead p (o - 0x1000) n
  else if 0x3000 ≤ o then
    (s, (upFrom (o - 0x3000) n).map fun i =>
      if i < 8 then (toLe 8 s.ns).getD i 0 else if i < 16 then (toLe 8 (s.core p).mtimecmp).getD (i - 8) 0 else 0)
  else if !sizeOk o n then (s.coreAccessErr p o n, zeros n)
  else (s, toLe n (s.coreWord p o + (if n = 8 then s.coreWord p (o + 4) * 2 ^ 32 else 0)))

/-- A write of the local region. -/
def State.localWrite (s : State) (env : Env) (p o : Nat) (d : List Byte) : State :=
  let n := d.length
  if 0x1000 ≤ o ∧ o < 0x2000 then s.tqWrite env p (o - 0x1000) d
  else if 0x3000 ≤ o then
    let o := o - 0x3000
    let old := toLe 8 (s.core p).mtimecmp
    let new := (upFrom 8 8).map fun i => if o ≤ i ∧ i < o + n then d.getD (i - o) 0 else old.getD (i - 8) 0
    doMtimeCompare p (s.withCore p fun c => { c with mtimecmp := leNat new })
  else if !sizeOk o n then s.coreAccessErr p o n
  else
    let v := leNat d
    let wide := match s.corePlace p o with
      | some k => decide ((regSpec k.reg).bytes = 8)
      | none => false
    if n = 8 ∧ !wide then (s.coreWordWrite env p o 4 v).coreWordWrite env p (o + 4) 4 (v / 2 ^ 32)
    else s.coreWordWrite env p o n v

/-! ### Data accesses -/

/-- Checks that every data access passes: one block (R144), PMP, and an address that exists (R145). `cause` is the
misaligned exception of the access, 4 or 6; the access fault is the next. -/
def State.dataCheck (s : State) (p va n cause : Nat) (write : Bool) : CoreRes Unit :=
  if 64 < va % 64 + n then (s, .error (.exc cause va))
  else if !s.pmpOk p (s.dataMachine p) va n (b2n write) then (s, .error (.exc (cause + 1) va))
  else if localBase + 0x4000 ≤ va then s.accessFault p va (cause + 1)
  else (s, .ok ())

/-- Read `n` bytes within one block. -/
def State.coreRead (s : State) (env : Env) (p va n cause : Nat) : CoreRes (List Byte) :=
  (s.dataCheck p va n cause false).andThen fun s _ =>
    if localBase ≤ va then
      match s.localRead p (va - localBase) n with
      | (s, d) => (s, .ok d)
    else (s.lineOf env p (va / 64) va (cause + 1)).andThen fun s d => (s, .ok (slice d (va % 64) n))

/-- The address may be written: it translates, with write permission (R145, R173). -/
def State.storeOk (s : State) (env : Env) (p va : Nat) : CoreRes Unit :=
  match s.translate env (s.coreRq p) va true with
  | (s, .ok _) => (s, .ok ())
  | (s, .error r) => (s.faultResp (s.coreRq p) r).accessFault p va 7

/-- Write bytes within one block. -/
def State.coreWrite (s : State) (env : Env) (p va : Nat) (d : List Byte) : CoreRes Unit :=
  (s.dataCheck p va d.length 6 true).andThen fun s _ =>
    if localBase ≤ va then (s.localWrite env p (va - localBase) d, .ok ())
    else (s.storeOk env p va).andThen fun s _ =>
      (s.lineOf env p (va / 64) va 7).andThen fun s _ => (s.dirtyLine p (va / 64) (va % 64) d, .ok ())

/-- The two bytes of an instruction parcel, through the instruction cache (R147). -/
def State.fetchParcel (s : State) (env : Env) (p va : Nat) : CoreRes Nat :=
  if !s.pmpOk p (s.core p).machine va 2 2 then (s, .error (.exc 1 va))
  else if localBase ≤ va then s.accessFault p va 1
  else
    let line := va / 64
    let z := s.freeBits 1
    let s := s.bump
    let bad := env.sram.any fun e => e.1 = Site.icache p line
    let held := if z = 1 ∨ bad then none else sget none (s.core p).icache line
    let s := if bad && (sget none (s.core p).icache line).isSome then s.poolErr p 3 (64 * line) else s
    match held with
    | some d => (s, .ok (leAt d (va % 64) 2))
    | none =>
      match s.readVa env (s.coreRq p) (64 * line) 64 with
      | (s, .okay, d) =>
        let held := sput none (s.core p).icache line none
        let l := (held.getD (s.freeBits 16 % max 1 held.length) (0, none)).1
        let kept := if held.length < icacheLines then held else sput none held l none
        (s.bump.withCore p fun c => { c with icache := sput none kept line (some d) }, .ok (leAt d (va % 64) 2))
      | (s, _, _) => s.accessFault p va 1

/-! ### Traps -/

/-- Take a trap of machine mode: mepc, mcause, mtval and mstatus as the RISC-V standard lays them out. -/
def State.trap (s : State) (p : Nat) (irq : Bool) (cause tval : Nat) : State :=
  let c := s.core p
  let s := (s.setCsr p 0x341 c.pc).setCsr p 0x342 (at_ 63 (b2n irq) + cause)
  let s := s.setCsr p 0x343 (if !irq && Config.trapValue cause then tval else 0)
  let s := ((s.setMst p 7 7 (s.mst p 3 3)).setMst p 3 3 0).setMst p 12 11 (if c.machine then 3 else 0)
  let v := s.csr p 0x305
  let base := v / 4 * 4
  s.withCore p fun c => { c with machine := true, waiting := false, pc := if irq ∧ v % 4 = 1 then (base + 4 * cause) % two64 else base }

/-- MRET: the mode and interrupt enable that the trap saved return. -/
def State.mret (s : State) (p : Nat) : State :=
  let mode := s.mst p 12 11
  let s := ((s.setMst p 3 3 (s.mst p 7 7)).setMst p 7 7 1).setMst p 12 11 0
  let s := if mode = 3 then s else s.setMst p 17 17 0
  s.withCore p fun c => { c with machine := mode = 3 }

/-- The interrupt to take now, if any: external before timer. -/
def State.irqDue (s : State) (p : Nat) : Option Nat :=
  let w := s.mip p &&& s.csr p 0x304
  if (s.core p).machine && s.mst p 3 3 = 0 then none
  else if bit w 11 then some 11 else if bit w 7 then some 7 else none

end Sys2Proof.Machine
end

