-- ==== Sys2Proof/Machine/CoreInt.lean ====
section
/-! DEFINITION. The pool core: the integer instructions of RV64I, M, A, Zba, Zbb, Zicsr, Zifencei and Zicbom, and the
compressed instructions as the 32-bit words they stand for (R144, R147). -/

namespace Sys2Proof.Machine

/-! ### Fields and immediates -/

def wRd (w : Nat) : Nat := bits w 11 7
def wRs1 (w : Nat) : Nat := bits w 19 15
def wRs2 (w : Nat) : Nat := bits w 24 20
def wF3 (w : Nat) : Nat := bits w 14 12
def wF7 (w : Nat) : Nat := bits w 31 25

/-- Sign-extended immediates of the I, S, B, U and J formats. -/
def immI (w : Nat) : Nat := sx 12 (bits w 31 20)
def immS (w : Nat) : Nat := sx 12 (at_ 5 (bits w 31 25) + bits w 11 7)
def immB (w : Nat) : Nat := sx 13 (at_ 12 (bits w 31 31) + at_ 11 (bits w 7 7) + at_ 5 (bits w 30 25) + at_ 1 (bits w 11 8))
def immU (w : Nat) : Nat := sx 32 (at_ 12 (bits w 31 12))
def immJ (w : Nat) : Nat :=
  sx 21 (at_ 20 (bits w 31 31) + at_ 12 (bits w 19 12) + at_ 11 (bits w 20 20) + at_ 1 (bits w 30 21))

/-! ### Arithmetic on 64-bit and 32-bit words -/

/-- Signed value of an `n`-bit word. -/
def sv (n v : Nat) : Int := signed n v

/-- Bits reversed within bytes do not occur; bytes of a doubleword in the other order (rev8). -/
def rev8 (v : Nat) : Nat := leNat (toLe 8 v).reverse

/-- Each byte that is not zero becomes 0xFF (orc.b). -/
def orcB (v : Nat) : Nat := leNat ((toLe 8 v).map fun b => if b = 0 then 0 else 0xFF)

/-- Set bits among the low `n`. -/
def popCount (v : Nat) : Nat → Nat
  | 0 => 0
  | n + 1 => popCount v n + b2n (bit v n)

/-- Leading zeros of an `n`-bit word. -/
def clz (n v : Nat) : Nat := n - bitLen (v % 2 ^ n)

/-- Trailing zeros of an `n`-bit word. -/
def ctz (n v : Nat) : Nat := if v % 2 ^ n = 0 then n else bitLen ((v ^^^ (v - 1)) / 2)

/-- Rotate an `n`-bit word right. -/
def rotr (n v k : Nat) : Nat :=
  let v := v % 2 ^ n
  let k := k % n
  ((v >>> k) ||| (v <<< (n - k))) % 2 ^ n

/-- Arithmetic shift right of an `n`-bit word. -/
def sra (n v k : Nat) : Nat := unsign n (sv n v / (2 ^ k : Nat))

/-- Signed and unsigned division and remainder of `n`-bit words, with the RISC-V results for zero and overflow. -/
def divide (n : Nat) (sg rem : Bool) (a b : Nat) : Nat :=
  let a := a % 2 ^ n
  let b := b % 2 ^ n
  if b = 0 then (if rem then a else 2 ^ n - 1)
  else if sg then unsign n (if rem then (sv n a).tmod (sv n b) else (sv n a).tdiv (sv n b))
  else if rem then a % b else a / b

/-- The high half of a product of two `n`-bit words, each signed or not. -/
def mulHigh (n : Nat) (sa sb : Bool) (a b : Nat) : Nat :=
  let x : Int := if sa then sv n a else (a % 2 ^ n : Nat)
  let y : Int := if sb then sv n b else (b % 2 ^ n : Nat)
  unsign n ((x * y) / (2 ^ n : Nat))

/-- Register operations of 64 bits, by funct7 and funct3. -/
def opReg (f7 f3 a b : Nat) : Option Nat :=
  let sh := b % 64
  match f7, f3 with
  | 0, 0 => some (a + b)
  | 0, 1 => some (a <<< sh)
  | 0, 2 => some (b2n (decide (sv 64 a < sv 64 b)))
  | 0, 3 => some (b2n (decide (a < b)))
  | 0, 4 => some (a ^^^ b)
  | 0, 5 => some (a >>> sh)
  | 0, 6 => some (a ||| b)
  | 0, 7 => some (a &&& b)
  | 0x20, 0 => some (a + two64 - b)
  | 0x20, 4 => some (a ^^^ (two64 - 1 - b))
  | 0x20, 5 => some (sra 64 a sh)
  | 0x20, 6 => some (a ||| (two64 - 1 - b))
  | 0x20, 7 => some (a &&& (two64 - 1 - b))
  | 1, 0 => some (a * b)
  | 1, 1 => some (mulHigh 64 true true a b)
  | 1, 2 => some (mulHigh 64 true false a b)
  | 1, 3 => some (mulHigh 64 false false a b)
  | 1, 4 => some (divide 64 true false a b)
  | 1, 5 => some (divide 64 false false a b)
  | 1, 6 => some (divide 64 true true a b)
  | 1, 7 => some (divide 64 false true a b)
  | 0x10, 2 => some (2 * a + b)
  | 0x10, 4 => some (4 * a + b)
  | 0x10, 6 => some (8 * a + b)
  | 5, 4 => some (if sv 64 a < sv 64 b then a else b)
  | 5, 5 => some (min a b)
  | 5, 6 => some (if sv 64 a < sv 64 b then b else a)
  | 5, 7 => some (max a b)
  | 0x30, 1 => some (rotr 64 a (64 - sh))
  | 0x30, 5 => some (rotr 64 a sh)
  | _, _ => none

/-- Register operations of 32 bits; `rs2` tells zext.h. -/
def opReg32 (f7 f3 rs2 a b : Nat) : Option Nat :=
  let sh := b % 32
  let lo := a % 2 ^ 32
  match f7, f3 with
  | 0, 0 => some (sx 32 (a + b))
  | 0, 1 => some (sx 32 (a <<< sh))
  | 0, 5 => some (sx 32 (lo >>> sh))
  | 0x20, 0 => some (sx 32 (a + two64 - b))
  | 0x20, 5 => some (sx 32 (sra 32 a sh))
  | 1, 0 => some (sx 32 (a * b))
  | 1, 4 => some (sx 32 (divide 32 true false a b))
  | 1, 5 => some (sx 32 (divide 32 false false a b))
  | 1, 6 => some (sx 32 (divide 32 true true a b))
  | 1, 7 => some (sx 32 (divide 32 false true a b))
  | 4, 0 => some (lo + b)
  | 4, 4 => if rs2 = 0 then some (a % 65536) else none
  | 0x10, 2 => some (2 * lo + b)
  | 0x10, 4 => some (4 * lo + b)
  | 0x10, 6 => some (8 * lo + b)
  | 0x30, 1 => some (sx 32 (rotr 32 a (32 - sh)))
  | 0x30, 5 => some (sx 32 (rotr 32 a sh))
  | _, _ => none

/-- Immediate operations of 64 bits: `i` is the 12-bit immediate as it stands. -/
def opImm (f3 i a : Nat) : Option Nat :=
  let imm := sx 12 i
  let sh := i % 64
  match f3 with
  | 0 => some (a + imm)
  | 2 => some (b2n (decide (sv 64 a < sv 64 imm)))
  | 3 => some (b2n (decide (a < imm)))
  | 4 => some (a ^^^ imm)
  | 6 => some (a ||| imm)
  | 7 => some (a &&& imm)
  | 1 =>
    if i / 64 = 0 then some (a <<< sh)
    else match i with
      | 0x600 => some (clz 64 a)
      | 0x601 => some (ctz 64 a)
      | 0x602 => some (popCount a 64)
      | 0x604 => some (sx 8 a)
      | 0x605 => some (sx 16 a)
      | _ => none
  | _ =>
    if i / 64 = 0 then some (a >>> sh)
    else if i / 64 = 0x10 then some (sra 64 a sh)
    else if i / 64 = 0x18 then some (rotr 64 a sh)
    else if i = 0x287 then some (orcB a)
    else if i = 0x6B8 then some (rev8 a)
    else none

/-- Immediate operations of 32 bits. -/
def opImm32 (f3 i a : Nat) : Option Nat :=
  let sh := i % 32
  match f3 with
  | 0 => some (sx 32 (a + sx 12 i))
  | 1 =>
    if i / 32 = 0 then some (sx 32 (a <<< sh))
    else if i / 64 = 2 then some ((a % 2 ^ 32) <<< (i % 64))
    else match i with
      | 0x600 => some (clz 32 a)
      | 0x601 => some (ctz 32 a)
      | 0x602 => some (popCount a 32)
      | _ => none
  | 5 =>
    if i / 32 = 0 then some (sx 32 ((a % 2 ^ 32) >>> sh))
    else if i / 32 = 0x20 then some (sx 32 (sra 32 a sh))
    else if i / 32 = 0x30 then some (sx 32 (rotr 32 a sh))
    else none
  | _ => none

/-- Branch condition of funct3. -/
def branchTaken (f3 a b : Nat) : Option Bool :=
  match f3 with
  | 0 => some (a = b)
  | 1 => some (a ≠ b)
  | 4 => some (decide (sv 64 a < sv 64 b))
  | 5 => some (!decide (sv 64 a < sv 64 b))
  | 6 => some (decide (a < b))
  | 7 => some (!decide (a < b))
  | _ => none

/-- The new value of an atomic operation of `n` bits, by funct5. -/
def amoValue (f5 n a b : Nat) : Option Nat :=
  match f5 with
  | 1 => some b
  | 0 => some (a + b)
  | 4 => some (a ^^^ b)
  | 0xC => some (a &&& b)
  | 8 => some (a ||| b)
  | 0x10 => some (if sv n a < sv n b then a else b)
  | 0x14 => some (if sv n a < sv n b then b else a)
  | 0x18 => some (if a % 2 ^ n < b % 2 ^ n then a else b)
  | 0x1C => some (if a % 2 ^ n < b % 2 ^ n then b else a)
  | _ => none

/-! ### Compressed instructions -/

/-- 32-bit words of the formats. -/
def mkI (op f3 rd rs1 imm : Nat) : Nat := op + at_ 7 rd + at_ 12 f3 + at_ 15 rs1 + at_ 20 (imm % 4096)
def mkR (op f3 f7 rd rs1 rs2 : Nat) : Nat := op + at_ 7 rd + at_ 12 f3 + at_ 15 rs1 + at_ 20 rs2 + at_ 25 f7
def mkS (op f3 rs1 rs2 imm : Nat) : Nat :=
  op + at_ 7 (imm % 32) + at_ 12 f3 + at_ 15 rs1 + at_ 20 rs2 + at_ 25 (imm / 32 % 128)
def mkB (f3 rs1 imm : Nat) : Nat :=
  0x63 + at_ 7 (bits imm 11 11) + at_ 8 (bits imm 4 1) + at_ 12 f3 + at_ 15 rs1 + at_ 25 (bits imm 10 5) + at_ 31 (bits imm 12 12)
def mkJ (rd imm : Nat) : Nat :=
  0x6F + at_ 7 rd + at_ 12 (bits imm 19 12) + at_ 20 (bits imm 11 11) + at_ 21 (bits imm 10 1) + at_ 31 (bits imm 20 20)

/-- Quadrant 0: loads, stores and addresses from x8 to x15. -/
def expand0 (h : Nat) : Option Nat :=
  let r1 := 8 + bits h 9 7
  let r2 := 8 + bits h 4 2
  let d := at_ 3 (bits h 12 10) + at_ 6 (bits h 6 5)
  let w := at_ 3 (bits h 12 10) + at_ 2 (bits h 6 6) + at_ 6 (bits h 5 5)
  match bits h 15 13 with
  | 0 =>
    let imm := at_ 4 (bits h 12 11) + at_ 6 (bits h 10 7) + at_ 2 (bits h 6 6) + at_ 3 (bits h 5 5)
    if imm = 0 then none else some (mkI 0x13 0 r2 2 imm)
  | 1 => some (mkI 0x07 3 r2 r1 d)
  | 2 => some (mkI 0x03 2 r2 r1 w)
  | 3 => some (mkI 0x03 3 r2 r1 d)
  | 5 => some (mkS 0x27 3 r1 r2 d)
  | 6 => some (mkS 0x23 2 r1 r2 w)
  | 7 => some (mkS 0x23 3 r1 r2 d)
  | _ => none

/-- The arithmetic group of quadrant 1. -/
def expandArith (h : Nat) : Option Nat :=
  let r := 8 + bits h 9 7
  let r2 := 8 + bits h 4 2
  let sh := at_ 5 (bits h 12 12) + bits h 6 2
  match bits h 11 10 with
  | 0 => some (mkI 0x13 5 r r sh)
  | 1 => some (mkI 0x13 5 r r (0x400 + sh))
  | 2 => some (mkI 0x13 7 r r (sx 6 sh))
  | _ =>
    match bits h 12 12, bits h 6 5 with
    | 0, 0 => some (mkR 0x33 0 0x20 r r r2)
    | 0, 1 => some (mkR 0x33 4 0 r r r2)
    | 0, 2 => some (mkR 0x33 6 0 r r r2)
    | 0, _ => some (mkR 0x33 7 0 r r r2)
    | _, 0 => some (mkR 0x3B 0 0x20 r r r2)
    | _, 1 => some (mkR 0x3B 0 0 r r r2)
    | _, _ => none

/-- Quadrant 1: immediates, branches and jumps. -/
def expand1 (h : Nat) : Option Nat :=
  let rd := bits h 11 7
  let i6 := sx 6 (at_ 5 (bits h 12 12) + bits h 6 2)
  let j := sx 12 (at_ 11 (bits h 12 12) + at_ 4 (bits h 11 11) + at_ 8 (bits h 10 9) + at_ 10 (bits h 8 8)
    + at_ 6 (bits h 7 7) + at_ 7 (bits h 6 6) + at_ 1 (bits h 5 3) + at_ 5 (bits h 2 2))
  let b := sx 9 (at_ 8 (bits h 12 12) + at_ 3 (bits h 11 10) + at_ 6 (bits h 6 5) + at_ 1 (bits h 4 3) + at_ 5 (bits h 2 2))
  match bits h 15 13 with
  | 0 => some (mkI 0x13 0 rd rd i6)
  | 1 => if rd = 0 then none else some (mkI 0x1B 0 rd rd i6)
  | 2 => some (mkI 0x13 0 rd 0 i6)
  | 3 =>
    if rd = 2 then
      let imm := sx 10 (at_ 9 (bits h 12 12) + at_ 4 (bits h 6 6) + at_ 6 (bits h 5 5) + at_ 7 (bits h 4 3) + at_ 5 (bits h 2 2))
      if imm = 0 then none else some (mkI 0x13 0 2 2 imm)
    else if i6 = 0 then none else some (0x37 + at_ 7 rd + at_ 12 (i6 % 2 ^ 20))
  | 4 => expandArith h
  | 5 => some (mkJ 0 j)
  | 6 => some (mkB 0 (8 + bits h 9 7) b)
  | _ => some (mkB 1 (8 + bits h 9 7) b)

/-- Quadrant 2: shifts, stack accesses and register jumps. -/
def expand2 (h : Nat) : Option Nat :=
  let rd := bits h 11 7
  let rs2 := bits h 6 2
  let sh := at_ 5 (bits h 12 12) + bits h 6 2
  let d := at_ 5 (bits h 12 12) + at_ 3 (bits h 6 5) + at_ 6 (bits h 4 2)
  let w := at_ 5 (bits h 12 12) + at_ 2 (bits h 6 4) + at_ 6 (bits h 3 2)
  let sd := at_ 3 (bits h 12 10) + at_ 6 (bits h 9 7)
  let sw := at_ 2 (bits h 12 9) + at_ 6 (bits h 8 7)
  match bits h 15 13 with
  | 0 => some (mkI 0x13 1 rd rd sh)
  | 1 => some (mkI 0x07 3 rd 2 d)
  | 2 => if rd = 0 then none else some (mkI 0x03 2 rd 2 w)
  | 3 => if rd = 0 then none else some (mkI 0x03 3 rd 2 d)
  | 4 =>
    if bits h 12 12 = 0 then
      if rs2 = 0 then (if rd = 0 then none else some (mkI 0x67 0 0 rd 0)) else some (mkR 0x33 0 0 rd 0 rs2)
    else if rs2 = 0 then (if rd = 0 then some 0x00100073 else some (mkI 0x67 0 1 rd 0))
    else some (mkR 0x33 0 0 rd rd rs2)
  | 5 => some (mkS 0x27 3 2 rs2 sd)
  | 6 => some (mkS 0x23 2 2 rs2 sw)
  | _ => some (mkS 0x23 3 2 rs2 sd)

/-- The 32-bit instruction that a compressed one stands for; none where it stands for none. -/
def expandC (h : Nat) : Option Nat :=
  match h % 4 with
  | 0 => expand0 h
  | 1 => expand1 h
  | _ => expand2 h

/-! ### Instructions that reach memory or control registers -/

/-- A load: `next` is the address after the instruction. -/
def State.coreLoad (s : State) (env : Env) (p w next : Nat) : CoreRes Nat :=
  let va := (s.xr p (wRs1 w) + immI w) % two64
  let f3 := wF3 w
  if f3 = 7 then illegal s w else
  let n := 2 ^ (f3 % 4)
  (s.coreRead env p va n 4).andThen fun s d =>
    (s.xw p (wRd w) (if f3 < 4 then sx (8 * n) (leNat d) else leNat d), .ok next)

/-- A store. -/
def State.coreStore (s : State) (env : Env) (p w next : Nat) : CoreRes Nat :=
  let va := (s.xr p (wRs1 w) + immS w) % two64
  if 3 < wF3 w then illegal s w else
  (s.coreWrite env p va (toLe (2 ^ wF3 w) (s.xr p (wRs2 w)))).andThen fun s _ => (s, .ok next)

/-- LR, SC and the atomic operations, of 4 or 8 bytes. -/
def State.coreAmo (s : State) (env : Env) (p w next : Nat) : CoreRes Nat :=
  let f5 := bits w 31 27
  let va := s.xr p (wRs1 w)
  if wF3 w ≠ 2 ∧ wF3 w ≠ 3 then illegal s w else
  let n := 2 ^ wF3 w
  let src := s.xr p (wRs2 w)
  if f5 = 2 then
    if wRs2 w ≠ 0 then illegal s w else
    (s.coreRead env p va n 4).andThen fun s d =>
      ((s.withCore p fun c => { c with res := some (va / 64) }).xw p (wRd w) (sx (8 * n) (leNat d)), .ok next)
  else if f5 = 3 then
    if (s.core p).res = some (va / 64) then
      (s.coreWrite env p va (toLe n src)).andThen fun s _ =>
        ((s.withCore p fun c => { c with res := none }).xw p (wRd w) 0, .ok next)
    else
      (s.dataCheck p va n 6 true).andThen fun s _ =>
        ((s.withCore p fun c => { c with res := none }).xw p (wRd w) 1, .ok next)
  else match amoValue f5 (8 * n) 0 0 with
    | none => illegal s w
    | some _ =>
      (s.dataCheck p va n 6 true).andThen fun s _ =>
      ((if localBase ≤ va then (s, .ok ()) else s.storeOk env p va : CoreRes Unit)).andThen fun s _ =>
      (s.coreRead env p va n 6).andThen fun s d =>
        let old := leNat d
        (s.coreWrite env p va (toLe n ((amoValue f5 (8 * n) old src).getD 0))).andThen fun s _ =>
          (s.xw p (wRd w) (sx (8 * n) old), .ok next)

/-- cbo.inval, cbo.clean and cbo.flush (R147). In user mode menvcfg allows them, or turns an invalidation into a
flush. -/
def State.coreCbo (s : State) (env : Env) (p w next : Nat) : CoreRes Nat :=
  let k := bits w 31 20
  let va := s.xr p (wRs1 w)
  let m := (s.core p).machine
  let cfg := s.csr p 0x30A
  let allowed := if k = 0 then m || bits cfg 5 4 = 1 || bits cfg 5 4 = 3 else (k = 1 || k = 2) && (m || bit cfg 6)
  if !allowed ∨ wRd w ≠ 0 then illegal s w else
  let drop := k = 0 && (m || bits cfg 5 4 = 3)
  let line := va / 64
  if !s.pmpOk p (s.dataMachine p) (64 * line) 64 0 then (s, .error (.exc 7 va))
  else if localBase + 0x4000 ≤ va then s.accessFault p va 7
  else if localBase ≤ va then (s, .ok next)
  else match s.translate env (s.coreRq p) va false with
    | (s, .error r) => (s.faultResp (s.coreRq p) r).accessFault p va 7
    | (s, .ok _) =>
      if drop then (s.dropLine p line, .ok next) else
      match (if k = 1 then s.cleanLine env p line else s.evict env p line) with
      | (s, ok) =>
        if !s.coreRun p then (s, .error .halted)
        else if ok then (s, .ok next) else s.accessFault p va 7

/-- fence.i: dirty lines are written back and the instruction cache is invalidated, so that fetches see the stores
before it (R147). -/
def State.fenceI (s : State) (env : Env) (p next : Nat) : CoreRes Nat :=
  let s := ((s.core p).dcache.filter fun e => e.2.any (·.dirty)).foldl (fun (s : State) e =>
    if !s.coreRun p then s else
    match s.cleanLine env p e.1 with
    | (s, true) => s
    | (s, false) => s.poolErr p 2 (64 * e.1)) s
  if !s.coreRun p then (s, .error .halted)
  else (s.withCore p fun c => { c with icache := [] }, .ok next)

/-- FENCE, FENCE.I and the cache-block operations. -/
def State.coreMisc (s : State) (env : Env) (p w next : Nat) : CoreRes Nat :=
  match wF3 w with
  | 0 => (s, .ok next)
  | 1 => s.fenceI env p next
  | 2 => s.coreCbo env p w next
  | _ => illegal s w

/-- The CSR instructions. -/
def State.coreCsr (s : State) (p w next : Nat) : CoreRes Nat :=
  let n := bits w 31 20
  let f3 := wF3 w
  let src := if 4 ≤ f3 then wRs1 w else s.xr p (wRs1 w)
  let write := f3 % 4 = 1 || wRs1 w ≠ 0
  if !s.csrOk p n write then illegal s w else
  match s.csrRead p n with
  | none => illegal s w
  | some (s, old) =>
    let v := match f3 % 4 with
      | 1 => src
      | 2 => old ||| src
      | _ => old ^^^ (old &&& src)
    let s := if write then s.csrWrite p n v else s
    (s.xw p (wRd w) old, .ok next)

/-- ECALL, EBREAK, MRET, WFI and the CSR instructions. -/
def State.coreSystem (s : State) (p w next : Nat) : CoreRes Nat :=
  let m := (s.core p).machine
  if wF3 w = 4 then illegal s w
  else if wF3 w ≠ 0 then s.coreCsr p w next
  else match w with
    | 0x00000073 => (s, .error (.exc (if m then 11 else 8) 0))
    | 0x00100073 => (s, .error (.exc 3 (s.core p).pc))
    | 0x30200073 => if m then (s.mret p, .ok (s.csr p 0x341)) else illegal s w
    | 0x10500073 =>
      if !m && s.mst p 21 21 = 1 then illegal s w
      else (s.withCore p fun c => { c with waiting := true }, .ok next)
    | _ => illegal s w

/-- A result for rd, or an illegal instruction. -/
def State.result (s : State) (p w next : Nat) : Option Nat → CoreRes Nat
  | some v => (s.xw p (wRd w) v, .ok next)
  | none => illegal s w

end Sys2Proof.Machine
end

