-- ==== Sys2Proof/Machine/CoreFp.lean ====
section
/-! DEFINITION. The pool core: the scalar floating-point instructions of F, D and Zfh (R144). -/

namespace Sys2Proof.Machine

/-- The format of a two-bit field: 0 S, 1 D, 2 H. -/
def fmtOf : Nat → Option Ieee
  | 0 => some fp32
  | 1 => some fp64
  | 2 => some fp16
  | _ => none

/-- The rounding mode of an instruction: its own, or frm; none when it is reserved. -/
def State.rmOf (s : State) (p rm : Nat) : Option Nat :=
  let m := if rm = 7 then s.csr p 3 / 32 else rm
  if m ≤ 4 then some m else none

/-- The width of a floating-point load or store. -/
def fpWidth : Nat → Option Ieee
  | 1 => some fp16
  | 2 => some fp32
  | 3 => some fp64
  | _ => none

/-- FLH, FLW and FLD. -/
def State.fpLoad (s : State) (env : Env) (p w next : Nat) : CoreRes Nat :=
  match fpWidth (wF3 w) with
  | none => illegal s w
  | some f =>
    if s.mst p 14 13 = 0 then illegal s w else
    (s.coreRead env p ((s.xr p (wRs1 w) + immI w) % two64) (f.width / 8) 4).andThen fun s d =>
      (s.fwx p f (wRd w) (leNat d), .ok next)

/-- FSH, FSW and FSD. -/
def State.fpStore (s : State) (env : Env) (p w next : Nat) : CoreRes Nat :=
  match fpWidth (wF3 w) with
  | none => illegal s w
  | some f =>
    if s.mst p 14 13 = 0 then illegal s w else
    (s.coreWrite env p ((s.xr p (wRs1 w) + immS w) % two64) (toLe (f.width / 8) (s.fr p (wRs2 w)))).andThen fun s _ =>
      (s, .ok next)

/-- A floating-point result and its flags. -/
def State.fpPut (s : State) (p : Nat) (f : Ieee) (rd next : Nat) (r : Fr) : CoreRes Nat :=
  ((s.fwx p f rd r.1).fflag p r.2, .ok next)

/-- The fused multiply-adds; the opcode gives the signs of the product and of the addend. -/
def State.fpFma (s : State) (p w next : Nat) : CoreRes Nat :=
  match fmtOf (bits w 26 25), s.rmOf p (wF3 w) with
  | some f, some rm =>
    if s.mst p 14 13 = 0 then illegal s w else
    let a := s.frx p f (wRs1 w)
    let b := s.frx p f (wRs2 w)
    let c := s.frx p f (bits w 31 27)
    let neg := fun (x : Nat) => if f.isNan x then x else f.flip x
    let op := w % 128
    let a := if op = 0x4B ∨ op = 0x4F then neg a else a
    let c := if op = 0x47 ∨ op = 0x4F then neg c else c
    s.fpPut p f (wRd w) next (f.fma rm a b c)
  | _, _ => illegal s w

/-- A float to an integer register, and its flags. -/
def State.fpToX (s : State) (p w next : Nat) (r : Fr) : CoreRes Nat := ((s.xw p (wRd w) r.1).fflag p r.2, .ok next)

/-- The integer format of a conversion: signed, width. -/
def intOf (k : Nat) : Bool × Nat := (k % 2 = 0, if k < 2 then 32 else 64)

/-- OP-FP instructions whose rounding mode is a rounding mode. -/
def State.fpRounded (s : State) (p w next : Nat) (f : Ieee) (rm : Nat) : CoreRes Nat :=
  let a := s.frx p f (wRs1 w)
  let b := s.frx p f (wRs2 w)
  let rs2 := wRs2 w
  let put := s.fpPut p f (wRd w) next
  match bits w 31 27 with
  | 0 => put (f.fadd rm a b)
  | 1 => put (f.fsub rm a b)
  | 2 => put (f.fmul rm a b)
  | 3 => put (f.fdiv rm a b)
  | 0xB => if rs2 = 0 then put (f.fsqrt rm a) else illegal s w
  | 8 =>
    match fmtOf rs2 with
    | some g => if g = f then illegal s w else put (fcvt g f rm (s.frx p g (wRs1 w)))
    | none => illegal s w
  | 0x18 =>
    if 3 < rs2 then illegal s w else
    let (sg, n) := intOf rs2
    let r := f.toInt rm sg n a
    s.fpToX p w next (sx n r.1, r.2)
  | 0x1A =>
    if 3 < rs2 then illegal s w else
    let (sg, n) := intOf rs2
    put (f.ofInt rm sg n (s.xr p (wRs1 w)))
  | _ => illegal s w

/-- OP-FP instructions whose rounding mode selects the operation. -/
def State.fpSelect (s : State) (p w next : Nat) (f : Ieee) : CoreRes Nat :=
  let a := s.frx p f (wRs1 w)
  let b := s.frx p f (wRs2 w)
  let k := wF3 w
  let put := s.fpPut p f (wRd w) next
  match bits w 31 27 with
  | 4 => if k ≤ 2 then put (f.fsgnj k a b, 0) else illegal s w
  | 5 => if k ≤ 1 then put (f.fminmax (k = 1) a b) else illegal s w
  | 0x14 => if k ≤ 2 then s.fpToX p w next (f.fcmp k a b) else illegal s w
  | 0x1C =>
    if wRs2 w ≠ 0 then illegal s w
    else if k = 0 then s.fpToX p w next (sx f.width (s.fr p (wRs1 w)), 0)
    else if k = 1 then s.fpToX p w next (f.fclass a, 0)
    else illegal s w
  | 0x1E => if wRs2 w = 0 ∧ k = 0 then put (s.xr p (wRs1 w), 0) else illegal s w
  | _ => illegal s w

/-- OP-FP. -/
def State.fpOp (s : State) (p w next : Nat) : CoreRes Nat :=
  match fmtOf (bits w 26 25) with
  | none => illegal s w
  | some f =>
    if s.mst p 14 13 = 0 then illegal s w
    else if bits w 31 27 ∈ ([4, 5, 0x14, 0x1C, 0x1E] : List Nat) then s.fpSelect p w next f
    else match s.rmOf p (wF3 w) with
      | none => illegal s w
      | some rm => s.fpRounded p w next f rm

end Sys2Proof.Machine
end

