-- ==== Sys2Proof/Machine/CoreVec.lean ====
section
/-! DEFINITION. The pool core: vector configuration, the vector register file, and vector loads and stores (R144). The
arithmetic of the vector instructions stands in CoreVArith.lean. -/

namespace Sys2Proof.Machine

/-- vtype in parts: element width in bits, eight times LMUL, the tail and mask policies, and vl and vstart with them. -/
structure Vt where
  sew : Nat
  lmul8 : Nat
  ta : Bool
  ma : Bool
  vl : Nat
  vstart : Nat
  deriving DecidableEq, Repr

/-- Eight times LMUL of a vlmul field. -/
def lmul8Of (k : Nat) : Nat := if k < 4 then 8 * 2 ^ k else 2 ^ (k - 5)

/-- VLMAX of an element width and LMUL; VLEN is 512 (R144). -/
def vlmax (sew lmul8 : Nat) : Nat := 64 * lmul8 / sew

/-- A vtype that the core supports; ELEN is 64 (R144). -/
def vtypeOk (v : Nat) : Bool :=
  v < 256 && bits v 2 0 ≠ 4 && bits v 5 3 ≤ 3 && 8 * 2 ^ bits v 5 3 ≤ 8 * lmul8Of (bits v 2 0)

/-- The configuration in force; none while vill is set. -/
def State.vt (s : State) (p : Nat) : Option Vt :=
  let v := s.csr p 0xC21
  if bit v 63 then none else
  some ⟨8 * 2 ^ bits v 5 3, lmul8Of (bits v 2 0), bit v 6, bit v 7, s.csr p 0xC20, s.csr p 8⟩

/-- The vector unit may be used. -/
def State.vecOn (s : State) (p : Nat) : Bool := s.mst p 10 9 ≠ 0

/-- The vector state is dirty, and the instruction has begun at element 0 next. -/
def State.vecDone (s : State) (p : Nat) : State := (s.setCsr p 8 0).setMst p 10 9 3

/-! ### Elements -/

/-- Vector register `r`, 512 bits. -/
def State.vr (s : State) (p r : Nat) : Nat := sget 0 (s.core p).v r

/-- Write vector register `r`. -/
def State.vw (s : State) (p r v : Nat) : State := s.withCore p fun c => { c with v := sput 0 c.v r (v % 2 ^ 512) }

/-- Element `i` of width `eew` of the group at `r`. -/
def State.vel (s : State) (p r eew i : Nat) : Nat :=
  (s.vr p ((r + i * eew / 512) % 32) >>> (i * eew % 512)) % 2 ^ eew

/-- Write one element. -/
def State.vput (s : State) (p r eew i v : Nat) : State :=
  let k := (r + i * eew / 512) % 32
  let o := i * eew % 512
  s.vw p k (setBits (s.vr p k) (o + eew - 1) o v)

/-- Bit `i` of mask register `r`. -/
def State.vbit (s : State) (p r i : Nat) : Bool := bit (s.vr p r) i

/-- Element `i` is active: the instruction is unmasked, or bit `i` of v0 is set. -/
def State.active (s : State) (p w i : Nat) : Bool := bit w 25 || s.vbit p 0 i

/-- The registers of a group. -/
def groupRegs (emul8 : Nat) : Nat := cdiv emul8 8

/-- A group of this EMUL may begin at `r`. -/
def groupOk (r emul8 : Nat) : Bool :=
  1 ≤ emul8 && emul8 ≤ 64 && r % groupRegs emul8 = 0 && r + groupRegs emul8 ≤ 32

/-- Destination and source groups may lie as they do: apart, or of one width, or overlapping as the standard allows. -/
def overlapOk (d de dm r re rm : Nat) : Bool :=
  let nd := groupRegs dm
  let nr := groupRegs rm
  d + nd ≤ r || r + nr ≤ d || de = re || (de < re && d = r) || (re < de && 8 ≤ rm && d + nd = r + nr)

/-- Elements `0` to `n - 1` of a group take the values of `f`. -/
def State.vfill (s : State) (p r eew n : Nat) (f : Nat → Nat) : State :=
  (upFrom 0 n).foldl (fun s i => s.vput p r eew i (f i)) s

/-- What an element of the destination becomes: `f` on the active body, the old value before vstart, and for inactive and
tail elements the old value or, where the policy is agnostic, either that or all ones: which is a free value. -/
def State.vmerge (s : State) (p w : Nat) (t : Vt) (vd eew : Nat) (f : Nat → Nat) (i : Nat) : Nat :=
  let old := s.vel p vd eew i
  let any := if bit (Config.freeValue s.free) i then 2 ^ eew - 1 else old
  if i < t.vstart then old
  else if i < t.vl then (if s.active p w i then f i else if t.ma then any else old)
  else if t.ta then any else old

/-- Write the result elements of a group, with their flags: `kind` 0 none, 1 vxsat, 2 fflags. -/
def State.vrun (s : State) (p w : Nat) (t : Vt) (vd eew emul8 kind : Nat) (f : Nat → Fr) : State :=
  if t.vl ≤ t.vstart then s.vecDone p else
  let body := (upFrom t.vstart (t.vl - t.vstart)).filter (s.active p w)
  let fl := body.foldl (fun a i => a ||| (f i).2) 0
  let n := max 512 (64 * emul8) / eew
  let s' := (s.vfill p vd eew n (s.vmerge p w t vd eew fun i => (f i).1)).bump
  let s' := if kind = 2 then s'.fflag p fl else if kind = 1 ∧ fl ≠ 0 then s'.setCsr p 9 1 else s'
  s'.vecDone p

/-- Write a mask result; its tail is always agnostic. -/
def State.vrunMask (s : State) (p w : Nat) (t : Vt) (vd kind : Nat) (f : Nat → Bool × Nat) : State :=
  if t.vl ≤ t.vstart then s.vecDone p else
  let body := (upFrom t.vstart (t.vl - t.vstart)).filter (s.active p w)
  let fl := body.foldl (fun a i => a ||| (f i).2) 0
  let z := Config.freeValue s.free
  let new := fun (i : Nat) =>
    let old := s.vbit p vd i
    if i < t.vstart then old
    else if i < t.vl then (if s.active p w i then (f i).1 else old || (t.ma && bit z i))
    else old || bit z i
  let s' := (s.vw p vd ((upFrom 0 512).foldl (fun a i => a + at_ i (b2n (new i))) 0)).bump
  let s' := if kind = 2 then s'.fflag p fl else s'
  s'.vecDone p

/-- Write element 0 alone, as a reduction or a scalar move does; the rest is tail. -/
def State.vscalar (s : State) (p : Nat) (t : Vt) (vd eew v : Nat) : State :=
  let z := Config.freeValue s.free
  let s' := s.vfill p vd eew (512 / eew) fun i =>
    if i = 0 then v else if t.ta && bit z i then 2 ^ eew - 1 else s.vel p vd eew i
  s'.bump.vecDone p

/-! ### vsetvli, vsetivli, vsetvl -/

/-- Set vtype and vl: AVL, or none to keep vl. -/
def State.vset (s : State) (p rd next v : Nat) (avl : Option Nat) : CoreRes Nat :=
  let sew := 8 * 2 ^ bits v 5 3
  let m := vlmax sew (lmul8Of (bits v 2 0))
  let same := match s.vt p with
    | some t => vlmax t.sew t.lmul8 = m
    | none => false
  let fin := fun (ty vl : Nat) =>
    ((((s.setCsr p 0xC21 ty).setCsr p 0xC20 vl).vecDone p).xw p rd vl, (Except.ok next : Except CoreStop Nat))
  if !vtypeOk v ∨ (avl = none ∧ !same) then fin (2 ^ 63) 0 else
  let vl := match avl with
    | none => s.csr p 0xC20
    | some a =>
      if a ≤ m then a
      else if a < 2 * m then max (cdiv a 2) (min m (Config.vlChoice a m))
      else m
  fin v vl

/-- The configuration instructions. -/
def State.vsetOp (s : State) (p w next : Nat) : CoreRes Nat :=
  let rd := wRd w
  let avl := if wRs1 w ≠ 0 then some (s.xr p (wRs1 w)) else if rd ≠ 0 then some (two64 - 1) else none
  if !bit w 31 then s.vset p rd next (bits w 30 20) avl
  else if bits w 31 30 = 3 then s.vset p rd next (bits w 29 20) (some (wRs1 w))
  else if wF7 w = 0x40 then s.vset p rd next (s.xr p (wRs2 w)) avl
  else illegal s w

/-! ### Loads and stores -/

/-- Run over elements until one stops: that element and why. -/
def coreEach (f : State → Nat → CoreRes Unit) : List Nat → State → State × Option (Nat × CoreStop)
  | [], s => (s, none)
  | i :: l, s =>
    match f s i with
    | (s, .ok _) => coreEach f l s
    | (s, .error e) => (s, some (i, e))

/-- The element width of a vector access. -/
def vwidth : Nat → Option Nat
  | 0 => some 8
  | 5 => some 16
  | 6 => some 32
  | 7 => some 64
  | _ => none

/-- A vector access in parts: store or load, fields, element width and EMUL of the data, elements, the address of element
`i`, whether it is fault-only-first, and whether the policies apply. -/
structure Vacc where
  store : Bool
  nf : Nat
  eew : Nat
  emul8 : Nat
  first : Bool
  plain : Bool
  deriving DecidableEq, Repr

/-- Move the fields of one element. -/
def State.vaccElem (s : State) (env : Env) (p vd : Nat) (a : Vacc) (va i : Nat) : CoreRes Unit :=
  (upFrom 0 a.nf).foldl (fun (r : CoreRes Unit) k => r.andThen fun s _ =>
    let reg := vd + k * groupRegs a.emul8
    let at3 := (va + k * (a.eew / 8)) % two64
    if a.store then s.coreWrite env p at3 (toLe (a.eew / 8) (s.vel p reg a.eew i))
    else (s.coreRead env p at3 (a.eew / 8) 4).andThen fun s d => (s.vput p reg a.eew i (leNat d), .ok ())) (s, .ok ())

/-- Run a vector access over its elements. One that stops leaves its number in vstart, or, for a fault-only-first load
past element 0, shortens vl. -/
def State.vaccess (s : State) (env : Env) (p w next : Nat) (t : Vt) (a : Vacc) (addr : Nat → Nat) : CoreRes Nat :=
  let vd := wRd w
  let body := (upFrom t.vstart (t.vl - t.vstart)).filter fun i => a.plain || s.active p w i
  let fin := fun (s : State) (t : Vt) =>
    let s := if a.store || a.plain then s else
      (upFrom 0 a.nf).foldl (fun (s : State) k =>
        let r := vd + k * groupRegs a.emul8
        s.vrun p w t r a.eew a.emul8 0 fun i => (s.vel p r a.eew i, 0)) s
    (if a.store then s.setCsr p 8 0 else s.vecDone p, (Except.ok next : Except CoreStop Nat))
  match coreEach (fun s i => s.vaccElem env p vd a (addr i) i) body s with
  | (s, none) => fin s t
  | (s, some (_, .halted)) => (s, .error .halted)
  | (s, some (i, e)) =>
    if a.first && i ≠ 0 then fin (s.setCsr p 0xC20 i) { t with vl := i }
    else (s.setCsr p 8 i, .error e)

/-- Whole-register loads and stores. -/
def State.vwhole (s : State) (env : Env) (p w next eew : Nat) (store : Bool) : CoreRes Nat :=
  let n := bits w 31 29 + 1
  if !(n ∈ ([1, 2, 4, 8] : List Nat)) ∨ wRd w % n ≠ 0 ∨ !bit w 25 ∨ (store ∧ eew ≠ 8) then illegal s w else
  let b := s.xr p (wRs1 w)
  let t : Vt := ⟨eew, 8, false, false, n * 512 / eew, s.csr p 8⟩
  s.vaccess env p w next t ⟨store, 1, eew, 8 * n, false, true⟩ fun i => (b + i * (eew / 8)) % two64

/-- vlm.v and vsm.v. -/
def State.vmaskMove (s : State) (env : Env) (p w next eew : Nat) (store : Bool) : CoreRes Nat :=
  match s.vt p with
  | none => illegal s w
  | some t =>
    if eew ≠ 8 ∨ bits w 31 29 ≠ 0 ∨ !bit w 25 then illegal s w else
    let b := s.xr p (wRs1 w)
    s.vaccess env p w next { t with vl := cdiv t.vl 8, ta := true } ⟨store, 1, 8, 8, false, store⟩ fun i => (b + i) % two64

/-- A vector load or store. -/
def State.vmem (s : State) (env : Env) (p w next : Nat) (store : Bool) : CoreRes Nat :=
  match vwidth (wF3 w) with
  | none => illegal s w
  | some eew =>
    if !s.vecOn p ∨ bit w 28 then illegal s w else
    let mop := bits w 27 26
    let um := bits w 24 20
    if mop = 0 ∧ um = 8 then s.vwhole env p w next eew store
    else if mop = 0 ∧ um = 11 then s.vmaskMove env p w next eew store
    else match s.vt p with
      | none => illegal s w
      | some t =>
        let nf := bits w 31 29 + 1
        let b := s.xr p (wRs1 w)
        let emul8 := eew * t.lmul8 / t.sew
        let idx := mop % 2 = 1
        let dw := if idx then t.sew else eew
        let dm := if idx then t.lmul8 else emul8
        let vd := wRd w
        let ok := groupOk vd dm && (decide (8 * groupRegs dm * nf ≤ 64)) && decide (vd + nf * groupRegs dm ≤ 32)
          && (!idx || (groupOk um emul8 && (store || (if nf = 1 then overlapOk vd dw dm um eew emul8
              else decide (vd + nf * groupRegs dm ≤ um) || decide (um + groupRegs emul8 ≤ vd)))))
          && (bit w 25 || store || vd ≠ 0) && (mop ≠ 0 || um = 0 || (um = 0x10 && !store))
        if !ok then illegal s w else
        let a : Vacc := ⟨store, nf, dw, dm, decide (mop = 0 ∧ um = 0x10), false⟩
        let seg := nf * (dw / 8)
        if mop = 0 then s.vaccess env p w next t a fun i => (b + i * seg) % two64
        else if mop = 2 then
          let st := s.xr p um
          s.vaccess env p w next t a fun i => (b + i * st) % two64
        else s.vaccess env p w next t a fun i => (b + s.vel p um eew i) % two64

end Sys2Proof.Machine
end

