-- ==== Sys2Proof/Machine/CoreVArith.lean ====
section
/-! DEFINITION. The pool core: the arithmetic, mask and permutation instructions of the V extension with Zvfh, Zvfbfmin and
Zvfbfwma (R144). -/

namespace Sys2Proof.Machine

/-! ### Integer elements -/

/-- An integer shifted right by `d` under vxrm: 0 nearest up, 1 nearest even, 2 down, 3 to odd. -/
def fixRound (rm : Nat) (v : Int) (d : Nat) : Int :=
  if d = 0 then v else
  let q := v / (2 ^ d : Nat)
  let r := (v % (2 ^ d : Nat)).toNat
  let half := 2 ^ (d - 1)
  q + (match rm with
    | 0 => b2n (decide (half ≤ r))
    | 1 => b2n (decide (half < r) || (decide (r = half) && q % 2 = 1))
    | 2 => 0
    | _ => b2n (q % 2 = 0 && r ≠ 0) : Nat)

/-- An integer in `n` bits, signed or not, saturating; the flag says that it did. -/
def saturate (n : Nat) (sg : Bool) (x : Int) : Fr :=
  let lo : Int := if sg then -(2 ^ (n - 1) : Nat) else 0
  let hi : Int := if sg then (2 ^ (n - 1) : Nat) - 1 else (2 ^ n : Nat) - 1
  if x < lo then (unsign n lo, 1) else if hi < x then (unsign n hi, 1) else (unsign n x, 0)

/-- An `n`-bit element as an integer. -/
def iv (sg : Bool) (n v : Nat) : Int := if sg then signed n v else (v % 2 ^ n : Nat)

/-- Single-width OPIVV, OPIVX and OPIVI operations: `a` of vs2, `b` of vs1, rs1 or the immediate; the forms a code has are
1 vector, 2 scalar, 4 immediate. -/
def opI (f6 rm n a b : Nat) : Option (Nat × Fr) :=
  let sh := b % n
  let ok := fun (forms v : Nat) => some (forms, (v % 2 ^ n, 0))
  match f6 with
  | 0x00 => ok 7 (a + b)
  | 0x02 => ok 3 (a + 2 ^ n - b)
  | 0x03 => ok 6 (b + 2 ^ n - a)
  | 0x04 => ok 3 (min a b)
  | 0x05 => ok 3 (if sv n a < sv n b then a else b)
  | 0x06 => ok 3 (max a b)
  | 0x07 => ok 3 (if sv n a < sv n b then b else a)
  | 0x09 => ok 7 (a &&& b)
  | 0x0A => ok 7 (a ||| b)
  | 0x0B => ok 7 (a ^^^ b)
  | 0x20 => some (7, saturate n false (iv false n a + iv false n b))
  | 0x21 => some (7, saturate n true (iv true n a + iv true n b))
  | 0x22 => some (3, saturate n false (iv false n a - iv false n b))
  | 0x23 => some (3, saturate n true (iv true n a - iv true n b))
  | 0x25 => ok 7 (a <<< sh)
  | 0x27 => some (3, saturate n true (fixRound rm (iv true n a * iv true n b) (n - 1)))
  | 0x28 => ok 7 (a >>> sh)
  | 0x29 => ok 7 (sra n a sh)
  | 0x2A => ok 7 (unsign n (fixRound rm (iv false n a) sh))
  | 0x2B => ok 7 (unsign n (fixRound rm (iv true n a) sh))
  | _ => none

/-- Comparisons that write a mask, with their forms. -/
def opICmp (f6 n a b : Nat) : Option (Nat × Bool) :=
  let lt := decide (sv n a < sv n b)
  let gt := decide (sv n b < sv n a)
  match f6 with
  | 0x18 => some (7, a = b)
  | 0x19 => some (7, a ≠ b)
  | 0x1A => some (3, decide (a < b))
  | 0x1B => some (3, lt)
  | 0x1C => some (7, !decide (b < a))
  | 0x1D => some (7, !gt)
  | 0x1E => some (6, decide (b < a))
  | 0x1F => some (6, gt)
  | _ => none

/-- Narrowing operations: `a` of twice `n` bits. -/
def opINarrow (f6 rm n a b : Nat) : Option Fr :=
  let sh := b % (2 * n)
  match f6 with
  | 0x2C => some ((a >>> sh) % 2 ^ n, 0)
  | 0x2D => some (sra (2 * n) a sh % 2 ^ n, 0)
  | 0x2E => some (saturate n false (fixRound rm (iv false (2 * n) a) sh))
  | 0x2F => some (saturate n true (fixRound rm (iv true (2 * n) a) sh))
  | _ => none

/-- Single-width OPMVV and OPMVX operations on `a` of vs2 and `b`, with the old destination `d`. -/
def opM (f6 rm n a b d : Nat) : Option Nat :=
  let avg := fun (sg sub : Bool) =>
    unsign n (fixRound rm (if sub then iv sg n a - iv sg n b else iv sg n a + iv sg n b) 1)
  match f6 with
  | 0x08 => some (avg false false)
  | 0x09 => some (avg true false)
  | 0x0A => some (avg false true)
  | 0x0B => some (avg true true)
  | 0x20 => some (divide n false false a b)
  | 0x21 => some (divide n true false a b)
  | 0x22 => some (divide n false true a b)
  | 0x23 => some (divide n true true a b)
  | 0x24 => some (mulHigh n false false a b)
  | 0x25 => some (a * b % 2 ^ n)
  | 0x26 => some (mulHigh n true false a b)
  | 0x27 => some (mulHigh n true true a b)
  | 0x29 => some ((b * d + a) % 2 ^ n)
  | 0x2B => some (unsign n ((a : Int) - b * d))
  | 0x2D => some ((b * a + d) % 2 ^ n)
  | 0x2F => some (unsign n ((d : Int) - b * a))
  | _ => none

/-- Widening operations: `b` of `n` bits, `a` of `n` bits or, from 0x34 to 0x37, of `2 n`; `d` the old destination. -/
def opWide (f6 n a b d : Nat) : Option Nat :=
  let m := 2 * n
  let put := fun (x : Int) => some (unsign m x)
  let w := if 0x34 ≤ f6 ∧ f6 ≤ 0x37 then m else n
  match f6 with
  | 0x30 | 0x34 => put (iv false w a + iv false n b)
  | 0x31 | 0x35 => put (iv true w a + iv true n b)
  | 0x32 | 0x36 => put (iv false w a - iv false n b)
  | 0x33 | 0x37 => put (iv true w a - iv true n b)
  | 0x38 => put (iv false n a * iv false n b)
  | 0x3A => put (iv true n a * iv false n b)
  | 0x3B => put (iv true n a * iv true n b)
  | 0x3C => put (iv false n a * iv false n b + d)
  | 0x3D => put (iv true n a * iv true n b + d)
  | 0x3E => put (iv true n a * iv false n b + d)
  | 0x3F => put (iv false n a * iv true n b + d)
  | _ => none

/-- One step of an integer reduction. -/
def redStep (f6 n a b : Nat) : Nat :=
  match f6 with
  | 0 => (a + b) % 2 ^ n
  | 1 => a &&& b
  | 2 => a ||| b
  | 3 => a ^^^ b
  | 4 => min a b
  | 5 => if sv n a < sv n b then a else b
  | 6 => max a b
  | _ => if sv n a < sv n b then b else a

/-- The mask operations. -/
def maskOp (f6 : Nat) (a b : Bool) : Bool :=
  match f6 with
  | 0x18 => a && !b
  | 0x19 => a && b
  | 0x1A => a || b
  | 0x1B => a != b
  | 0x1C => a || !b
  | 0x1D => !(a && b)
  | 0x1E => !(a || b)
  | _ => !(a != b)

/-! ### Operands and checks -/

/-- The second operand of element `i` at width `n`: a vector element, the sign-extended immediate, or rs1. -/
def State.vop (s : State) (p w n i : Nat) : Nat :=
  match wF3 w with
  | 3 => sx 5 (wRs1 w) % 2 ^ n
  | 4 | 6 => s.xr p (wRs1 w) % 2 ^ n
  | _ => s.vel p (wRs1 w) n i

/-- The immediate of a shift, a slide or a gather is unsigned. -/
def State.vopU (s : State) (p w n i : Nat) : Nat := if wF3 w = 3 then wRs1 w else s.vop p w n i

/-- The form of the instruction: 1 vector, 2 scalar, 4 immediate. -/
def vform (w : Nat) : Nat :=
  match wF3 w with
  | 3 => 4
  | 4 | 5 | 6 => 2
  | _ => 1

/-- vs1 names a group when the form is a vector one. -/
def vs1Ok (w de dm n m : Nat) : Bool :=
  vform w ≠ 1 || (groupOk (wRs1 w) m && overlapOk (wRd w) de dm (wRs1 w) n m)

/-- Destination of width `de` and EMUL `dm` and vs2 of `n` and `m`, where the vs1 field names no register; a masked one leaves
v0 alone. -/
def vOkUnary (w de dm n m : Nat) : Bool :=
  groupOk (wRd w) dm && groupOk (wRs2 w) m && overlapOk (wRd w) de dm (wRs2 w) n m && de ≤ 64 && n ≤ 64
    && (bit w 25 || wRd w ≠ 0)

/-- The same with vs1 of `n1` and `m1`. -/
def vOk (w de dm n m n1 m1 : Nat) : Bool := vOkUnary w de dm n m && vs1Ok w de dm n1 m1

/-- A mask destination. -/
def vOkMask (w n m : Nat) : Bool := groupOk (wRs2 w) m && overlapOk (wRd w) 1 8 (wRs2 w) n m && vs1Ok w 1 8 n m

/-- Finish: a checked result, or an illegal instruction. -/
def vFin (s s' : State) (w next : Nat) (ok : Bool) : CoreRes Nat := if ok then (s', .ok next) else illegal s w

/-- The element is in the body and active. -/
def State.vbody (s : State) (p w : Nat) (t : Vt) : List Nat := (upFrom t.vstart (t.vl - t.vstart)).filter (s.active p w)

/-! ### Permutations -/

/-- vslideup, vslide1up and their kind: elements below `off` keep. -/
def State.vslideUp (s : State) (p w : Nat) (t : Vt) (off : Nat) (low : Option Nat) : State :=
  let t' := { t with vstart := if low.isSome then t.vstart else max t.vstart (min off t.vl) }
  s.vrun p w t' (wRd w) t.sew t.lmul8 0 fun i =>
    (if i < off then low.getD 0 else s.vel p (wRs2 w) t.sew (i - off), 0)

/-- vslidedown: past VLMAX it reads zero. -/
def State.vslideDown (s : State) (p w : Nat) (t : Vt) (off : Nat) (top : Option Nat) : State :=
  let m := vlmax t.sew t.lmul8
  s.vrun p w t (wRd w) t.sew t.lmul8 0 fun i =>
    (if top.isSome && i + 1 = t.vl then top.getD 0 else if i + off < m then s.vel p (wRs2 w) t.sew (i + off) else 0, 0)

/-- vrgather and vrgatherei16. -/
def State.vgather (s : State) (p w : Nat) (t : Vt) (ix : Nat → Nat) : State :=
  let m := vlmax t.sew t.lmul8
  s.vrun p w t (wRd w) t.sew t.lmul8 0 fun i => (if ix i < m then s.vel p (wRs2 w) t.sew (ix i) else 0, 0)

/-- vcompress: the elements that the mask picks, packed. -/
def State.vcompress (s : State) (p w : Nat) (t : Vt) : State :=
  let l := (upFrom 0 t.vl).filter (s.vbit p (wRs1 w))
  s.vrun p (w ||| 2 ^ 25) { t with vl := min t.vl l.length } (wRd w) t.sew t.lmul8 0
    fun i => (s.vel p (wRs2 w) t.sew (l.getD i 0), 0)

/-- vmv<n>r.v. -/
def State.vmvr (s : State) (p w next : Nat) : CoreRes Nat :=
  let n := wRs1 w + 1
  if !(n ∈ ([1, 2, 4, 8] : List Nat)) ∨ wRd w % n ≠ 0 ∨ wRs2 w % n ≠ 0 ∨ !bit w 25 then illegal s w else
  let s' := (upFrom 0 n).foldl (fun (x : State) k => x.vw p (wRd w + k) (s.vr p (wRs2 w + k))) s
  (s'.vecDone p, .ok next)

/-! ### Integer instructions -/

/-- OPIVV, OPIVX and OPIVI. -/
def State.vInt (s : State) (p w next : Nat) (t : Vt) : CoreRes Nat :=
  let f6 := bits w 31 26
  let n := t.sew
  let m := t.lmul8
  let vd := wRd w
  let rm := s.csr p 0x00A
  let a := fun (i : Nat) => s.vel p (wRs2 w) n i
  let ok := vOk w n m n m n m
  let vm := bit w 25
  if f6 = 0x17 then
    -- vmv.v and vmerge
    if vm && wRs2 w ≠ 0 then illegal s w else
    vFin s (s.vrun p (w ||| 2 ^ 25) t vd n m 0 fun i => (if vm || s.vbit p 0 i then s.vop p w n i else a i, 0)) w next ok
  else if f6 = 0x10 ∨ f6 = 0x12 then
    -- vadc and vsbc
    let sub := decide (f6 = 0x12)
    let c := fun (i : Nat) => b2n (s.vbit p 0 i)
    vFin s (s.vrun p (w ||| 2 ^ 25) t vd n m 0 fun i =>
      (if sub then unsign n ((a i : Int) - s.vop p w n i - c i) else (a i + s.vop p w n i + c i) % 2 ^ n, 0)) w next
      (ok && !vm && !(sub && wF3 w = 3))
  else if f6 = 0x11 ∨ f6 = 0x13 then
    -- vmadc and vmsbc
    let sub := decide (f6 = 0x13)
    let c := fun (i : Nat) => if vm then 0 else b2n (s.vbit p 0 i)
    vFin s (s.vrunMask p (w ||| 2 ^ 25) t vd 0 fun i =>
      (if sub then decide (a i < s.vop p w n i + c i) else decide (2 ^ n ≤ a i + s.vop p w n i + c i), 0)) w next
      (vOkMask w n m && !(sub && wF3 w = 3))
  else if 0x18 ≤ f6 ∧ f6 ≤ 0x1F then
    match opICmp f6 n 0 0 with
    | none => illegal s w
    | some (forms, _) =>
      vFin s (s.vrunMask p w t vd 0 fun i => (((opICmp f6 n (a i) (s.vop p w n i)).map (·.2)).getD false, 0)) w next
        (vOkMask w n m && forms &&& vform w ≠ 0)
  else if 0x2C ≤ f6 ∧ f6 ≤ 0x2F then
    vFin s (s.vrun p w t vd n m (b2n (decide (0x2E ≤ f6))) fun i =>
      (opINarrow f6 rm n (s.vel p (wRs2 w) (2 * n) i) (s.vopU p w n i)).getD (0, 0)) w next
      (vOk w n m (2 * n) (2 * m) n m)
  else if f6 = 0x30 ∨ f6 = 0x31 then
    -- vwredsumu and vwredsum
    let sg := decide (f6 = 0x31)
    let sum := (s.vbody p w t).foldl (fun (x : Int) i => x + iv sg n (a i)) (s.vel p (wRs1 w) (2 * n) 0)
    vFin s (if t.vl = 0 then s.vecDone p else s.vscalar p t vd (2 * n) (unsign (2 * n) sum)) w next
      (groupOk (wRs2 w) m && wF3 w = 0 && 2 * n ≤ 64 && t.vstart = 0)
  else if f6 = 0x0C then
    let ix := fun (i : Nat) => if wF3 w = 4 then s.xr p (wRs1 w) else s.vopU p w n i
    vFin s (s.vgather p w t ix) w next (ok && vd ≠ wRs2 w && (wF3 w ≠ 0 || vd ≠ wRs1 w))
  else if f6 = 0x0E then
    if wF3 w = 0 then
      vFin s (s.vgather p w t (s.vel p (wRs1 w) 16)) w next
        (vOk w n m n m 16 (16 * m / n) && vd ≠ wRs2 w)
    else
      let off := if wF3 w = 3 then wRs1 w else s.xr p (wRs1 w)
      vFin s (s.vslideUp p w t off none) w next (ok && vd ≠ wRs2 w)
  else if f6 = 0x0F then
    let off := if wF3 w = 3 then wRs1 w else s.xr p (wRs1 w)
    vFin s (s.vslideDown p w t off none) w next (ok && wF3 w ≠ 0)
  else if f6 = 0x27 ∧ wF3 w = 3 then s.vmvr p w next
  else
    let b := fun (i : Nat) => if 0x25 ≤ f6 then s.vopU p w n i else s.vop p w n i
    match opI f6 rm n 0 0 with
    | none => illegal s w
    | some (forms, _) =>
      let k := b2n ((0x20 ≤ f6 && f6 ≤ 0x23) || f6 = 0x27)
      vFin s (s.vrun p w t vd n m k fun i => ((opI f6 rm n (a i) (b i)).map (·.2)).getD (0, 0)) w next
        (ok && forms &&& vform w ≠ 0)

/-- The number of set bits of a mask before element `i`, among active ones. -/
def State.viotaAt (s : State) (p w : Nat) (t : Vt) (i : Nat) : Nat :=
  ((s.vbody p w t).filter fun j => decide (j < i) && s.vbit p (wRs2 w) j).length

/-- VMUNARY0: vmsbf, vmsof, vmsif, viota and vid. -/
def State.vMaskUnary (s : State) (p w next : Nat) (t : Vt) : CoreRes Nat :=
  let first := (s.vbody p w t).find? (s.vbit p (wRs2 w))
  let set := fun (f : Nat → Option Nat → Bool) =>
    vFin s (s.vrunMask p w t (wRd w) 0 fun i => (f i first, 0)) w next
      (wRd w ≠ wRs2 w && (bit w 25 || wRd w ≠ 0) && t.vstart = 0)
  match wRs1 w with
  | 1 => set fun i f => f.all fun k => decide (i < k)
  | 2 => set fun i f => f = some i
  | 3 => set fun i f => f.all fun k => decide (i ≤ k)
  | 0x10 =>
    vFin s (s.vrun p w t (wRd w) t.sew t.lmul8 0 fun i => (s.viotaAt p w t i % 2 ^ t.sew, 0)) w next
      (groupOk (wRd w) t.lmul8 && overlapOk (wRd w) t.sew t.lmul8 (wRs2 w) 1 8 && wRd w ≠ wRs2 w
        && (bit w 25 || wRd w ≠ 0) && t.vstart = 0)
  | 0x11 =>
    vFin s (s.vrun p w t (wRd w) t.sew t.lmul8 0 fun i => (i % 2 ^ t.sew, 0)) w next
      (groupOk (wRd w) t.lmul8 && wRs2 w = 0 && (bit w 25 || wRd w ≠ 0))
  | _ => illegal s w

/-- VXUNARY0: zero and sign extension from an eighth, a quarter or a half of the width. -/
def State.vExtend (s : State) (p w next : Nat) (t : Vt) : CoreRes Nat :=
  let k := wRs1 w
  if k < 2 ∨ 7 < k then illegal s w else
  let div := if k < 4 then 8 else if k < 6 then 4 else 2
  let n := t.sew / div
  let sg := k % 2 = 1
  vFin s (s.vrun p w t (wRd w) t.sew t.lmul8 0 fun i =>
    let a := s.vel p (wRs2 w) n i
    (if sg then unsign t.sew (Machine.signed n a) else a, 0)) w next
    (8 ≤ n && vOkUnary w t.sew t.lmul8 n (t.lmul8 / div))

/-- OPMVV and OPMVX. -/
def State.vMul (s : State) (p w next : Nat) (t : Vt) : CoreRes Nat :=
  let f6 := bits w 31 26
  let n := t.sew
  let m := t.lmul8
  let vd := wRd w
  let vv := wF3 w = 2
  let a := fun (i : Nat) => s.vel p (wRs2 w) n i
  let ok := vOk w n m n m n m
  if f6 ≤ 7 then
    let r := (s.vbody p w t).foldl (fun x i => redStep f6 n x (a i)) (s.vel p (wRs1 w) n 0)
    vFin s (if t.vl = 0 then s.vecDone p else s.vscalar p t vd n r) w next (vv && groupOk (wRs2 w) m && t.vstart = 0)
  else if f6 = 0x0E then
    vFin s (s.vslideUp p w t 1 (some (s.xr p (wRs1 w) % 2 ^ n))) w next (!vv && ok && vd ≠ wRs2 w)
  else if f6 = 0x0F then
    vFin s (s.vslideDown p w t 1 (some (s.xr p (wRs1 w) % 2 ^ n))) w next (!vv && ok)
  else if f6 = 0x10 then
    if !vv then
      vFin s (if t.vl ≤ t.vstart then s.vecDone p else s.vscalar p t vd n (s.xr p (wRs1 w) % 2 ^ n)) w next
        (wRs2 w = 0 && bit w 25)
    else match wRs1 w with
      | 0 => vFin s ((s.xw p vd (sx n (a 0))).vecDone p) w next (bit w 25)
      | 0x10 =>
        vFin s ((s.xw p vd ((s.vbody p w t).filter (s.vbit p (wRs2 w))).length).vecDone p) w next (t.vstart = 0)
      | 0x11 =>
        let r := ((s.vbody p w t).find? (s.vbit p (wRs2 w))).getD (two64 - 1)
        vFin s ((s.xw p vd r).vecDone p) w next (t.vstart = 0)
      | _ => illegal s w
  else if f6 = 0x12 then (if vv then s.vExtend p w next t else illegal s w)
  else if f6 = 0x14 then (if vv then s.vMaskUnary p w next t else illegal s w)
  else if f6 = 0x17 then
    vFin s (s.vcompress p w t) w next (vv && groupOk vd m && groupOk (wRs2 w) m && vd ≠ wRs2 w && bit w 25
      && overlapOk vd n m (wRs1 w) 1 8 && t.vstart = 0)
  else if 0x18 ≤ f6 ∧ f6 ≤ 0x1F then
    vFin s (s.vrunMask p w t vd 0 fun i => (maskOp f6 (s.vbit p (wRs2 w) i) (s.vbit p (wRs1 w) i), 0)) w next
      (vv && bit w 25)
  else if 0x30 ≤ f6 then
    let w2 := if 0x34 ≤ f6 ∧ f6 ≤ 0x37 then 2 else 1
    match opWide f6 n 0 0 0 with
    | none => illegal s w
    | some _ =>
      vFin s (s.vrun p w t vd (2 * n) (2 * m) 0 fun i =>
        ((opWide f6 n (s.vel p (wRs2 w) (w2 * n) i) (s.vop p w n i) (s.vel p vd (2 * n) i)).getD 0, 0)) w next
        (vOk w (2 * n) (2 * m) (w2 * n) (w2 * m) n m && !(f6 = 0x3E && vv))
  else
    let rm := s.csr p 0x00A
    match opM f6 rm n 0 0 0 with
    | none => illegal s w
    | some _ =>
      vFin s (s.vrun p w t vd n m 0 fun i =>
        ((opM f6 rm n (a i) (s.vop p w n i) (s.vel p vd n i)).getD 0, 0)) w next ok

/-! ### Floating-point instructions -/

/-- The format of an element width. -/
def fmtOfWidth : Nat → Option Ieee
  | 16 => some fp16
  | 32 => some fp32
  | 64 => some fp64
  | _ => none

/-- Single-width operations on `a` of vs2 and `b` of vs1 or rs1, with their forms. -/
def opF (f : Ieee) (f6 rm a b : Nat) : Option (Nat × Fr) :=
  match f6 with
  | 0 => some (3, f.fadd rm a b)
  | 2 => some (3, f.fsub rm a b)
  | 4 => some (3, f.fminmax false a b)
  | 6 => some (3, f.fminmax true a b)
  | 8 => some (3, f.fsgnj 0 a b, 0)
  | 9 => some (3, f.fsgnj 1 a b, 0)
  | 0xA => some (3, f.fsgnj 2 a b, 0)
  | 0x20 => some (3, f.fdiv rm a b)
  | 0x21 => some (2, f.fdiv rm b a)
  | 0x24 => some (3, f.fmul rm a b)
  | 0x27 => some (2, f.fsub rm b a)
  | _ => none

/-- Turn the sign, unless it is a NaN. -/
def Ieee.minus (f : Ieee) (a : Nat) : Nat := if f.isNan a then a else f.flip a

/-- Multiply-adds: the product's factors and the addend by code: `a` of vs2, `b` of vs1 or rs1, `d` of vd. -/
def opFma (f : Ieee) (k rm a b d : Nat) : Fr :=
  let (x, y, z) := if k % 8 < 4 then (b, d, a) else (b, a, d)
  match k % 4 with
  | 0 => f.fma rm x y z
  | 1 => f.fma rm (f.minus x) y (f.minus z)
  | 2 => f.fma rm x y (f.minus z)
  | _ => f.fma rm (f.minus x) y z

/-- Comparisons that write a mask. -/
def opFCmp (f : Ieee) (f6 a b : Nat) : Option (Nat × Fr) :=
  match f6 with
  | 0x18 => some (3, f.fcmp 2 a b)
  | 0x19 => some (3, f.fcmp 0 a b)
  | 0x1B => some (3, f.fcmp 1 a b)
  | 0x1C => some (3, 1 - (f.fcmp 2 a b).1, (f.fcmp 2 a b).2)
  | 0x1D => some (2, f.fcmp 1 b a)
  | 0x1F => some (2, f.fcmp 0 b a)
  | _ => none

/-- The second floating-point operand. -/
def State.vfop (s : State) (p w : Nat) (f : Ieee) (i : Nat) : Nat :=
  if wF3 w = 5 then s.frx p f (wRs1 w) else s.vel p (wRs1 w) f.width i

/-- Single-width conversions of VFUNARY0. -/
def cvtF (f : Ieee) (k rm a : Nat) : Option Fr :=
  match k with
  | 0 => some (f.toInt rm false f.width a)
  | 1 => some (f.toInt rm true f.width a)
  | 2 => some (f.ofInt rm false f.width a)
  | 3 => some (f.ofInt rm true f.width a)
  | 6 => some (f.toInt 1 false f.width a)
  | 7 => some (f.toInt 1 true f.width a)
  | _ => none

/-- Widening conversions from `n` bits; the integers of 8 bits widen to FP16. -/
def cvtWide (k rm n a : Nat) : Option Fr :=
  let wide := fmtOfWidth (2 * n)
  let own := fmtOfWidth n
  match k with
  | 0x8 => own.map fun f => f.toInt rm false (2 * n) a
  | 0x9 => own.map fun f => f.toInt rm true (2 * n) a
  | 0xA => wide.map fun f => f.ofInt rm false n a
  | 0xB => wide.map fun f => f.ofInt rm true n a
  | 0xC => own.bind fun f => wide.map fun g => fcvt f g rm a
  | 0xD => if n = 16 then some (fcvt bf16 fp32 rm a) else none
  | 0xE => own.map fun f => f.toInt 1 false (2 * n) a
  | 0xF => own.map fun f => f.toInt 1 true (2 * n) a
  | _ => none

/-- Narrowing conversions to `n` bits. -/
def cvtNarrow (k rm n a : Nat) : Option Fr :=
  let wide := fmtOfWidth (2 * n)
  let own := fmtOfWidth n
  match k with
  | 0x10 => wide.map fun f => f.toInt rm false n a
  | 0x11 => wide.map fun f => f.toInt rm true n a
  | 0x12 => own.map fun f => f.ofInt rm false (2 * n) a
  | 0x13 => own.map fun f => f.ofInt rm true (2 * n) a
  | 0x14 => wide.bind fun g => own.map fun f => fcvt g f rm a
  | 0x15 => wide.bind fun g => own.map fun f => fcvt g f 5 a
  | 0x16 => wide.map fun f => f.toInt 1 false n a
  | 0x17 => wide.map fun f => f.toInt 1 true n a
  | 0x1D => if n = 16 then some (fcvt fp32 bf16 rm a) else none
  | _ => none

/-- VFUNARY0: the conversions. -/
def State.vfConvert (s : State) (p w next : Nat) (t : Vt) (rm : Nat) : CoreRes Nat :=
  let k := wRs1 w
  let n := t.sew
  let m := t.lmul8
  let vd := wRd w
  if k < 8 then
    match fmtOfWidth n with
    | none => illegal s w
    | some f =>
      if cvtF f k rm 0 = none then illegal s w else
      vFin s (s.vrun p w t vd n m 2 fun i => (cvtF f k rm (s.vel p (wRs2 w) n i)).getD (0, 0)) w next
        (vOkUnary w n m n m)
  else if k < 16 then
    if cvtWide k rm n 0 = none then illegal s w else
    vFin s (s.vrun p w t vd (2 * n) (2 * m) 2 fun i => (cvtWide k rm n (s.vel p (wRs2 w) n i)).getD (0, 0)) w next
      (vOkUnary w (2 * n) (2 * m) n m)
  else
    if cvtNarrow k rm n 0 = none then illegal s w else
    vFin s (s.vrun p w t vd n m 2 fun i => (cvtNarrow k rm n (s.vel p (wRs2 w) (2 * n) i)).getD (0, 0)) w next
      (vOkUnary w n m (2 * n) (2 * m))

/-- VFUNARY1: square root, the 7-bit estimates and the class. -/
def State.vfUnary (s : State) (p w next : Nat) (t : Vt) (f : Ieee) (rm : Nat) : CoreRes Nat :=
  let go := fun (g : Nat → Fr) =>
    vFin s (s.vrun p w t (wRd w) t.sew t.lmul8 2 fun i => g (s.vel p (wRs2 w) t.sew i)) w next
      (groupOk (wRd w) t.lmul8 && groupOk (wRs2 w) t.lmul8 && (bit w 25 || wRd w ≠ 0))
  match wRs1 w with
  | 0 => go (f.fsqrt rm)
  | 4 => go f.frsqrt7
  | 5 => go (f.frec7 rm)
  | 0x10 => go fun a => (f.fclass a, 0)
  | _ => illegal s w

/-- A floating-point reduction: minimum, maximum or the ordered sum, from element 0 of vs1 of format `g`; elements of
format `f`. -/
def State.vfReduce (s : State) (p w : Nat) (t : Vt) (f g : Ieee) (step : Nat → Nat → Fr) : State :=
  if t.vl = 0 then s.vecDone p else
  let r := (s.vbody p w t).foldl (fun (x : Fr) i =>
    let c := if f = g then (s.vel p (wRs2 w) f.width i, 0) else fcvt f g 0 (s.vel p (wRs2 w) f.width i)
    let y := step x.1 c.1
    (y.1, x.2 ||| y.2 ||| c.2)) (s.vel p (wRs1 w) g.width 0, 0)
  (s.vscalar p t (wRd w) g.width r.1).fflag p r.2

/-- An unordered sum: its order is the implementation's, so sum and flags are free values (log entry 3). -/
def State.vfUnordered (s : State) (p w : Nat) (t : Vt) (g : Ieee) : State :=
  if t.vl = 0 then s.vecDone p else
  ((s.bump.vscalar p t (wRd w) g.width (s.freeBits g.width)).fflag p (s.freeBits 69 / 2 ^ 64 &&& 0x17)).bump

/-- Widening operations of format `f` into `g`: their operands converted, then one operation. -/
def opFWide (f g : Ieee) (f6 rm a b d : Nat) : Option Fr :=
  let wa := if f6 = 0x34 ∨ f6 = 0x36 then (a, 0) else fcvt f g 0 a
  let wb := fcvt f g 0 b
  let fl := fun (r : Fr) => some (r.1, r.2 ||| wa.2 ||| wb.2)
  match f6 with
  | 0x30 | 0x34 => fl (g.fadd rm wa.1 wb.1)
  | 0x32 | 0x36 => fl (g.fsub rm wa.1 wb.1)
  | 0x38 => fl (g.fmul rm wa.1 wb.1)
  | 0x3B | 0x3C => fl (g.fma rm wb.1 wa.1 d)
  | 0x3D => fl (g.fma rm (g.minus wb.1) wa.1 (g.minus d))
  | 0x3E => fl (g.fma rm wb.1 wa.1 (g.minus d))
  | 0x3F => fl (g.fma rm (g.minus wb.1) wa.1 d)
  | _ => none

/-- The widening group: vfwredusum, vfwredosum and the rest; vfwmaccbf16 takes BF16 sources. -/
def State.vfWide (s : State) (p w next : Nat) (t : Vt) (f g : Ieee) (rm : Nat) : CoreRes Nat :=
  let f6 := bits w 31 26
  let n := t.sew
  let m := t.lmul8
  let src := if f6 = 0x3B then bf16 else f
  let redOk := groupOk (wRs2 w) m && wF3 w = 1 && t.vstart = 0
  if f6 = 0x31 then vFin s (s.vfUnordered p w t g) w next redOk
  else if f6 = 0x33 then vFin s (s.vfReduce p w t f g (g.fadd rm)) w next redOk
  else if opFWide src g f6 rm 0 0 0 = none ∨ (f6 = 0x3B ∧ n ≠ 16) then illegal s w
  else
    let w2 := if f6 = 0x34 ∨ f6 = 0x36 then 2 else 1
    vFin s (s.vrun p w t (wRd w) (2 * n) (2 * m) 2 fun i =>
      (opFWide src g f6 rm (s.vel p (wRs2 w) (w2 * n) i) (s.vfop p w src i) (s.vel p (wRd w) (2 * n) i)).getD (0, 0)) w next
      (vOk w (2 * n) (2 * m) (w2 * n) (w2 * m) n m)

/-- OPFVV and OPFVF of a width that has a format. -/
def State.vFpOp (s : State) (p w next : Nat) (t : Vt) (f : Ieee) (rm : Nat) : CoreRes Nat :=
  let f6 := bits w 31 26
  let n := t.sew
  let m := t.lmul8
  let vd := wRd w
  let vv := wF3 w = 1
  let a := fun (i : Nat) => s.vel p (wRs2 w) n i
  let b := fun (i : Nat) => s.vfop p w f i
  let ok := vOk w n m n m n m
  let redOk := vv && groupOk (wRs2 w) m && t.vstart = 0
  match f6 with
  | 1 => vFin s (s.vfUnordered p w t f) w next redOk
  | 3 => vFin s (s.vfReduce p w t f f (f.fadd rm)) w next redOk
  | 5 => vFin s (s.vfReduce p w t f f (f.fminmax false)) w next redOk
  | 7 => vFin s (s.vfReduce p w t f f (f.fminmax true)) w next redOk
  | 0xE => vFin s (s.vslideUp p w t 1 (some (b 0))) w next (!vv && ok && vd ≠ wRs2 w)
  | 0xF => vFin s (s.vslideDown p w t 1 (some (b 0))) w next (!vv && ok)
  | 0x10 =>
    if vv then vFin s ((s.fwx p f vd (a 0)).vecDone p) w next (wRs1 w = 0 && bit w 25)
    else vFin s (if t.vl ≤ t.vstart then s.vecDone p else s.vscalar p t vd n (b 0)) w next (wRs2 w = 0 && bit w 25)
  | 0x13 => if vv then s.vfUnary p w next t f rm else illegal s w
  | 0x17 =>
    let vm := bit w 25
    vFin s (s.vrun p (w ||| 2 ^ 25) t vd n m 0 fun i => (if vm || s.vbit p 0 i then b i else a i, 0)) w next
      (!vv && ok && (!vm || wRs2 w = 0))
  | _ =>
    if 0x18 ≤ f6 ∧ f6 ≤ 0x1F then
      match opFCmp f f6 0 0 with
      | none => illegal s w
      | some (forms, _) =>
        vFin s (s.vrunMask p w t vd 2 fun i =>
          let r := ((opFCmp f f6 (a i) (b i)).map (·.2)).getD (0, 0)
          (r.1 = 1, r.2)) w next (vOkMask w n m && forms &&& vform w ≠ 0)
    else if 0x28 ≤ f6 ∧ f6 ≤ 0x2F then
      let k := f6 - 0x28
      vFin s (s.vrun p w t vd n m 2 fun i => opFma f k rm (a i) (b i) (s.vel p vd n i)) w next ok
    else if 0x30 ≤ f6 then
      match fmtOfWidth (2 * n) with
      | some g => s.vfWide p w next t f g rm
      | none => illegal s w
    else match opF f f6 rm 0 0 with
      | none => illegal s w
      | some (forms, _) =>
        vFin s (s.vrun p w t vd n m 2 fun i => ((opF f f6 rm (a i) (b i)).map (·.2)).getD (0, 0)) w next
          (ok && forms &&& vform w ≠ 0)

/-- OPFVV and OPFVF. -/
def State.vFp (s : State) (p w next : Nat) (t : Vt) : CoreRes Nat :=
  match s.rmOf p 7 with
  | none => illegal s w
  | some rm =>
    if s.mst p 14 13 = 0 then illegal s w
    else if bits w 31 26 = 0x12 then (if wF3 w = 1 then s.vfConvert p w next t rm else illegal s w)
    else match fmtOfWidth t.sew with
      | none => illegal s w
      | some f => s.vFpOp p w next t f rm

/-- OP-V. -/
def State.vecOp (s : State) (p w next : Nat) : CoreRes Nat :=
  if !s.vecOn p then illegal s w
  else if wF3 w = 7 then s.vsetOp p w next
  else if wF3 w = 3 ∧ bits w 31 26 = 0x27 then s.vmvr p w next
  else match s.vt p with
    | none => illegal s w
    | some t =>
      if wF3 w = 2 ∨ wF3 w = 6 then s.vMul p w next t
      else if wF3 w = 1 ∨ wF3 w = 5 then s.vFp p w next t
      else s.vInt p w next t

end Sys2Proof.Machine
end

