-- ==== Sys2Proof/Machine/Rv.lean ====
section
/-! DEFINITION. The pool core: one instruction (R144). -/

namespace Sys2Proof.Machine

/-- Run the 32-bit instruction `w`; the answer is the address of the next one. -/
def State.coreExec (s : State) (env : Env) (p w next : Nat) : CoreRes Nat :=
  let pc := (s.core p).pc
  let a := s.xr p (wRs1 w)
  let b := s.xr p (wRs2 w)
  match w % 128 with
  | 0x03 => s.coreLoad env p w next
  | 0x07 => if fpWidth (wF3 w) = none then s.vmem env p w next false else s.fpLoad env p w next
  | 0x0F => s.coreMisc env p w next
  | 0x13 => s.result p w next (opImm (wF3 w) (bits w 31 20) a)
  | 0x17 => s.result p w next (some (pc + immU w))
  | 0x1B => s.result p w next (opImm32 (wF3 w) (bits w 31 20) a)
  | 0x23 => s.coreStore env p w next
  | 0x27 => if fpWidth (wF3 w) = none then s.vmem env p w next true else s.fpStore env p w next
  | 0x2F => s.coreAmo env p w next
  | 0x33 => s.result p w next (opReg (wF7 w) (wF3 w) a b)
  | 0x37 => s.result p w next (some (immU w))
  | 0x3B => s.result p w next (opReg32 (wF7 w) (wF3 w) (wRs2 w) a b)
  | 0x43 | 0x47 | 0x4B | 0x4F => s.fpFma p w next
  | 0x53 => s.fpOp p w next
  | 0x57 => s.vecOp p w next
  | 0x63 =>
    match branchTaken (wF3 w) a b with
    | some t => (s, .ok (if t then (pc + immB w) % two64 else next))
    | none => illegal s w
  | 0x67 => if wF3 w = 0 then (s.xw p (wRd w) next, .ok ((a + immI w) % two64 / 2 * 2)) else illegal s w
  | 0x6F => (s.xw p (wRd w) next, .ok ((pc + immJ w) % two64))
  | 0x73 => s.coreSystem p w next
  | _ => illegal s w

/-- Fetch the instruction at the program counter and run it: one parcel, or two (R144). -/
def State.coreStep (s : State) (env : Env) (p : Nat) : CoreRes Nat :=
  let pc := (s.core p).pc
  (s.fetchParcel env p pc).andThen fun s h =>
    if h % 4 = 3 then
      (s.fetchParcel env p (pc + 2)).andThen fun s g => s.coreExec env p (h + g * 65536) ((pc + 4) % two64)
    else match expandC h with
      | none => illegal s h
      | some w => s.coreExec env p w ((pc + 2) % two64)

/-- The instruction retires: the program counter moves and instret counts. -/
def State.coreRetire (s : State) (p next : Nat) : State :=
  let s := s.withCore p fun c => { c with pc := next }
  if bit (s.csr p 0x320) 2 then s else s.setCsr p 0xB02 (s.csr p 0xB02 + 1)

/-- POOL_CORE_INSTRUCTION: a running core takes an interrupt that is due, or executes one instruction; waiting in WFI, it
stays until an interrupt is pending (R144, R146, R154). -/
def doPoolCoreInstruction (p : Nat) (env : Env) (s : State) : State :=
  if !s.coreRuns p then s else
  let s := doMtimeCompare p s
  let ready := s.mip p &&& s.csr p 0x304 ≠ 0
  if (s.core p).waiting ∧ !ready then s else
  let s := s.withCore p fun c => { c with waiting := false }
  match s.irqDue p with
  | some cause => s.trap p true cause 0
  | none =>
    match s.coreStep env p with
    | (s, .ok next) => s.coreRetire p next
    | (s, .error .halted) => s
    | (s, .error (.exc cause tval)) => s.trap p false cause tval

def execPoolCoreInstruction (p : Nat) (env : Env) (s : State) : Host.Outcome State Fault Refusal :=
  done (doPoolCoreInstruction p env s)

end Sys2Proof.Machine
end

