-- ==== Sys2Proof/Machine/Update.lean ====
section
/-! DEFINITION. The Update Engine between a bucket's sum and its gather: the start of an update, its end, and the
arming of the mirror stream (spec/08 R185 to R200, spec/09 R218, R219). -/

namespace Sys2Proof.Machine

/-- Buckets that the engine of a tier updates. -/
def State.updating (s : State) (tier : Nat) : Nat :=
  (s.buckets.filter fun b => b.2.2.2.st = 4 && b.2.2.2.tier = tier).length

/-- When the last condition of a waiting bucket was met (R191). -/
def State.metAt (s : State) (b : OwnBkt) : Nat := max (b.readyAt.getD 0) (sget 0 s.cas.freeAt b.tier)

/-- The bucket that leaves WAIT_GATE next on a tier (R191). -/
def State.nextUpdate (s : State) (tier : Nat) : Option (Nat × Nat × Nat) :=
  (s.buckets.filter fun b => b.2.2.2.tier = tier && s.gateOpen b.1 b.2.1 b.2.2.1).foldl
    (fun (a : Option (Nat × Nat × Nat)) b =>
      match a with
      | none => some (b.1, b.2.1, b.2.2.1)
      | some (p, g, t) =>
        let x := s.metAt (s.own p g t)
        let y := s.metAt b.2.2.2
        if y < x ∨ (y = x ∧ b.2.2.1 < t) then some (b.1, b.2.1, b.2.2.1) else a) none

/-- What an update does, from its record and sum (R186, R192): the plan of `OwnBkt.plan`. -/
def OwnBkt.planOf (b : OwnBkt) (u : Upd) : Nat :=
  if !b.recOk || u.rejected b.elems then 4
  else
    let d := signed 16 (b.epoch + 65536 - u.lastEpoch)
    if d = 0 then 1
    else if d ≠ 1 then 3
    else if u.nfSkip && (upFrom 0 b.elems).any (fun e => !ffin (sget 0 b.sum e)) then 2
    else 0

/-- UPDATE_START: the next bucket of a tier is UPDATING, unless four are; its record is read and its epoch checked, and the mirror stream
sees the step that it applies (R185, R186, R191, R192, R197, R198). -/
def doUpdateStart (tier : Nat) (env : Env) (s : State) : State :=
  if s.stopped ∨ 4 ≤ s.updating tier then s else
  match s.nextUpdate tier with
  | none => s
  | some (part, g, tag) =>
    let b := s.own part g tag
    match s.readVa env (casRq part tier) b.recVa 192 with
    | (s, r, d) =>
      let b := { b with st := 4, applied := none, rec_ := d, recOk := decide (r = Resp.okay) }
      let b := { b with plan := b.planOf (updOf d) }
      let s := s.modOwn part g tag fun _ => b
      match b.plan with
      | 3 => s.updErr 3 part tier b.epoch 0
      | 4 => if b.recOk then s.updErr 0 part tier b.epoch 0 else s.updErr 1 part tier b.epoch 0
      | n =>
        let s := if n = 2 then s.updErr 4 part tier b.epoch 0 else s
        ((s.mirrorLag part b.epoch).mirrorStart env part b.epoch).settleNotes env

def execUpdateStart (tier : Nat) (env : Env) (s : State) : Host.Outcome State Fault Refusal :=
  done (doUpdateStart tier env s)

/-- Write the running powers and the epoch of a record back (R185). -/
def State.recordBack (s : State) (env : Env) (part tier va b1 b2 epoch mir : Nat) : State × Bool :=
  match s.writeVa env (casRq part tier) (va + 112) (toLe 4 b1 ++ toLe 4 b2 ++ toLe 2 epoch ++ toLe 2 mir) with
  | (s, r) => (s, decide (r = Resp.okay))

/-- The effect of an update on memory (R185, R187 to R193): the status and the first failing element. -/
def State.updRun (s : State) (env : Env) (part : Nat) (b : OwnBkt) : State × Nat × Nat :=
  let u := updOf b.rec_
  let mir := u.mirDone
  match b.plan with
  | 1 => (s, 0, 0)
  | 2 =>
    match s.recordBack env part b.tier b.recVa u.b1pow u.b2pow b.epoch mir with
    | (s, true) => (s, 1, 0)
    | (s, false) => (s.updErr 2 part b.tier b.epoch 0, 5, 0)
  | 3 => (s, 2, 0)
  | 4 => (s, 3, 0)
  | _ =>
    match s.updPass env part b.tier u (fun e => sget 0 b.sum e) with
    | (s, o) =>
      let s := s.count 0x0601 b.tier (ofPart part) u.count
      let k := u.consts
      match s.recordBack env part b.tier b.recVa (if u.alg = 2 then k.b1p else u.b1pow) (if u.alg = 2 then k.b2p else u.b2pow)
          b.epoch mir with
      | (s, ok) =>
        let wr := if ok then o.wr else some (o.wr.getD 0)
        let s := match o.ue with
          | some e => s.updErr 1 part b.tier b.epoch e
          | none => s
        let s := match wr with
          | some e => s.updErr 2 part b.tier b.epoch e
          | none => s
        (s, if wr.isSome then 5 else if o.ue.isSome then 4 else 0, (firstOf o.ue wr).getD 0)

/-- The owner's own part of a gather: the halves copied to CAS_BD_PARAM_VA when that is another address, its shard record,
and its own post (R218). -/
def State.gatherOwn (s : State) (env : Env) (part g tag : Nat) (h : GroupHdr) (bytes : List Byte) (a : Nat) : State :=
  let b := s.own part g tag
  let ep := (b.gEpoch + 1) % 65536
  match s.bd env part g h tag with
  | (s, none) => s.postDone env part g tag 8
  | (s, some d) =>
    let w := if d.param = a then (s, Resp.okay) else s.writeVa env (casRq part d.tier) d.param bytes
    if w.2 ≠ .okay then
      (w.1.gatherFailed env part d.tier g tag d.shr d.tensor ep 0 (2 * d.count) h.self_).postDone env part g tag 8
    else
      let c := crc64 bytes
      let r := w.1.putShard env (casRq part d.tier) d.shr d.tensor ep tag 0 1 c c (2 * d.count)
      if r.2 then r.1.postDone env part g tag b.status
      else (r.1.casErr 6 part g tag ep h.self_).postDone env part g tag 8

/-- The engine hands a completed bucket to the Cascade: its units are released, what waited for the update is served and
the gather is sent (R218, R219, R227). -/
def State.handBack (s : State) (env : Env) (part g tag : Nat) : State :=
  match s.grp part g with
  | none => s
  | some x =>
    let b := x.ownOf tag
    match s.halves env part b.tier b.recVa b.elems with
    | (s, bytes, le, a) =>
      let others := (upFrom 0 x.hdr.n).filter fun r => r ≠ x.hdr.self_
      let s := s.modOwn part g tag fun b =>
        { b with st := 5, sum := [], reqs := [], awaiting := others,
                 gEpoch := if b.status = 3 then (b.epoch + 65535) % 65536 else le }
      let s := s.cisRelease env part b.tier
      let s := match s.bd env part g x.hdr tag with
        | (s, some d) => b.reqs.foldl (fun (s : State) r => s.serveRegather env part g tag r x.hdr d) s
        | (s, none) => s
      let s := others.foldl (fun (s : State) r => s.sendGather env part g tag r bytes) s
      (s.gatherOwn env part g tag x.hdr bytes a).retire env part g tag

/-- UPDATE_DONE: every write response of the pass has returned (R185 to R193, R197, R218, R231). -/
def doUpdateDone (part g tag : Nat) (env : Env) (s : State) : State :=
  let b := s.own part g tag
  if s.stopped ∨ b.st ≠ 4 then s else
  let full := decide (4 ≤ s.updating b.tier)
  let u := updOf b.rec_
  match s.updRun env part b with
  | (s, status, elem) =>
    let s := if status = 0 then s else
      s.event part 0x0202 (toLe 8 b.recVa ++ toLe 2 b.epoch ++ toLe 1 status ++ toLe 4 elem)
    let s := if b.plan < 3 then
        (s.modOwn part g tag fun b => { b with applied := some (b.epoch, b.rec_) }).mirrorStream env part g tag b.epoch b.recVa u
      else s
    let s := if full then { s with cas := { s.cas with freeAt := sput 0 s.cas.freeAt b.tier s.ns } } else s
    let s := s.modOwn part g tag fun b => { b with status := status }
    (if s.grpState part g = 3 then
      ((s.modOwn part g tag fun _ => {}).cisRelease env part b.tier).grpIdle part g
    else (s.handBack env part g tag).gateMarks).settleNotes env

def execUpdateDone (part g tag : Nat) (env : Env) (s : State) : Host.Outcome State Fault Refusal :=
  done (doUpdateDone part g tag env s)

/-- UPD_MIR_ENABLE: a write of UPD_MIR_CTRL (R194, R199). -/
def doUpdMirEnable (fn value : Nat) (s : State) : State := if s.fnOpen fn then s.mirCtrl fn value else s

def execUpdMirEnable (fn value : Nat) (s : State) : Host.Outcome State Fault Refusal := done (doUpdMirEnable fn value s)

end Sys2Proof.Machine
end

