-- ==== Sys2Proof/Machine/Dispatch.lean ====
section
/-! DEFINITION. The dispatch of commands to their meanings, one arm for each constructor of Instr. -/

namespace Sys2Proof.Machine

def exec (i : Instr) (s : State) : Host.Outcome State Fault Refusal :=
  match i with
  | .registerWrite fn off size value env => Sys2Proof.Machine.execRegisterWrite fn off size value env s
  | .registerAccessError fn off size write value => Sys2Proof.Machine.execRegisterAccessError fn off size write value s
  | .poolTqPush p => Sys2Proof.Machine.execPoolTqPush p s
  | .mma p env => Sys2Proof.Machine.execMma p env s
  | .out p env => Sys2Proof.Machine.execOut p env s
  | .accLoad p env => Sys2Proof.Machine.execAccLoad p env s
  | .accStore p env => Sys2Proof.Machine.execAccStore p env s
  | .clear p env => Sys2Proof.Machine.execClear p env s
  | .tableLoad p env => Sys2Proof.Machine.execTableLoad p env s
  | .tieSum p env => Sys2Proof.Machine.execTieSum p env s
  | .attRescale p env => Sys2Proof.Machine.execAttRescale p env s
  | .outputPath p guest env => Sys2Proof.Machine.execOutputPath p guest env s
  | .tileOpComplete p guest k env => Sys2Proof.Machine.execTileOpComplete p guest k env s
  | .guestYield p => Sys2Proof.Machine.execGuestYield p s
  | .guestTileIssue p n env => Sys2Proof.Machine.execGuestTileIssue p n env s
  | .poolSgArm p n value => Sys2Proof.Machine.execPoolSgArm p n value s
  | .poolSgDisarm p n value => Sys2Proof.Machine.execPoolSgDisarm p n value s
  | .shardGuardCheck p n env => Sys2Proof.Machine.execShardGuardCheck p n env s
  | .statsReport n env => Sys2Proof.Machine.execStatsReport n env s
  | .staCloseStep fn value => Sys2Proof.Machine.execStaCloseStep fn value s
  | .staCloseSweepEnd fn env => Sys2Proof.Machine.execStaCloseSweepEnd fn env s
  | .staLedgerCheck fn value => Sys2Proof.Machine.execStaLedgerCheck fn value s
  | .staLedgerInit fn value => Sys2Proof.Machine.execStaLedgerInit fn value s
  | .ledgerCommandDone fn env => Sys2Proof.Machine.execLedgerCommandDone fn env s
  | .tamOutcome env => Sys2Proof.Machine.execTamOutcome env s
  | .poolCoreRun p => Sys2Proof.Machine.execPoolCoreRun p s
  | .poolCoreStop p => Sys2Proof.Machine.execPoolCoreStop p s
  | .poolCoreStopDone p env => Sys2Proof.Machine.execPoolCoreStopDone p env s
  | .poolCoreInstruction p env => Sys2Proof.Machine.execPoolCoreInstruction p env s
  | .mtimeCompare p => Sys2Proof.Machine.execMtimeCompare p s
  | .poolWoPop p => Sys2Proof.Machine.execPoolWoPop p s
  | .poolWoDone p status env => Sys2Proof.Machine.execPoolWoDone p status env s
  | .poolTqCplInfoRead p => Sys2Proof.Machine.execPoolTqCplInfoRead p s
  | .pteLoad => Sys2Proof.Machine.execPteLoad s
  | .pteCheckOnly load => Sys2Proof.Machine.execPteCheckOnly load s
  | .parterreImageCheck env => Sys2Proof.Machine.execParterreImageCheck env s
  | .memAccess a env => Sys2Proof.Machine.execMemAccess a env s
  | .memGrantSlot ch env => Sys2Proof.Machine.execMemGrantSlot ch env s
  | .patrolRead ch env => Sys2Proof.Machine.execPatrolRead ch env s
  | .refresh ch => Sys2Proof.Machine.execRefresh ch s
  | .memTempRead ch celsius => Sys2Proof.Machine.execMemTempRead ch celsius s
  | .writeTimingCompensation ch => Sys2Proof.Machine.execWriteTimingCompensation ch s
  | .powerDownEntry ch => Sys2Proof.Machine.execPowerDownEntry ch s
  | .hostBusCompletion id ok data => Sys2Proof.Machine.execHostBusCompletion id ok data s
  | .memTlbGo value => Sys2Proof.Machine.execMemTlbGo value s
  | .tlbInvalidationDone => Sys2Proof.Machine.execTlbInvalidationDone s
  | .updateStart tier env => Sys2Proof.Machine.execUpdateStart tier env s
  | .updateDone part g tag env => Sys2Proof.Machine.execUpdateDone part g tag env s
  | .updMirEnable fn value => Sys2Proof.Machine.execUpdMirEnable fn value s
  | .casGrpArm vf g => Sys2Proof.Machine.execCasGrpArm vf g s
  | .casGrpArmResult vf g env => Sys2Proof.Machine.execCasGrpArmResult vf g env s
  | .casGrpRemap vf g value env => Sys2Proof.Machine.execCasGrpRemap vf g value env s
  | .casGrpAbort vf g env => Sys2Proof.Machine.execCasGrpAbort vf g env s
  | .contrib env => Sys2Proof.Machine.execContrib env s
  | .holdSlotFold part g tag env => Sys2Proof.Machine.execHoldSlotFold part g tag env s
  | .defer env => Sys2Proof.Machine.execDefer env s
  | .call env => Sys2Proof.Machine.execCall env s
  | .replay env => Sys2Proof.Machine.execReplay env s
  | .gather env => Sys2Proof.Machine.execGather env s
  | .gatherAck env => Sys2Proof.Machine.execGatherAck env s
  | .regatherReq env => Sys2Proof.Machine.execRegatherReq env s
  | .regatherData env => Sys2Proof.Machine.execRegatherData env s
  | .regatherAck env => Sys2Proof.Machine.execRegatherAck env s
  | .lateRankTimeout part g tag => Sys2Proof.Machine.execLateRankTimeout part g tag s
  | .alloc vf run => Sys2Proof.Machine.execAlloc vf run s
  | .connect vf env => Sys2Proof.Machine.execConnect vf env s
  | .close vf env => Sys2Proof.Machine.execClose vf env s
  | .query vf env => Sys2Proof.Machine.execQuery vf env s
  | .register vf perm => Sys2Proof.Machine.execRegister vf perm s
  | .revoke vf => Sys2Proof.Machine.execRevoke vf s
  | .regionQuery vf => Sys2Proof.Machine.execRegionQuery vf s
  | .regionQuarantine slot => Sys2Proof.Machine.execRegionQuarantine slot s
  | .regionFree slot => Sys2Proof.Machine.execRegionFree slot s
  | .aqdRgnEn value => Sys2Proof.Machine.execAqdRgnEn value s
  | .regionTableInitDone => Sys2Proof.Machine.execRegionTableInitDone s
  | .writePacket env => Sys2Proof.Machine.execWritePacket env s
  | .readReq env => Sys2Proof.Machine.execReadReq env s
  | .responderReadData ctx env => Sys2Proof.Machine.execResponderReadData ctx env s
  | .readResp env => Sys2Proof.Machine.execReadResp env s
  | .ack env => Sys2Proof.Machine.execAck env s
  | .nak env => Sys2Proof.Machine.execNak env s
  | .nop env => Sys2Proof.Machine.execNop env s
  | .cascadePacket env => Sys2Proof.Machine.execCascadePacket env s
  | .probe => Sys2Proof.Machine.execProbe s
  | .probeReply => Sys2Proof.Machine.execProbeReply s
  | .packetSettled ctx psn env => Sys2Proof.Machine.execPacketSettled ctx psn env s
  | .ackTimer ctx => Sys2Proof.Machine.execAckTimer ctx s
  | .retxTimeout ctx env => Sys2Proof.Machine.execRetxTimeout ctx env s
  | .probeTimer ctx => Sys2Proof.Machine.execProbeTimer ctx s
  | .frameReceive lp f quarter => Sys2Proof.Machine.execFrameReceive lp f quarter s
  | .pauseFrame => Sys2Proof.Machine.execPauseFrame s
  | .pauseHoldExpire lp prio => Sys2Proof.Machine.execPauseHoldExpire lp prio s
  | .xoffRepeat lp prio => Sys2Proof.Machine.execXoffRepeat lp prio s
  | .pauseWatchdog lp prio own => Sys2Proof.Machine.execPauseWatchdog lp prio own s
  | .pauseHoldoffEnd lp prio own => Sys2Proof.Machine.execPauseHoldoffEnd lp prio own s
  | .lldpTransmit lp => Sys2Proof.Machine.execLldpTransmit lp s
  | .lldpReceive => Sys2Proof.Machine.execLldpReceive s
  | .lpiEntry lp => Sys2Proof.Machine.execLpiEntry lp s
  | .linkUp lp => Sys2Proof.Machine.execLinkUp lp s
  | .linkDown lp => Sys2Proof.Machine.execLinkDown lp s
  | .macPortCfgWrite n value => Sys2Proof.Machine.execMacPortCfgWrite n value s
  | .macFilterWrite lp e value => Sys2Proof.Machine.execMacFilterWrite lp e value s
  | .sync => Sys2Proof.Machine.execSync s
  | .followUp => Sys2Proof.Machine.execFollowUp s
  | .delayResp => Sys2Proof.Machine.execDelayResp s
  | .announce => Sys2Proof.Machine.execAnnounce s
  | .delayReqTimer => Sys2Proof.Machine.execDelayReqTimer s
  | .ppsEdge quarter => Sys2Proof.Machine.execPpsEdge quarter s
  | .sourceLoss => Sys2Proof.Machine.execSourceLoss s
  | .clk10mLoss => Sys2Proof.Machine.execClk10mLoss s
  | .clpSrcWrite value => Sys2Proof.Machine.execClpSrcWrite value s
  | .clpSet off size value => Sys2Proof.Machine.execClpSet off size value s
  | .clpTimeRead fn => Sys2Proof.Machine.execClpTimeRead fn s
  | .ppsOutPulse => Sys2Proof.Machine.execPpsOutPulse s
  | .clpBarArm vf b value => Sys2Proof.Machine.execClpBarArm vf b value s
  | .clpBarCancel vf b value => Sys2Proof.Machine.execClpBarCancel vf b value s
  | .clpSnapArm value => Sys2Proof.Machine.execClpSnapArm value s
  | .notBeforeRelease k env => Sys2Proof.Machine.execNotBeforeRelease k env s
  | .barrierRelease vf b => Sys2Proof.Machine.execBarrierRelease vf b s
  | .rampGroupStart vf b g => Sys2Proof.Machine.execRampGroupStart vf b g s
  | .rampEnd vf b => Sys2Proof.Machine.execRampEnd vf b s
  | .cascadeSlotOpen k env => Sys2Proof.Machine.execCascadeSlotOpen k env s
  | .counterSnapshot => Sys2Proof.Machine.execCounterSnapshot s
  | .counterFreeze => Sys2Proof.Machine.execCounterFreeze s
  | .counterThaw => Sys2Proof.Machine.execCounterThaw s
  | .doorbellSnoop fn snoop => Sys2Proof.Machine.execDoorbellSnoop fn snoop s
  | .doorbellLineRead fn ring low high ok => Sys2Proof.Machine.execDoorbellLineRead fn ring low high ok s
  | .queDb fn ring value => Sys2Proof.Machine.execQueDb fn ring value s
  | .queEqDb fn value => Sys2Proof.Machine.execQueEqDb fn value s
  | .descriptorReadData fn ring idx bytes ok => Sys2Proof.Machine.execDescriptorReadData fn ring idx bytes ok s
  | .descriptorDispatch fn ring env => Sys2Proof.Machine.execDescriptorDispatch fn ring env s
  | .descriptorReread fn ring => Sys2Proof.Machine.execDescriptorReread fn ring s
  | .queRingEnable fn ring value env => Sys2Proof.Machine.execQueRingEnable fn ring value env s
  | .queRingDisable fn ring value env => Sys2Proof.Machine.execQueRingDisable fn ring value env s
  | .msixModerationTimer fn vec => Sys2Proof.Machine.execMsixModerationTimer fn vec s
  | .msixUnmask fn vec => Sys2Proof.Machine.execMsixUnmask fn vec s
  | .p2pWrite vf off rid bytes env => Sys2Proof.Machine.execP2pWrite vf off rid bytes env s
  | .p2pRead vf off tee => Sys2Proof.Machine.execP2pRead vf off tee s
  | .dmaGo p ch env => Sys2Proof.Machine.execDmaGo p ch env s
  | .dmaAbort p ch env => Sys2Proof.Machine.execDmaAbort p ch env s
  | .dmaBurst p ch env => Sys2Proof.Machine.execDmaBurst p ch env s
  | .dmaComplete p ch env => Sys2Proof.Machine.execDmaComplete p ch env s
  | .hmpLpddrCommand c k => Sys2Proof.Machine.execHmpLpddrCommand c k s
  | .hmpHostWrite c sub bank col bytes mask => Sys2Proof.Machine.execHmpHostWrite c sub bank col bytes mask s
  | .hmpHostRead c sub bank col env => Sys2Proof.Machine.execHmpHostRead c sub bank col env s
  | .hmpWinFence c => Sys2Proof.Machine.execHmpWinFence c s
  | .hmpWinFill c => Sys2Proof.Machine.execHmpWinFill c s
  | .hmpDrain c unit env => Sys2Proof.Machine.execHmpDrain c unit env s
  | .hmpDrainDone c unit => Sys2Proof.Machine.execHmpDrainDone c unit s
  | .hmpFillPage c env => Sys2Proof.Machine.execHmpFillPage c env s
  | .hmpMapWrite c pg value env => Sys2Proof.Machine.execHmpMapWrite c pg value env s
  | .hmpEnable c value => Sys2Proof.Machine.execHmpEnable c value s
  | .hmpDisable c value => Sys2Proof.Machine.execHmpDisable c value s
  | .prtRstGo value env => Sys2Proof.Machine.execPrtRstGo value env s
  | .vfFlr v env => Sys2Proof.Machine.execVfFlr v env s
  | .vfEnableClear env => Sys2Proof.Machine.execVfEnableClear env s
  | .numvfsWrite value => Sys2Proof.Machine.execNumvfsWrite value s
  | .partitionResetStep n env => Sys2Proof.Machine.execPartitionResetStep n env s
  | .controlWindow w env => Sys2Proof.Machine.execControlWindow w env s
  | .pwrBrakeFall => Sys2Proof.Machine.execPwrBrakeFall s
  | .pwrBrakeRise => Sys2Proof.Machine.execPwrBrakeRise s
  | .airflowLoss env => Sys2Proof.Machine.execAirflowLoss env s
  | .airflowRestore env => Sys2Proof.Machine.execAirflowRestore env s
  | .sliceCheckFail l d g => Sys2Proof.Machine.execSliceCheckFail l d g s
  | .laneCheckStart l d g => Sys2Proof.Machine.execLaneCheckStart l d g s
  | .laneCheckEnd l d g lanes => Sys2Proof.Machine.execLaneCheckEnd l d g lanes s
  | .forwardedClockLoss l d g => Sys2Proof.Machine.execForwardedClockLoss l d g s
  | .getVersion t => Sys2Proof.Machine.execGetVersion t s
  | .getCapabilities t => Sys2Proof.Machine.execGetCapabilities t s
  | .negotiateAlgorithms t => Sys2Proof.Machine.execNegotiateAlgorithms t s
  | .getDigests t => Sys2Proof.Machine.execGetDigests t s
  | .getCertificate t slot off len => Sys2Proof.Machine.execGetCertificate t slot off len s
  | .challenge t slot nonce => Sys2Proof.Machine.execChallenge t slot nonce s
  | .getMeasurements t op nonce => Sys2Proof.Machine.execGetMeasurements t op nonce s
  | .keyExchange t slot nonce => Sys2Proof.Machine.execKeyExchange t slot nonce s
  | .finish t id => Sys2Proof.Machine.execFinish t id s
  | .heartbeat t id => Sys2Proof.Machine.execHeartbeat t id s
  | .keyUpdate t id op => Sys2Proof.Machine.execKeyUpdate t id op s
  | .endSession t id => Sys2Proof.Machine.execEndSession t id s
  | .chunkSend t seq bytes => Sys2Proof.Machine.execChunkSend t seq bytes s
  | .chunkGet t seq => Sys2Proof.Machine.execChunkGet t seq s
  | .vendorDefinedRequest t id km => Sys2Proof.Machine.execVendorDefinedRequest t id km s
  | .getTdispVersion part => Sys2Proof.Machine.execGetTdispVersion part s
  | .getTdispCapabilities part => Sys2Proof.Machine.execGetTdispCapabilities part s
  | .lockInterfaceRequest part stream env => Sys2Proof.Machine.execLockInterfaceRequest part stream env s
  | .getDeviceInterfaceReport part => Sys2Proof.Machine.execGetDeviceInterfaceReport part s
  | .getDeviceInterfaceState part => Sys2Proof.Machine.execGetDeviceInterfaceState part s
  | .startInterfaceRequest part => Sys2Proof.Machine.execStartInterfaceRequest part s
  | .stopInterfaceRequest part env => Sys2Proof.Machine.execStopInterfaceRequest part env s
  | .ideIntegrityFailure stream env => Sys2Proof.Machine.execIdeIntegrityFailure stream env s
  | .secSvnBurn value => Sys2Proof.Machine.execSecSvnBurn value s
  | .keyInstall part env => Sys2Proof.Machine.execKeyInstall part env s
  | .ingest part env => Sys2Proof.Machine.execIngest part env s
  | .secOpComplete part => Sys2Proof.Machine.execSecOpComplete part s
  | .weirOpen w => Sys2Proof.Machine.execWeirOpen w s
  | .weirClose w => Sys2Proof.Machine.execWeirClose w s
  | .weirRead w => Sys2Proof.Machine.execWeirRead w s
  | .weirAck w => Sys2Proof.Machine.execWeirAck w s
  | .readKey w => Sys2Proof.Machine.execReadKey w s
  | .fwLoad w env => Sys2Proof.Machine.execFwLoad w env s
  | .calLoad w env => Sys2Proof.Machine.execCalLoad w env s
  | .intervalRecord part w => Sys2Proof.Machine.execIntervalRecord part w s
  | .commitRetry w => Sys2Proof.Machine.execCommitRetry w s
  | .commitDone ok w => Sys2Proof.Machine.execCommitDone ok w s
  | .ownerMessage w => Sys2Proof.Machine.execOwnerMessage w s
  | .weirLinkDown w => Sys2Proof.Machine.execWeirLinkDown w s
  | .weirLinkUp w => Sys2Proof.Machine.execWeirLinkUp w s
  | .standbyLoss w => Sys2Proof.Machine.execStandbyLoss w s
  | .weirPowerUp w => Sys2Proof.Machine.execWeirPowerUp w s
  | .pmcSnapNow => Sys2Proof.Machine.execPmcSnapNow s
  | .pmcFreezeNow => Sys2Proof.Machine.execPmcFreezeNow s
  | .pmcThawNow => Sys2Proof.Machine.execPmcThawNow s
  | .pmcClear => Sys2Proof.Machine.execPmcClear s
  | .pmcTagEn value => Sys2Proof.Machine.execPmcTagEn value s
  | .standbyPowerUp => Sys2Proof.Machine.execStandbyPowerUp s
  | .p54vGood => Sys2Proof.Machine.execP54vGood s
  | .bringupStageAdvance b env => Sys2Proof.Machine.execBringupStageAdvance b env s
  | .modResetN env => Sys2Proof.Machine.execModResetN env s
  | .perstN env => Sys2Proof.Machine.execPerstN env s
  | .topRstCold value env => Sys2Proof.Machine.execTopRstCold value env s
  | .topRstWarm value env => Sys2Proof.Machine.execTopRstWarm value env s
  | .topRstModule value env => Sys2Proof.Machine.execTopRstModule value env s
  | .pfFlr env => Sys2Proof.Machine.execPfFlr env s
  | .linkReset env => Sys2Proof.Machine.execLinkReset env s
  | .quiesceEnd => Sys2Proof.Machine.execQuiesceEnd s
  | .p54vLoss => Sys2Proof.Machine.execP54vLoss s
  | .configRequest fn req env => Sys2Proof.Machine.execConfigRequest fn req env s
  | .mctpControlMessage req => Sys2Proof.Machine.execMctpControlMessage req s
  | .getTid => Sys2Proof.Machine.execGetTid s
  | .setTid tid => Sys2Proof.Machine.execSetTid tid s
  | .getPldmVersion type => Sys2Proof.Machine.execGetPldmVersion type s
  | .getPldmTypes => Sys2Proof.Machine.execGetPldmTypes s
  | .getPldmCommands type => Sys2Proof.Machine.execGetPldmCommands type s
  | .getPdrRepositoryInfo => Sys2Proof.Machine.execGetPdrRepositoryInfo s
  | .getPdr record => Sys2Proof.Machine.execGetPdr record s
  | .getSensorReading sensor => Sys2Proof.Machine.execGetSensorReading sensor s
  | .getStateSensorReadings => Sys2Proof.Machine.execGetStateSensorReadings s
  | .setEventReceiver receiver => Sys2Proof.Machine.execSetEventReceiver receiver s
  | .uartRx c => Sys2Proof.Machine.execUartRx c s
  | .pcieCompletionTimeout id => Sys2Proof.Machine.execPcieCompletionTimeout id s
  | .frameTransmit lp quarter env => Sys2Proof.Machine.execFrameTransmit lp quarter env s
  | .rxBufferDrain lp => Sys2Proof.Machine.execRxBufferDrain lp s
  | .lldpTtlExpiry lp => Sys2Proof.Machine.execLldpTtlExpiry lp s
  | .ppsOutPulseEnd => Sys2Proof.Machine.execPpsOutPulseEnd s
  | .clk10mReturn => Sys2Proof.Machine.execClk10mReturn s
  | .perstNRise => Sys2Proof.Machine.execPerstNRise s
  | .pcieLinkUp cxl => Sys2Proof.Machine.execPcieLinkUp cxl s

end Sys2Proof.Machine
end

