-- ==== Sys2Proof/Safety.lean ====
section
/-! DEFINITION. What counts as a sound state and as a safe run. -/

namespace Sys2Proof.Machine

/-- The keys of a table rise strictly. -/
def srising {α : Type} : List (Nat × α) → Bool
  | [] => true
  | [_] => true
  | a :: b :: m => decide (a.1 < b.1) && srising (b :: m)

/-- Device memory and the register file are in their canonical order: equal contents are equal data. -/
def State.sound (s : State) : Bool := Memory.wf s.mem && srising s.regs

/-- The parts of State, by the names of its fields. -/
inductive Comp where
  | part
  | pending
  | emitted
  | free
  | regs
  | mem
  | top
  | prt
  | memc
  | pte
  | que
  | pmc
  | clp
  | hmp
  | mac
  | cas
  | aqd
  | cell
  | tam
  | sta
  | pool
  | dma
  | sec
  | weir
  | pwr
  | lnk
  | mgmt
  deriving DecidableEq, Repr

/-- A part of State is the same in both. -/
def State.same (s t : State) : Comp → Prop
  | .part => t.part = s.part
  | .pending => t.pending = s.pending
  | .emitted => t.emitted = s.emitted
  | .free => t.free = s.free
  | .regs => t.regs = s.regs
  | .mem => t.mem = s.mem
  | .top => t.top = s.top
  | .prt => t.prt = s.prt
  | .memc => t.memc = s.memc
  | .pte => t.pte = s.pte
  | .que => t.que = s.que
  | .pmc => t.pmc = s.pmc
  | .clp => t.clp = s.clp
  | .hmp => t.hmp = s.hmp
  | .mac => t.mac = s.mac
  | .cas => t.cas = s.cas
  | .aqd => t.aqd = s.aqd
  | .cell => t.cell = s.cell
  | .tam => t.tam = s.tam
  | .sta => t.sta = s.sta
  | .pool => t.pool = s.pool
  | .dma => t.dma = s.dma
  | .sec => t.sec = s.sec
  | .weir => t.weir = s.weir
  | .pwr => t.pwr = s.pwr
  | .lnk => t.lnk = s.lnk
  | .mgmt => t.mgmt = s.mgmt

/-- Every part of `t` but those listed is as in `s`: the frame of what leads from `s` to `t`. -/
def State.changes (s : State) (cs : List Comp) (t : State) : Prop := ∀ c, c ∉ cs → s.same t c

/-- Every register of `t` but those listed (register, view and instance) reads as in `s`. -/
def State.changesRegs (s : State) (l : List (Reg × Nat × Nat)) (t : State) : Prop :=
  ∀ r v i, regKey r v i ∉ l.map (fun x => regKey x.1 x.2.1 x.2.2) → t.regN r v i = s.regN r v i

/-- Every byte of device memory reads as before. -/
def State.sameMemory (s t : State) : Prop := ∀ k, t.byte k = s.byte k

/-- The step answers a next state. -/
def State.goes (s : State) : Prop := ∃ t, step s = .next t

/-- The next `n` steps all answer a next state. -/
def State.safe : Nat → State → Prop
  | 0, _ => True
  | n + 1, s => ∃ t, step s = .next t ∧ State.safe n t

end Sys2Proof.Machine
end

