-- ==== Sys2Proof/Certificates/Slice0/Obligations.lean ====
section
/-! DEFINITION. The statements about the block, made from the numbered rules of spec/. -/

open Sys2Proof Sys2Proof.Machine

/-! ### The block as a whole -/

/-- The command at the front of the queue is taken and run on the rest. -/
def Obligations.StepRunsFrontCommand : Prop :=
  ∀ (c : Instr) (rest : List Instr) (s : State), s.pending = c :: rest → step s = exec c { s with pending := rest }

/-- With no command waiting one period of the time clock passes (R282, R284): cluster time advances by 1 + CLP_FREQ × 2^-40
ns, here in units of 2^-48 ns, and nothing else changes. That a step on an empty queue is such a period is the model's choice
(log entry 7). -/
def Obligations.StepIdleAdvancesTime : Prop :=
  ∀ s : State, s.pending = [] → ∃ t, step s = .next t ∧
    t.clp.time = ((s.clp.time : Int) + (2 ^ 48 : Int) + signed 32 (s.fld F.CLP_FREQ 0 0) * 256).toNat ∧
    t.clp.ticks = s.clp.ticks + 1 ∧
    s.changes [.clp] t ∧ t.clp = { s.clp with time := t.clp.time, ticks := t.clp.ticks }

/-- The registers whose tables give a word other than zero for reset, on the part GX4-1536. TOP_BOOT, WEIR_STATUS, PWR_POWER,
PWR_STATUS and LNK_STATE show the state in service (log entry 6). -/
def Sys2Proof.Machine.resetWords : List (Reg × Nat) :=
  [(.topPartId, 0x47340140), (.topHier, 0x40201044), (.topBoot, 0x70000000), (.queCap, 0xF10), (.queRingCtrl, 0x6000000),
    (.queEqCtrl, 0x6000000), (.queMod, 1), (.msixCtrl, 1), (.prtAdmit, 0x10), (.celSrCtrl, 0x100), (.celCaps, 0x2480600),
    (.staCtrl, 0x400010), (.staLedgerCtrl, 1), (.tamCtrl, 0x40C0A00), (.memPatrolCtrl, 0x18), (.updMirCtrl, 0x42000),
    (.aqdCcCtrl, 0x2EE08080), (.aqdCcRate, 0x7D000C8), (.aqdCcProbe, 0x321F40), (.aqdRtoCtrl, 0x8640064),
    (.aqdUdpPort, 0xD290), (.aqdTrkFree, 0x100000), (.macFcCtrl, 0xFFFF), (.macFcWd, 0x6407D0), (.macLpiCtrl, 0x640000),
    (.clpLoop, 0x27106414), (.hmpChSts, 0x8000), (.weirStatus, 0x40000000), (.weirCfg, 0x3C), (.pwrCtrl, 0x60),
    (.pwrCap, 0x425805DC), (.pwrStatus, 0x1006), (.pwrPower, 0x5DC0000), (.pwrTherm, 0x645A5F), (.lnkCtrl, 0x100000),
    (.lnkState, 1), (.pmcTagCtrl, 0xA00), (.poolCoreCtrl, 2)]

/-- What the register tables give for reset, on a whole part in service (log entry 6): every instance of every register in every
view holds the word of its table, the identity of R4 and R18 among them and zero in each error register. The queue is
empty, memory lists nothing, every slot of every cell is empty with no table pair loaded, no ring is enabled, no image is
loading, and nothing runs in a pool, a DMA channel or a flow. The state after reset is sound: memory and the register file are in
canonical form. -/
def Obligations.ResetState : Prop :=
  (State.reset.pending = [] ∧ State.reset.mem = [] ∧ State.reset.regs = [] ∧
   (∀ e ∈ resetWords, ∀ v i, State.reset.regN e.1 v i = e.2) ∧
   (∀ r v i, r ∉ resetWords.map Prod.fst → State.reset.regN r v i = 0) ∧
   (∀ r v i, (errFirstOf r).isSome → State.reset.regN r v i = 0) ∧
   (∀ c slot, State.reset.slotSt c slot = {} ∧ State.reset.pairOf c slot = none) ∧
   (∀ fn n, State.reset.ringState fn n = 0) ∧ State.reset.pte.running = none ∧
   (∀ p, State.reset.poolSt p = {}) ∧ (∀ p ch, State.reset.dmaRun p ch = none) ∧
   State.reset.aqd.ctxs = [] ∧ State.reset.aqd.regions = []) ∧
  (State.reset.sound = true)

/-- Every step keeps device memory in its canonical form, byte keys rising and no zero byte listed, in every state and
whatever command stands at the front of the queue. -/
def Obligations.StepKeepsMemoryCanonical : Prop :=
  ∀ s t : State, Memory.wf s.mem = true → step s = .next t → Memory.wf t.mem = true

/-- No command stops the block, and none reaches the queue or turns the part into another: every command, in every state, is
answered with a next state in which the queue and the part are as before. -/
def Obligations.EveryCommandCompletes : Prop :=
  ∀ (c : Instr) (s : State), ∃ t, exec c s = .next t ∧ t.pending = s.pending ∧ t.part = s.part

/-! ### Registers -/

/-- The 32-bit registers with RW fields whose write does nothing but store (R10). -/
def Sys2Proof.Machine.storedRegs : List Reg :=
  [.queEqLost, .queMod, .msixData, .celSrCtrl, .celRotFreq, .staCtrl, .staTableLen, .staLedgerStep, .tamSeed, .tamTableLen,
    .memPatrolCtrl, .memEccCount, .updMirFlow, .updMirKey0, .updMirKey1, .updMirNext, .updMirBuckets, .aqdFlowCtx,
    .aqdRgnKey, .aqdCcCtrl, .aqdCcRate, .aqdCcProbe, .aqdRtoCtrl, .aqdUdpPort, .macFcCtrl, .macFcWd, .macLpiCtrl,
    .macTsMiss, .clpLoop, .clpPortLat, .clpPtpSrcip, .weirCfg, .lnkCtrl, .pmcTagSeed, .pmcTagIdx, .pmcTagLost, .poolIrqEn,
    .poolSgRange]

/-- A 32-bit write of `value` at `off` through function `fn` is accepted and reaches instance `i` of register `r` in view
`v`. -/
def Sys2Proof.Machine.State.reaches (s : State) (env : Env) (fn off : Nat) (r : Reg) (v i : Nat) : Prop :=
  s.decodes fn off = true ∧ s.teeRefused fn env.tee = false ∧ sizeOk off 4 = true ∧
  s.place fn off = some ⟨r, v, i, 0⟩ ∧ s.answers fn off r = true

/-- A write to a register without a behaviour of its own stores its RW fields and leaves its other bits; no other register
and no other part of the block changes (R9 to R11). -/
def Obligations.RegisterWriteStoresFields : Prop :=
  ∀ (fn off value v i : Nat) (env : Env) (s : State) (r : Reg), r ∈ storedRegs → s.reaches env fn off r v i →
    ∃ t, exec (.registerWrite fn off 4 value env) s = .next t ∧
      (∀ f ∈ (regSpec r).flds, bits (t.regN r v i) f.hi f.lo =
        if f.ty = .rw then bits value f.hi f.lo else bits (s.regN r v i) f.hi f.lo) ∧
      s.changesRegs [(r, v, i)] t ∧ s.changes [.regs] t

/-- A W1C write to an ERR_STS register clears the bits written as one in that view, and ERR_FIRST clears with the last of
them (R10, R90); a write of TOP_ERR_STS through the physical function that clears TOP_E_FAILED clears TOP_FAIL_CAUSE and
TOP_FAIL_INFO besides (R467). -/
def Obligations.ErrorClearInOneView : Prop :=
  ∀ (fn off value v i : Nat) (env : Env) (s : State) (r first : Reg), errFirstOf r = some first →
    s.reaches env fn off r v i →
    ∃ t, exec (.registerWrite fn off 4 value env) s = .next t ∧
      t.regN r v i = s.regN r v i - (s.regN r v i &&& (value % 2 ^ 32)) ∧
      t.regN first v i = (if t.regN r v i = 0 then 0 else s.regN first v i) ∧
      (r = .topErrSts → v = 0 → bit value 1 = true → t.fld F.TOP_FAIL_CAUSE 0 0 = 0 ∧ t.fld F.TOP_FAIL_INFO 0 0 = 0) ∧
      (¬ (r = .topErrSts ∧ v = 0 ∧ bit value 1 = true) → s.changesRegs [(r, v, i), (first, v, i)] t) ∧
      s.changesRegs [(r, v, i), (first, v, i), (.topFail, 0, 0)] t ∧ s.changes [.regs] t

/-- An access of a size or alignment that R9 does not accept sets TOP_E_ACCESS in the function's own view, captured with its
offset and size while no error stands there; a read completes with zero data and a write has no other effect (R9, R90, R467).
TOP_EF_SIZE has 8 bits, and what it holds of a size of 256 bytes or more is left open (log entry 3). A read that no BAR claims
completes as an Unsupported Request and changes no register (R9); a write that none claims changes nothing. -/
def Obligations.AccessErrorIsRecorded : Prop :=
  (∀ (fn off size value : Nat) (write : Bool) (s : State), s.decodes fn off = true → sizeOk off size = false →
    ∃ t, exec (.registerAccessError fn off size write value) s = .next t ∧
      t.fld F.TOP_E_ACCESS fn 0 = 1 ∧
      (s.regN .topErrSts fn 0 = 0 →
        t.fld F.TOP_EF_OFFSET fn 0 = off % 2 ^ 32 ∧ (size < 256 → t.fld F.TOP_EF_SIZE fn 0 = size) ∧
        t.fld F.TOP_EF_VALID fn 0 = 1 ∧ t.fld F.TOP_EF_CAUSE fn 0 = 0) ∧
      (s.regN .topErrSts fn 0 ≠ 0 → t.regN .topErrFirst fn 0 = s.regN .topErrFirst fn 0) ∧
      (write = true → t.emitted = s.emitted) ∧
      (write = false → ∃ e, t.emitted = s.emitted ++ [e] ∧
        (e = .regData fn off 0 ∨ ∃ x, e = .tbit x (.regData fn off 0))) ∧ (size < 256 → t.free = s.free) ∧
      s.changesRegs [(.topErrSts, fn, 0), (.topErrFirst, fn, 0)] t ∧ s.changes [.regs, .emitted, .free] t) ∧
  (∀ (fn off size value : Nat) (s : State), s.decodes fn off = false →
    exec (.registerAccessError fn off size true value) s = .next s ∧
    ∃ t e, exec (.registerAccessError fn off size false value) s = .next t ∧ t.emitted = s.emitted ++ [e] ∧
      (e = .unsupported fn off ∨ ∃ x, e = .tbit x (.unsupported fn off)) ∧ s.changes [.emitted] t)

/-! ### Tile operations -/

/-- The operation `o` is the next one of pool `p`, as POOL_TQ_PUSH enters it; nothing holds it, its group can be formed,
and no line of R72's table matches it. -/
def Sys2Proof.Machine.State.starts (s : State) (p : Nat) (o : TileOp) (gr : List Pos) : Prop :=
  (s.poolSt p).nextOp false = some o ∧ o.guest = false ∧ o.bad = [] ∧ o.status = 0 ∧ s.mayStart p o = true ∧
  s.group p (tdOf o.d) = some gr ∧ s.tileBad p gr (tdOf o.d) false = false

/-- In `t` the operation `o` of pool `p` stands in its queue in phase `ph`, and the other operations of the queue, the
completions and the inbox are as in `s`. -/
def Sys2Proof.Machine.State.opIn (s t : State) (p : Nat) (o : TileOp) (ph : Nat) : Prop :=
  (∃ x ∈ (t.poolSt p).queue, x.id = o.id ∧ x.d = o.d ∧ x.phase = ph) ∧
  (∀ x ∈ (s.poolSt p).queue, x.id ≠ o.id → x ∈ (t.poolSt p).queue) ∧
  (t.poolSt p).queue.length = (s.poolSt p).queue.length ∧
  (t.poolSt p).cpls = (s.poolSt p).cpls ∧ (t.poolSt p).inbox = (s.poolSt p).inbox

/-- An operation that may start runs: MMA and TIE_SUM wait for the output path when they finish their slot, OUT waits for it,
and the other opcodes are over (R65, R69, R74, R75). -/
def Obligations.TileOperationsRun : Prop :=
  ∀ (p : Nat) (env : Env) (s : State) (o : TileOp) (gr : List Pos), s.starts p o gr →
    ((tdOf o.d).op = 1 → ∃ t, exec (.mma p env) s = .next t ∧ s.opIn t p o (if (tdOf o.d).finish then 2 else 3) ∧
      s.changes [.regs, .pmc, .cell, .tam, .sta, .pool] t) ∧
    ((tdOf o.d).op = 2 → ∃ t, exec (.out p env) s = .next t ∧ s.opIn t p o 2 ∧ s.changes [.pool] t) ∧
    ((tdOf o.d).op = 3 → ∃ t, exec (.accLoad p env) s = .next t ∧ s.opIn t p o 3 ∧
      s.changes [.emitted, .free, .regs, .mem, .prt, .memc, .que, .pmc, .cell, .tam, .sta, .pool, .sec] t) ∧
    ((tdOf o.d).op = 4 → ∃ t, exec (.accStore p env) s = .next t ∧ s.opIn t p o 3 ∧
      s.changes [.emitted, .free, .regs, .mem, .prt, .memc, .que, .pmc, .cell, .tam, .sta, .pool, .sec] t) ∧
    ((tdOf o.d).op = 5 → ∃ t, exec (.clear p env) s = .next t ∧ s.opIn t p o 3 ∧ s.changes [.cell, .tam, .sta, .pool] t) ∧
    ((tdOf o.d).op = 6 → ∃ t, exec (.tableLoad p env) s = .next t ∧ s.opIn t p o 3 ∧
      s.changes [.emitted, .free, .regs, .mem, .prt, .memc, .que, .pmc, .cell, .pool, .sec] t) ∧
    ((tdOf o.d).op = 7 → ∃ t, exec (.tieSum p env) s = .next t ∧
      (s.opIn t p o 3 ∨ (tdOf o.d).finish = true ∧ s.opIn t p o 2) ∧
      s.changes [.emitted, .free, .regs, .mem, .prt, .memc, .que, .pmc, .cell, .tam, .sta, .pool, .sec] t) ∧
    ((tdOf o.d).op = 8 → ∃ t, exec (.attRescale p env) s = .next t ∧ s.opIn t p o 3 ∧
      s.changes [.emitted, .free, .regs, .mem, .prt, .memc, .que, .pmc, .cell, .tam, .sta, .pool, .sec] t)

/-- One pass of an MMA in one cell, rounding to nearest: each partial becomes the FP32 rounding of itself plus the exact sum
of its sixteen products, the pass count rises by one, and no other slot changes (R46, R54 to R56). CLEAR leaves the slot at
+0 with a pass count of zero and a clear overflow flag in every cell of its group; OUT changes no cell, and ACC_STORE writes
the 64 rows of a cell's part to the operation's address, leaving the partials as they were (R69). -/
def Obligations.MmaClearAndStoreValues : Prop :=
  (∀ (p : Nat) (env : Env) (s : State) (o : TileOp) (q : Pos), s.starts p o [q] →
     (tdOf o.d).op = 1 → (tdOf o.d).k = 1 → (tdOf o.d).start = false → (tdOf o.d).finish = false →
     (tdOf o.d).segEnd = false → (tdOf o.d).mask = 0 → s.tam = [] → env.sram = [] →
     s.fld F.CEL_SR_DISABLE (s.drive o.part) 0 = 1 →
     ∃ t, exec (.mma p env) s = .next t ∧
       (∀ i j, i < 64 → j < 32 →
         t.accGet (ownTag o.part false) q.c (tdOf o.d).slot i j =
           fp32.ofVal ((fv (s.accGet (ownTag o.part false) q.c (tdOf o.d).slot i j)).add
             (dot16 (fun x => s.aVal (gridCtx (s.begin o) (tdOf o.d) q) i x)
               (fun x => s.bVal (gridCtx (s.begin o) (tdOf o.d) q) x j)))) ∧
       (t.slotSt q.c (tdOf o.d).slot).count = satTo 0xFFFF ((s.slotSt q.c (tdOf o.d).slot).count + 1) ∧
       (∀ tag c slot i j, i < 64 → j < 32 → slot < 8 → (c, slot) ≠ (q.c, (tdOf o.d).slot) → (tdOf o.d).slot < 8 →
         t.accGet tag c slot i j = s.accGet tag c slot i j) ∧
       s.changes [.pmc, .cell, .pool] t) ∧
  ((∀ (p : Nat) (env : Env) (s : State) (o : TileOp) (gr : List Pos), s.starts p o gr → (tdOf o.d).op = 5 →
     ∃ t, exec (.clear p env) s = .next t ∧ ∀ q ∈ gr,
       (∀ i j, i < 64 → j < 32 → t.accGet (ownTag o.part false) q.c (tdOf o.d).slot i j = 0) ∧
       (t.slotSt q.c (tdOf o.d).slot).count = 0 ∧ (t.slotSt q.c (tdOf o.d).slot).ovf = none) ∧
   (∀ (p : Nat) (env : Env) (s : State) (o : TileOp) (gr : List Pos), s.starts p o gr → (tdOf o.d).op = 2 →
     ∃ t, exec (.out p env) s = .next t ∧ t.cell = s.cell ∧ t.mem = s.mem) ∧
   (∀ (p : Nat) (env : Env) (s : State) (o : TileOp) (gr : List Pos), s.starts p o gr → (tdOf o.d).op = 4 →
     ∃ t, exec (.accStore p env) s = .next t ∧ t.cell.acc = s.cell.acc ∧ t.cell.accOwn = s.cell.accOwn) ∧
   (∀ (p : Nat) (env : Env) (s : State) (o : TileOp) (q : Pos), s.starts p o [q] → (tdOf o.d).op = 4 → env.sram = [] →
     ∃ t s1, exec (.accStore p env) s = .next t ∧ s.changes [.emitted, .regs, .prt, .que, .pmc, .cell, .tam, .sta] s1 ∧
       t.mem = ((upFrom 0 64).foldl (fun (x : State) i =>
         (x.writeVa env (cellRq (q.c / 16) o.part) ((tdOf o.d).outVa + q.row i * (tdOf o.d).outPitch + 128 * q.v)
           ((upFrom 0 32).flatMap fun j =>
             toLe 4 (s.accGet (ownTag o.part false) q.c (physSlot false (tdOf o.d).slot) i j))).1) s1).mem))

/-- POOL_TQ_PUSH by a running core enters the staged descriptor at the end of the queue while there is room and the queue
does not reject; otherwise the descriptor is discarded and POOL_E_ISSUE is set (R151). A malformed operation is rejected
whole by the command of its opcode: it is over with status MALFORMED, CEL_E_DESC is set, and neither memory nor a cell
changes (R72, R89). -/
def Obligations.TileQueueAndRejection : Prop :=
  ((∀ (p : Nat) (s : State), s.coreRuns p = true → s.tqFree p ≠ 0 → s.tqRejecting p = false →
     ∃ t o, exec (.poolTqPush p) s = .next t ∧ (t.poolSt p).queue = (s.poolSt p).queue ++ [o] ∧
       o.d = fit 128 (s.poolSt p).stage ∧ o.part = (s.owner p).getD 64 ∧ o.guest = false ∧ o.phase = 0 ∧ o.status = 0 ∧
       o.bad = [] ∧ t.poolSt p = { s.poolSt p with queue := (t.poolSt p).queue } ∧
       (∀ q, q ≠ p → t.poolSt q = s.poolSt q) ∧ s.changes [.pmc, .cell, .pool] t) ∧
   (∀ (p : Nat) (s : State), s.coreRuns p = true → s.tqFree p = 0 ∨ s.tqRejecting p = true →
     ∃ t, exec (.poolTqPush p) s = .next t ∧ t.fld F.POOL_E_ISSUE 0 p = 1 ∧ s.changes [.regs, .pmc] t)) ∧
  (∀ (p : Nat) (env : Env) (s : State) (o : TileOp), (s.poolSt p).nextOp false = some o → o.guest = false →
     s.mayStart p o = true →
     (∀ gr, s.group p (tdOf o.d) = some gr → gr ≠ [] ∧ s.tileBad p gr (tdOf o.d) false = true) →
     ∀ c : Instr,
       ((tdOf o.d).op = 1 ∨ (tdOf o.d).op = 0 ∨ 8 < (tdOf o.d).op) ∧ c = .mma p env ∨ (tdOf o.d).op = 2 ∧ c = .out p env ∨
       (tdOf o.d).op = 3 ∧ c = .accLoad p env ∨ (tdOf o.d).op = 4 ∧ c = .accStore p env ∨
       (tdOf o.d).op = 5 ∧ c = .clear p env ∨ (tdOf o.d).op = 6 ∧ c = .tableLoad p env ∨
       (tdOf o.d).op = 7 ∧ c = .tieSum p env ∨ (tdOf o.d).op = 8 ∧ c = .attRescale p env →
       ∃ t, exec c s = .next t ∧ s.opIn t p o 3 ∧ (∃ x ∈ (t.poolSt p).queue, x.id = o.id ∧ x.status = 1) ∧
         t.fld F.CEL_E_DESC 0 0 = 1 ∧ s.changes [.regs, .tam, .sta, .pool] t)

/-- The output path runs the oldest operation that waits for it, which is then over; with none waiting nothing changes. A finished
operation of the owner whose reports have reached the merger leaves the queue, and its tag, status, opcode and slot join the
completions (R75, R78, R120, R152). -/
def Obligations.OutputPathAndCompletion : Prop :=
  (∀ (p : Nat) (env : Env) (s : State) (o : TileOp) (gr : List Pos), s.stopped = false → o.guest = false →
    (s.poolSt p).queue.find? (fun x => x.phase = 2) = some o → s.group p (tdOf o.d) = some gr →
    ∃ t, exec (.outputPath p false env) s = .next t ∧ s.opIn t p o 3 ∧
      s.changes [.emitted, .free, .regs, .mem, .prt, .memc, .que, .pmc, .cell, .tam, .sta, .pool, .sec] t) ∧
  (∀ (p : Nat) (env : Env) (s : State), (∀ x ∈ (s.poolSt p).queue, x.phase ≠ 2) →
    exec (.outputPath p false env) s = .next s) ∧
  (∀ (p i : Nat) (env : Env) (s : State) (o : TileOp), s.stopped = false → (s.poolSt p).queue[i]? = some o →
    o.guest = false → o.phase = 3 → (∀ r ∈ s.sta.reports, r.op ≠ o.id) →
    ∃ t, exec (.tileOpComplete p false i env) s = .next t ∧
      (t.poolSt p).queue = (s.poolSt p).queue.filter (fun x => x.id ≠ o.id) ∧
      (t.poolSt p).cpls = (s.poolSt p).cpls ++ [⟨(tdOf o.d).tag, o.status, (tdOf o.d).op, (tdOf o.d).slot⟩] ∧
      t.mem = s.mem ∧
      s.changes [.emitted, .free, .regs, .mem, .prt, .memc, .que, .pmc, .cell, .tam, .sta, .pool, .sec, .pwr] t)

/-- The guest's head operation gives up the cells it holds when the owner has work for them, and then neither starts nor goes on;
otherwise it starts: an MMA makes at most `n` passes, an OUT waits for the output path. One that waits for the output path runs
`n` rows of it and keeps its place (R77, R384, R385). -/
def Obligations.GuestRunsBehindTheOwner : Prop :=
  (∀ (p : Nat) (s : State) (o : TileOp), (s.poolSt p).gqueue.head? = some o → (s.poolSt p).grun = true →
    s.ownerWants p o = true →
    ∃ t, exec (.guestYield p) s = .next t ∧ t.poolSt p = { s.poolSt p with grun := false } ∧ s.changes [.pool] t) ∧
  (∀ (p n : Nat) (env : Env) (s : State) (o : TileOp) (gr : List Pos), s.stopped = false →
    (s.poolSt p).gqueue.head? = some o → s.ownerWants p o = false → (sget {} s.prt.resets o.part).phase < 4 →
    s.heldByBarrier o.part p = false → s.group p (tdOf o.d) = some gr → o.phase = 0 → o.guest = true → o.passes = 0 →
    s.tileBad p gr (tdOf o.d) true = false →
    ∃ t, exec (.guestTileIssue p n env) s = .next t ∧ (t.poolSt p).grun = true ∧
      ((tdOf o.d).op = 1 → n < (tdOf o.d).k → ∃ x, (t.poolSt p).gqueue.head? = some x ∧ x.phase = 1 ∧ x.passes = n) ∧
      ((tdOf o.d).op = 2 → ∃ x, (t.poolSt p).gqueue.head? = some x ∧ x.phase = 2) ∧
      (t.poolSt p).queue = (s.poolSt p).queue ∧
      s.changes [.emitted, .free, .regs, .mem, .prt, .memc, .que, .pmc, .cell, .tam, .sta, .pool, .sec] t) ∧
  (∀ (p n : Nat) (env : Env) (s : State) (o : TileOp) (gr : List Pos), s.stopped = false →
    (s.poolSt p).gqueue.head? = some o → s.ownerWants p o = false → s.group p (tdOf o.d) = some gr → o.phase = 2 →
    o.guest = true → o.outRow + n < 64 →
    ∃ t x, exec (.guestTileIssue p n env) s = .next t ∧ (t.poolSt p).grun = true ∧
      (t.poolSt p).gqueue.head? = some x ∧ x.id = o.id ∧ x.phase = 2 ∧ x.outRow = o.outRow + n ∧
      (t.poolSt p).queue = (s.poolSt p).queue ∧
      s.changes [.emitted, .free, .regs, .mem, .prt, .memc, .que, .pmc, .cell, .tam, .sta, .pool, .sec] t) ∧
  (∀ (p n : Nat) (env : Env) (s : State) (o : TileOp), (s.poolSt p).gqueue.head? = some o → s.ownerWants p o = true →
    exec (.guestTileIssue p n env) s = .next s)

/-! ### Shard guards and the statistics merger -/

/-- The answer to the read of the 32-byte record that guard `n` of pool `p` was armed with. -/
def Sys2Proof.Machine.State.guardRead (s : State) (p n : Nat) (env : Env) : State × Resp × List Byte :=
  s.readVa env (otherRq ((s.owner p).getD 64) (.tier (p / 16))) (s.armedWith p n).1 32

/-- The record that guard `n` of pool `p` finds at its address lets it pass: it is readable, present, of the epoch the guard was
armed with, and its two digests agree (R108). -/
def Sys2Proof.Machine.State.guardPasses (s : State) (p n : Nat) (env : Env) : Prop :=
  (s.guardRead p n env).2.1 = .okay ∧ leAt (s.guardRead p n env).2.2 7 1 = 1 ∧
  leAt (s.guardRead p n env).2.2 2 2 = (s.armedWith p n).2 ∧
  leAt (s.guardRead p n env).2.2 8 8 = leAt (s.guardRead p n env).2.2 16 8

/-- Arming a guard makes it pending with the epoch written, its check to be made with the address and epoch as they stand;
disarming makes it disarmed, and interrupts when it was pending; the check of a pending guard makes it passed or failed, and
interrupts (R108, R109). The interrupt of a disarmed guard is the model's reading (log entry 18). -/
def Obligations.ShardGuardCommands : Prop :=
  (∀ (p n value : Nat) (s : State), p < 64 → n < 4 →
    ∃ t, exec (.poolSgArm p n value) s = .next t ∧ t.guardState p n = 1 ∧
      t.fld F.POOL_SG_EPOCH 0 (4 * p + n) = bits value 15 0 ∧
      t.armedWith p n = (s.fld F.POOL_SG_VA 0 (4 * p + n) * 32, bits value 15 0) ∧
      (∀ m, m ≠ n → t.armedWith p m = s.armedWith p m) ∧
      t.poolSt p = { s.poolSt p with armed := (t.poolSt p).armed } ∧ (∀ q, q ≠ p → t.poolSt q = s.poolSt q) ∧
      s.changesRegs [(.poolSgCtrl, 0, 4 * p + n)] t ∧ s.changes [.regs, .pool] t) ∧
  (∀ (p n value : Nat) (s : State), p < 64 → n < 4 →
    ∃ t, exec (.poolSgDisarm p n value) s = .next t ∧ t.guardState p n = 0 ∧
      t.fld F.POOL_SG_EPOCH 0 (4 * p + n) = bits value 15 0 ∧
      (s.guardState p n = 1 → t.fld F.POOL_IRQ_GUARD 0 p = 1) ∧
      s.changesRegs [(.poolSgCtrl, 0, 4 * p + n), (.poolIrqSts, 0, p)] t ∧ s.changes [.regs] t) ∧
  (∀ (p n : Nat) (env : Env) (s : State), p < 64 → n < 4 → (∀ o, s.owner p = some o → o < 64) → s.stopped = false →
    s.guardState p n = 1 →
    ∃ t, exec (.shardGuardCheck p n env) s = .next t ∧ t.fld F.POOL_IRQ_GUARD 0 p = 1 ∧
      (s.guardPasses p n env → t.guardState p n = 2) ∧
      (¬ s.guardPasses p n env → t.guardState p n = 3 ∧ t.fld F.POOL_E_SHARD 0 p = 1) ∧
      s.changes [.emitted, .free, .regs, .mem, .prt, .memc, .que, .pmc, .pool, .sec] t)

/-- The read of the statistics entry that report `r` is for, the queue of reports holding `rest` from then on (R121, R123). -/
def Sys2Proof.Machine.State.reportRead (s : State) (env : Env) (r : Report) (rest : List Report) : State × Resp × List Byte :=
  State.readVa { s with sta := { s.sta with reports := rest } } env (staRq r.part) (s.staVa (s.drive r.part) r.tensor) 64

/-- Report `r` stands first in the merger's queue, for an entry of the table of its partition. -/
def Sys2Proof.Machine.State.reportNext (s : State) (r : Report) (rest : List Report) : Prop :=
  s.stopped = false ∧ s.sta.reports = r :: rest ∧ s.cutOff r.part = false ∧ r.tensor < s.staLen (s.drive r.part)

/-- Entry `e` plus report `r`: the sums saturate, the maximum is the larger, and every other field is that of `e` (R122). -/
def Sys2Proof.Machine.entrySum (e : StaEnt) (r : Report) : StaEnt :=
  { e with elems := min (2 ^ 64 - 1) (e.elems + r.elems), zeros := min (2 ^ 64 - 1) (e.zeros + r.zeros),
           flush := min (2 ^ 64 - 1) (e.flush + r.flush), sat := min (2 ^ 64 - 1) (e.sat + r.sat),
           nonfin := min (2 ^ 32 - 1) (e.nonfin + r.nonfin), amax := max e.amax r.amax }

/-- The merger takes its reports and its outcomes oldest first, and drops one of a partition whose reset has reached the step
that discards them; without a table a report changes nothing more, and one outside its table sets STA_E_RANGE (R119, R123,
R375). A report of the open step of its tensor is added to the entry. A report of an entry with no step open starts one when
none was closed or the step is after the closed one: the sums start from the report. A report of a step that is not after the
open or closed one sets STA_E_LATE, and an entry that cannot be read sets STA_E_MEM; neither writes memory (R122, R123). An
outcome outside its table sets TAM_E_RANGE (R139). -/
def Obligations.MergerAndReports : Prop :=
  ((∀ (n : Nat) (env : Env) (s : State) (r : Report) (rest : List Report), s.stopped = false → s.sta.reports = r :: rest →
     ∃ t, exec (.statsReport n env) s = .next t ∧ t.sta.reports = rest ∧ t.sta.outcomes = s.sta.outcomes ∧
       (s.cutOff r.part = true ∨ s.staLen (s.drive r.part) = 0 ∧ n = 0 → t = { s with sta := { s.sta with reports := rest } }) ∧
       s.changes [.emitted, .free, .regs, .mem, .prt, .memc, .que, .pmc, .sta, .sec] t) ∧
   (∀ (env : Env) (s : State) (o : TamOutcome) (rest : List TamOutcome), s.stopped = false → s.sta.outcomes = o :: rest →
     ∃ t, exec (.tamOutcome env) s = .next t ∧ t.sta = { s.sta with outcomes := rest } ∧
       (s.cutOff o.part = true → t = { s with sta := { s.sta with outcomes := rest } }) ∧
       (s.cutOff o.part = false → min 65536 (s.fld F.TAM_TABLE_LEN (s.drive o.part) 0) ≤ o.tensor →
         t.fld F.TAM_E_RANGE 0 0 = 1 ∧ t.mem = s.mem) ∧
       s.changes [.emitted, .free, .regs, .mem, .prt, .memc, .que, .pmc, .sta, .sec] t)) ∧
  ((∀ (env : Env) (s : State) (r : Report) (rest : List Report), s.stopped = false → s.sta.reports = r :: rest →
     s.cutOff r.part = false → 0 < s.staLen (s.drive r.part) → s.staLen (s.drive r.part) ≤ r.tensor →
     ∃ t, exec (.statsReport 0 env) s = .next t ∧ t.fld F.STA_E_RANGE 0 0 = 1 ∧ t.sta = { s.sta with reports := rest } ∧
       s.changes [.regs, .sta] t) ∧
   (∀ (env : Env) (s : State) (r : Report) (rest : List Report), s.reportNext r rest →
     (s.reportRead env r rest).2.1 ≠ .okay →
     ∃ t, exec (.statsReport 0 env) s = .next t ∧ t.fld F.STA_E_MEM 0 0 = 1 ∧ t.mem = (s.reportRead env r rest).1.mem) ∧
   (∀ (env : Env) (s s1 s2 : State) (r : Report) (rest : List Report) (d : List Byte), s.reportNext r rest →
     s.reportRead env r rest = (s1, .okay, d) → bit (staEnt d).state 0 = true → (staEnt d).openStep = r.step →
     s1.writeVa env (staRq r.part) (s.staVa (s.drive r.part) r.tensor) (entrySum (staEnt d) r).bytes = (s2, .okay) →
     exec (.statsReport 0 env) s = .next s2) ∧
   (∀ (env : Env) (s s1 s2 : State) (r : Report) (rest : List Report) (d : List Byte), s.reportNext r rest →
     s.reportRead env r rest = (s1, .okay, d) → bit (staEnt d).state 0 = false →
     (bit (staEnt d).state 1 = true → stepAfter r.step (staEnt d).closedStep = true) →
     s1.writeVa env (staRq r.part) (s.staVa (s.drive r.part) r.tensor) (entrySum ((staEnt d).open_ r.step) r).bytes
       = (s2, .okay) →
     exec (.statsReport 0 env) s = .next s2 ∧ (entrySum ((staEnt d).open_ r.step) r).openStep = r.step ∧
       (entrySum ((staEnt d).open_ r.step) r).elems = min (2 ^ 64 - 1) r.elems ∧
       (entrySum ((staEnt d).open_ r.step) r).amax = r.amax) ∧
   (∀ (env : Env) (s s1 : State) (r : Report) (rest : List Report) (d : List Byte), s.reportNext r rest →
     s.reportRead env r rest = (s1, .okay, d) →
     (bit (staEnt d).state 0 = true ∧ (staEnt d).openStep ≠ r.step ∧ stepAfter r.step (staEnt d).openStep = false ∨
       bit (staEnt d).state 0 = false ∧ bit (staEnt d).state 1 = true ∧ stepAfter r.step (staEnt d).closedStep = false) →
     ∃ t, exec (.statsReport 0 env) s = .next t ∧ t.fld F.STA_E_LATE 0 0 = 1 ∧ t.mem = s1.mem))

/-- The close and ledger commands: a write starts a sweep over the partitions that the function governs, with the busy bit set by
the write itself, is ignored with STA_E_BUSY while one runs, and the sweep's end clears the busy bit (R124, R131, R141, R142).
STA_LEDGER_MARGIN is stored by an ignored write too (log entry 38). A push of the scale ledger puts the maximum into the
place that the head shows, moves the head round sixteen places, fills at most sixteen, and sets the ceiling from the greatest
maximum over a full history and to 0xFE otherwise; all maxima zero give the ceiling 0xFE too (R128). -/
def Obligations.SweepAndLedger : Prop :=
  ((∀ (fn value : Nat) (s : State), fn < 128 → s.fnOpen fn = true → s.staBusy fn = false → s.governed fn ≠ [] →
     ∃ t, exec (.staCloseStep fn value) s = .next t ∧ t.fld F.STA_CLOSE_BUSY fn 0 = 1 ∧
       t.sweep fn = some { kind := 0, step := value % 2 ^ 32, parts := s.governed fn } ∧
       (∀ g, g ≠ fn → t.sweep g = s.sweep g) ∧ t.sta.reports = s.sta.reports ∧ t.sta.outcomes = s.sta.outcomes ∧
       s.changesRegs [(.staStatus, fn, 0)] t ∧ s.changes [.regs, .sta] t) ∧
   (∀ (fn value : Nat) (s : State), fn < 128 → s.fnOpen fn = true → s.staBusy fn = true → ∀ c : Instr,
     c = .staCloseStep fn value ∨ c = .staLedgerCheck fn value ∨ c = .staLedgerInit fn value →
     ∃ t, exec c s = .next t ∧ t.fld F.STA_E_BUSY 0 0 = 1 ∧ t.sta = s.sta ∧ t.regN .staStatus fn 0 = s.regN .staStatus fn 0 ∧
       s.changes [.regs, .free] t) ∧
   (∀ (fn value kind : Nat) (s : State) (c : Instr), fn < 128 → s.fnOpen fn = true → s.staBusy fn = false → s.governed fn ≠ [] →
     kind = 1 ∧ c = .staLedgerCheck fn value ∨ kind = 2 ∧ c = .staLedgerInit fn value →
     ∃ t, exec c s = .next t ∧ t.fld F.STA_LEDGER_BUSY fn 0 = 1 ∧ t.fld F.STA_LEDGER_MARGIN fn 0 = bits value 1 0 ∧
       t.sweep fn = some { kind := kind, step := s.fld F.STA_LEDGER_STEP fn 0, parts := s.governed fn } ∧
       (∀ g, g ≠ fn → t.sweep g = s.sweep g) ∧ t.sta.reports = s.sta.reports ∧ t.sta.outcomes = s.sta.outcomes ∧
       s.changesRegs [(.staStatus, fn, 0), (.staLedgerCtrl, fn, 0)] t ∧ s.changes [.regs, .sta] t) ∧
   (∀ (fn : Nat) (env : Env) (s : State) (w : Sweep), s.stopped = false → s.sweep fn = some w → w.kind = 0 →
     ∃ t, exec (.staCloseSweepEnd fn env) s = .next t ∧ t.fld F.STA_CLOSE_BUSY fn 0 = 0 ∧ t.sweep fn = none ∧
       t.sta.reports = s.sta.reports ∧ (w.parts = [] → t.mem = s.mem) ∧
       s.changes [.emitted, .free, .regs, .mem, .prt, .memc, .que, .pmc, .sta, .sec] t) ∧
   (∀ (fn : Nat) (env : Env) (s : State) (w : Sweep), s.stopped = false → s.sweep fn = some w → w.kind ≠ 0 →
     ∃ t, exec (.ledgerCommandDone fn env) s = .next t ∧ t.fld F.STA_LEDGER_BUSY fn 0 = 0 ∧ t.sweep fn = none ∧
       t.sta.reports = s.sta.reports ∧
       s.changes [.emitted, .free, .regs, .mem, .prt, .memc, .que, .pmc, .sta, .sec] t)) ∧
  (∀ (e : LgrEnt) (amax step margin : Nat), e.amax.length = 16 → e.head < 16 → e.fill ≤ 16 →
     (e.push amax step margin).amax.length = 16 ∧
     (e.push amax step margin).amax[e.head]? = some amax ∧
     (∀ i, i ≠ e.head → (e.push amax step margin).amax[i]? = e.amax[i]?) ∧
     (e.push amax step margin).head = (e.head + 1) % 16 ∧
     (e.push amax step margin).fill = min (e.fill + 1) 16 ∧ (e.push amax step margin).step = step ∧
     (e.fill < 15 → (e.push amax step margin).ceil = 0xFE) ∧
     (15 ≤ e.fill → ∃ m, (m = amax ∨ ∃ i, i ≠ e.head ∧ e.amax[i]? = some m) ∧ amax ≤ m ∧
       (∀ i x, i ≠ e.head → e.amax[i]? = some x → x ≤ m) ∧
       (e.push amax step margin).ceil = if m = 0 then 0xFE else (max 0 (min 0xFE (log2Mag m + 127 + margin))).toNat) ∧
     ((∀ x ∈ e.amax, x = 0) → amax = 0 → (e.push amax step margin).ceil = 0xFE) ∧
     (e.push amax step margin).ceil ≤ 0xFE)

/-! ### Pool cores -/

/-- The core of pool `p` finds the 32-bit word `w` at its program counter. -/
def Sys2Proof.Machine.State.fetches (s : State) (env : Env) (p w : Nat) : Prop :=
  ∃ s1 s2 h g, State.fetchParcel ((doMtimeCompare p s).withCore p fun c => { c with waiting := false }) env p (s.core p).pc
      = (s1, .ok h) ∧ h % 4 = 3 ∧ s1.fetchParcel env p ((s.core p).pc + 2) = (s2, .ok g) ∧ w = h + g * 65536

/-- A core of an assigned pool starts in machine mode at POOL_CORE_PC_VA with empty caches; a write that stops it, and the
end of its stop, show in POOL_CORE_RUN and POOL_CORE_HALTED; mtime is compared with mtimecmp (R146, R149). One command of a
pool core (R144, R146, R154): a core that does not run does nothing; a due interrupt is taken in machine mode at mtvec, with
mcause saying which; ADDI and ADD write their sum to rd and nothing else, x0 discarding it, and the program counter moves
past them. What the RISC-V standard says beside the chapter is log entry 9. -/
def Obligations.PoolCoreRuns : Prop :=
  ((∀ (p : Nat) (s : State), p < 64 → s.coreRun p = false → s.owner p ≠ none →
     ∃ t, exec (.poolCoreRun p) s = .next t ∧ t.fld F.POOL_CORE_RUN 0 p = 1 ∧ t.fld F.POOL_CORE_HALTED 0 p = 0 ∧
       (t.core p).pc = 2 * s.fld F.POOL_CORE_PC_VA 0 p ∧ (t.core p).machine = true ∧ (t.core p).dcache = [] ∧
       (t.core p).icache = [] ∧ (t.core p).x = (s.core p).x ∧ (t.core p).csr = (s.core p).csr ∧
       (∀ q, q ≠ p → t.poolSt q = s.poolSt q) ∧ s.changesRegs [(.poolCoreCtrl, 0, p)] t ∧ s.changes [.regs, .pool] t) ∧
   (∀ (p : Nat) (s : State), s.coreRun p = true ∨ s.owner p = none → exec (.poolCoreRun p) s = .next s) ∧
   (∀ (p : Nat) (s : State),
     ∃ t, exec (.poolCoreStop p) s = .next t ∧ t.fld F.POOL_CORE_RUN 0 p = 0 ∧ t.coreRuns p = false ∧
       t.fld F.POOL_CORE_HALTED 0 p = s.fld F.POOL_CORE_HALTED 0 p ∧
       s.changesRegs [(.poolCoreCtrl, 0, p)] t ∧ s.changes [.regs] t) ∧
   (∀ (p : Nat) (env : Env) (s : State), s.stopped = false → s.coreRun p = false → s.flag F.POOL_CORE_HALTED 0 p = false →
     ∃ t, exec (.poolCoreStopDone p env) s = .next t ∧ t.fld F.POOL_CORE_HALTED 0 p = 1 ∧
       ((s.core p).dcache = [] → t.mem = s.mem ∧ t.pool = s.pool) ∧
       s.changes [.emitted, .free, .regs, .mem, .prt, .memc, .que, .pmc, .pool, .sec] t) ∧
   (∀ (p : Nat) (s : State),
     ∃ t, exec (.mtimeCompare p) s = .next t ∧ (t.core p).mtip = decide ((s.core p).mtimecmp ≤ s.ns) ∧
       t.poolSt p = { s.poolSt p with core := { s.core p with mtip := (t.core p).mtip } } ∧
       (∀ q, q ≠ p → t.poolSt q = s.poolSt q) ∧ s.changes [.pool] t)) ∧
  ((∀ (p : Nat) (env : Env) (s : State), s.coreRuns p = false → exec (.poolCoreInstruction p env) s = .next s) ∧
   (∀ (p cause : Nat) (env : Env) (s : State), s.coreRuns p = true → (doMtimeCompare p s).irqDue p = some cause →
     ∃ t, exec (.poolCoreInstruction p env) s = .next t ∧ (t.core p).machine = true ∧ (t.core p).waiting = false ∧
       t.csr p 0x341 = (s.core p).pc % 2 ^ 64 ∧ t.csr p 0x342 = 2 ^ 63 + cause ∧
       t.mst p 7 7 = s.mst p 3 3 ∧ t.mst p 3 3 = 0 ∧ t.mst p 12 11 = (if (s.core p).machine then 3 else 0) ∧
       (t.core p).x = (s.core p).x ∧ s.changes [.pool] t) ∧
   (∀ (p w : Nat) (env : Env) (s : State), s.coreRuns p = true → (s.core p).waiting = false →
     (doMtimeCompare p s).irqDue p = none → s.fetches env p w → w < 2 ^ 32 →
     (w % 128 = 0x13 ∧ wF3 w = 0 ∨ w % 128 = 0x33 ∧ wF3 w = 0 ∧ wF7 w = 0) →
     ∃ t, exec (.poolCoreInstruction p env) s = .next t ∧ (t.core p).pc = ((s.core p).pc + 4) % 2 ^ 64 ∧
       (∀ r, t.xr p r = if r = wRd w ∧ r ≠ 0 then
           (s.xr p (wRs1 w) + if w % 128 = 0x13 then sx 12 (bits w 31 20) else s.xr p (wRs2 w)) % 2 ^ 64
         else s.xr p r) ∧
       (t.core p).f = (s.core p).f ∧ (t.core p).v = (s.core p).v ∧ (t.core p).machine = (s.core p).machine ∧
       s.changes [.emitted, .free, .regs, .mem, .prt, .memc, .que, .pmc, .pool, .sec] t))

/-- The tile-queue page of a running core: a pop takes the oldest work order of the inbox, a status written completes the
oldest popped one, and both set POOL_E_WO when there is none; a read of POOL_TQ_CPL_INFO removes the oldest completion (R152,
R153, R506). -/
def Obligations.WorkOrdersAndCompletions : Prop :=
  (∀ (p : Nat) (s : State) (w : WorkOrder) (rest : List WorkOrder), s.coreRuns p = true → (s.poolSt p).inbox = w :: rest →
    ∃ t w', exec (.poolWoPop p) s = .next t ∧ (t.poolSt p).inbox = rest ∧ (t.poolSt p).popped = (s.poolSt p).popped ++ [w'] ∧
      w'.bytes = w.bytes ∧ w'.ticket = { w.ticket with t3 := s.ns } ∧ (t.poolSt p).queue = (s.poolSt p).queue ∧
      s.changes [.pool] t) ∧
  (∀ (p status : Nat) (env : Env) (s : State) (w : WorkOrder) (rest : List WorkOrder), s.coreRuns p = true →
    (s.poolSt p).popped = w :: rest →
    ∃ t, exec (.poolWoDone p status env) s = .next t ∧ (t.poolSt p).popped = rest ∧ (t.poolSt p).inbox = (s.poolSt p).inbox ∧
      (t.ring w.ticket.fn w.ticket.ring).inflight = (s.ring w.ticket.fn w.ticket.ring).inflight.erase w.ticket.idx ∧
      s.changes [.emitted, .regs, .prt, .que, .pmc, .pool] t) ∧
  (∀ (p : Nat) (s : State), s.coreRuns p = true → (s.poolSt p).inbox = [] →
    ∃ t, exec (.poolWoPop p) s = .next t ∧ t.fld F.POOL_E_WO 0 p = 1 ∧ s.changes [.regs] t) ∧
  (∀ (p status : Nat) (env : Env) (s : State), s.coreRuns p = true → (s.poolSt p).popped = [] →
    ∃ t, exec (.poolWoDone p status env) s = .next t ∧ t.fld F.POOL_E_WO 0 p = 1 ∧ s.changes [.regs] t) ∧
  (∀ (p : Nat) (s : State), s.coreRuns p = true →
    ∃ t, exec (.poolTqCplInfoRead p) s = .next t ∧ t.poolSt p = { s.poolSt p with cpls := (s.poolSt p).cpls.tail } ∧
      (∀ q, q ≠ p → t.poolSt q = s.poolSt q) ∧ s.changes [.pool] t)

/-! ### Parterre images -/

/-- A load or check starts when none runs and the module is READY, is ignored with PTE_E_BUSY while one runs, and ends at
once with BUSY before READY; the check of the image ends it. A fault records its code and item and leaves the image in force and
memory as they are; a check that passes changes PTE_RESULT and PTE_BUSY and nothing else, and a good load brings the image into
force; both leave PTE_FAIL_INDEX. An image that cannot be read gives READ, and one checked while the arithmetic clocks are
stopped gives BUSY (R159, R162, R457, R467, R485). -/
def Obligations.ParterreLoadsAndChecks : Prop :=
  (∀ (s : State), s.pte.running = none → s.fld F.TOP_STAGE 0 0 = 7 →
    ∃ t, exec .pteLoad s = .next t ∧ t.fld F.PTE_BUSY 0 0 = 1 ∧ t.pte = { s.pte with running := some false } ∧
      s.changesRegs [(.pteStatus, 0, 0)] t ∧ s.changes [.regs, .pte] t) ∧
  (∀ (load : Bool) (s : State), s.pte.running = none → s.fld F.TOP_STAGE 0 0 = 7 →
    ∃ t, exec (.pteCheckOnly load) s = .next t ∧ t.fld F.PTE_BUSY 0 0 = 1 ∧ t.pte = { s.pte with running := some true } ∧
      s.changesRegs [(.pteStatus, 0, 0)] t ∧ s.changes [.regs, .pte] t) ∧
  (∀ (s : State), s.pte.running ≠ none →
    ∃ t, exec .pteLoad s = .next t ∧ t.fld F.PTE_E_BUSY 0 0 = 1 ∧ s.changes [.regs] t) ∧
  (∀ (load : Bool) (s : State), s.pte.running ≠ none →
    ∃ t, exec (.pteCheckOnly load) s = .next t ∧ t.fld F.PTE_E_BUSY 0 0 = 1 ∧ s.changes [.regs] t) ∧
  (∀ (s : State) (load : Bool) (c : Instr), s.pte.running = none → s.fld F.TOP_STAGE 0 0 ≠ 7 →
    c = .pteLoad ∨ c = .pteCheckOnly load →
    ∃ t, exec c s = .next t ∧ t.fld F.PTE_RESULT 0 0 = 13 ∧ t.fld F.PTE_FAIL_INDEX 0 0 = 255 ∧ t.fld F.PTE_BUSY 0 0 = 0 ∧
      t.pte = s.pte ∧ s.changes [.regs, .pte] t) ∧
  (∀ (env : Env) (s : State) (only : Bool), s.pte.running = some only → s.stopped = false →
    ∃ t, exec (.parterreImageCheck env) s = .next t ∧ t.pte.running = none ∧ t.fld F.PTE_BUSY 0 0 = 0 ∧
      (∀ s1 b, s.readBus env (s.fld F.PTE_IMAGE_BUS 0 0 * 64) 2720 = (s1, true, b) →
        (∀ code item, s1.imageFault b = some (code, item) →
          t.pte.image = s.pte.image ∧ t.fld F.PTE_RESULT 0 0 = code % 2 ^ 8 ∧ t.fld F.PTE_FAIL_INDEX 0 0 = item % 2 ^ 8 ∧
            t.mem = s.mem) ∧
        (s1.imageFault b = none → t.fld F.PTE_RESULT 0 0 = 0 ∧
          t.pte.image = (if only then s.pte.image else imageOf b) ∧
          t.fld F.PTE_FAIL_INDEX 0 0 = s.fld F.PTE_FAIL_INDEX 0 0 ∧
          (only = true → s1.changesRegs [(F.PTE_BUSY.reg, 0, 0)] t ∧ s1.changes [.regs, .pte] t))) ∧
      (∀ s1 b, s.readBus env (s.fld F.PTE_IMAGE_BUS 0 0 * 64) 2720 = (s1, false, b) →
        t.pte.image = s.pte.image ∧ t.fld F.PTE_RESULT 0 0 = 1)) ∧
  (∀ (env : Env) (s : State) (only : Bool), s.pte.running = some only → s.stopped = true →
    ∃ t, exec (.parterreImageCheck env) s = .next t ∧ t.pte.running = none ∧ t.fld F.PTE_BUSY 0 0 = 0 ∧
      t.fld F.PTE_RESULT 0 0 = 13 ∧ t.pte.image = s.pte.image ∧ t.mem = s.mem)

/-! ### Device memory -/

/-- The far view's offset of a byte of a channel leads back to that byte: the hash of R169 loses nothing, on either part, for
every channel and every offset of its 12 GiB. -/
def Obligations.MemoryHashIsInvertible : Prop :=
  ∀ (p : Part) (ch off : Nat), ch < (match p with | .gx4 => 128 | .gx2 => 64) → off < 0x300000000 →
    dpaRoute p (farDpa p ch off) = some (ch, off)

/-- A full write of a unit by a controller is read back: the bytes stored are the ones read, whatever was wrong with the unit's
codewords before, and every byte outside the unit is as it was. A unit's write over links that are whole, at a channel where
nothing else waits, does the same (R165, R171, R175, R176). -/
def Obligations.MemoryReadsWhatWasWritten : Prop :=
  (∀ (s : State) (env : Env) (rq : Rq) (dpa ch off : Nat) (d : List Byte), env.ecc = [] → d.length = 64 → off % 64 = 0 →
    ∃ t, s.writeAt env rq dpa ch off d (List.replicate 64 true) = (t, .okay) ∧
      (t.readAt env rq dpa ch off).2 = (.okay, d) ∧
      (∀ i, i < 64 → t.byte (physKey ch off + i) = d.getD i 0) ∧
      (∀ k, k < physKey ch off ∨ physKey ch off + 64 ≤ k → t.byte k = s.byte k)) ∧
  (∀ (s : State) (env : Env) (rq : Rq) (dpa ch off : Nat) (d : List Byte), env.ecc = [] → d.length = 64 →
    dpaRoute s.part dpa = some (ch, off) → off % 64 = 0 → s.cut rq.die (chanDie ch) = false → (s.chan ch).queue = [] →
    ∃ t, s.writeUnitDpa env rq dpa d (List.replicate 64 true) = (t, .okay) ∧
      (t.readUnitDpa env rq dpa).2 = (.okay, d) ∧ (t.chan ch).queue = [] ∧
      (∀ i, i < 64 → t.byte (physKey ch off + i) = d.getD i 0) ∧
      (∀ k, k < physKey ch off ∨ physKey ch off + 64 ≤ k → t.byte k = s.byte k))

/-- The translation that MEM_ACCESS `a` makes on its arrival. -/
def Sys2Proof.Machine.State.accTranslate (s : State) (env : Env) (a : Acc) : State × Except Resp Target :=
  State.translate { s with memc := { s.memc with nextId := s.memc.nextId + 1 } } env ⟨a.cls, a.part, a.part, a.die⟩
    (a.addr / 64 * 64) a.write

/-- An access that arrives: by device address it waits at the channel of the hash as its newest access, or is answered RANGE
outside every view; by virtual address it goes where the tables lead, to a channel or over PCIe, or is answered with their
fault. One that would take a fenced die link is answered UE, and one of the host bus from a requester with no path to PCIe RANGE
(R21, R168, R169, R173, R177, R181, R454). No access writes memory on its way there. The grant slot serves the oldest ready
access of the ready partition with the smallest tag, whose tag then moves by its increment, and with none ready nothing changes;
a full write stores its 64 bytes where R169 places its address, and nothing else; a read of clean codewords is answered with their
bytes (R171, R176, R181). A channel's own commands: the patrol moves to its next codeword when no access is ready and takes no
slot otherwise unless it is late, a per-bank refresh moves to the next bank, the package's temperature is kept, the write timing
follows the oscillator, and an idle channel powers down; a channel in self-refresh takes none of the last four (R166, R178, R179).
-/
def Obligations.MemoryAccessesAndChannels : Prop :=
  ((∀ (a : Acc) (env : Env) (s : State) (ch off : Nat), s.stopped = false → a.phys = true →
     dpaRoute s.part (a.addr / 64 * 64) = some (ch, off) → s.cut a.die (chanDie ch) = false →
     ∃ t, exec (.memAccess a env) s = .next t ∧
       (t.chan ch).queue = (s.chan ch).queue
         ++ [⟨s.memc.nextId, a.cls, a.die, a.part, a.addr, 0, a.addr / 64 * 64, off, a.write, a.data, a.mask⟩] ∧
       (t.chan ch).powerDown = false ∧ t.memc.nextId = s.memc.nextId + 1 ∧ (∀ c, c ≠ ch → t.chan c = s.chan c) ∧
       s.changes [.emitted, .memc] t) ∧
   (∀ (a : Acc) (env : Env) (s : State) (ch off : Nat), s.stopped = false → a.phys = true →
     dpaRoute s.part (a.addr / 64 * 64) = some (ch, off) → s.cut a.die (chanDie ch) = true →
     ∃ t, exec (.memAccess a env) s = .next t ∧ t.emitted = s.emitted ++ [.memResp s.memc.nextId .ue []] ∧
       (∀ c, t.chan c = s.chan c) ∧ s.changes [.emitted, .memc] t) ∧
   (∀ (a : Acc) (env : Env) (s : State), s.stopped = false → a.phys = true →
     dpaRoute s.part (a.addr / 64 * 64) = none →
     ∃ t, exec (.memAccess a env) s = .next t ∧ t.fld F.MEM_E_RANGE 0 0 = 1 ∧
       t.emitted = s.emitted ++ [.memResp s.memc.nextId .range []] ∧ s.changes [.emitted, .regs, .memc] t) ∧
   (∀ (a : Acc) (env : Env) (s s1 : State) (r : Resp), s.stopped = false → a.phys = false →
     s.accTranslate env a = (s1, .error r) →
     ∃ t, exec (.memAccess a env) s = .next t ∧ t.emitted = s1.emitted ++ [.memResp s.memc.nextId r []] ∧
       (r = .xlate ∨ r = .perm → t.fld F.MEM_E_XLATE 0 0 = 1) ∧ t.mem = s1.mem) ∧
   (∀ (a : Acc) (env : Env) (s s1 : State) (dpa ch off : Nat), s.stopped = false → a.phys = false →
     s.accTranslate env a = (s1, .ok (.dev dpa)) → dpaRoute s.part dpa = some (ch, off) →
     s1.cut a.die (chanDie ch) = false →
     ∃ t q, exec (.memAccess a env) s = .next t ∧ (t.chan ch).queue = (s1.chan ch).queue ++ [q] ∧ q.id = s.memc.nextId ∧
       q.addr = dpa ∧ q.off = off ∧ q.write = a.write ∧ q.data = a.data ∧ q.mask = a.mask ∧ q.part = a.part ∧
       t.mem = s1.mem) ∧
   (∀ (a : Acc) (env : Env) (s s1 : State) (b : Nat), s.stopped = false → a.phys = false →
     s.accTranslate env a = (s1, .ok (.bus b)) → pciePath a.cls = true → s1.cut a.die .plinth = false →
     ∃ t, exec (.memAccess a env) s = .next t ∧ t.mem = s1.mem ∧
       (a.write = true → t.emitted.getLast? = some (.memResp s.memc.nextId .okay []) ∧ t.memc = s1.memc) ∧
       (a.write = false → ∃ q, t.memc.hostOut = s1.memc.hostOut ++ [q] ∧ q.id = s.memc.nextId ∧ q.addr = b ∧
         q.part = a.part)) ∧
   (∀ (a : Acc) (env : Env) (s s1 : State) (b : Nat), s.stopped = false → a.phys = false →
     s.accTranslate env a = (s1, .ok (.bus b)) → pciePath a.cls = false →
     ∃ t, exec (.memAccess a env) s = .next t ∧ t.mem = s1.mem ∧ t.fld F.MEM_E_RANGE 0 0 = 1 ∧
       t.emitted = s1.emitted ++ [.memResp s.memc.nextId .range []])) ∧
  ((∀ (ch : Nat) (env : Env) (s : State) (q : MemReq), s.stopped = false → (s.chan ch).next = some q →
     ∃ t, exec (.memGrantSlot ch env) s = .next t ∧ (t.chan ch).queue = (s.chan ch).queue.erase q ∧
       q ∈ readyReqs [] (s.chan ch).queue ∧
       (t.chan ch).vnow = sget 0 (s.chan ch).tags q.part ∧
       sget 0 (t.chan ch).tags q.part = (sget 0 (s.chan ch).tags q.part + s.tagInc q.part) % 2 ^ 32 ∧
       (∀ j, j ≠ q.part → j ∈ (readyReqs [] (s.chan ch).queue).map (·.part) →
         sget 0 (t.chan ch).tags j = sget 0 (s.chan ch).tags j) ∧
       (∃ r d, t.emitted.getLast? = some (.memResp q.id r d)) ∧
       s.changes [.emitted, .free, .regs, .mem, .prt, .memc, .que, .pmc, .sec] t) ∧
   (∀ (ch : Nat) (env : Env) (s : State), (s.chan ch).next = none → exec (.memGrantSlot ch env) s = .next s) ∧
   (∀ (ch : Nat) (env : Env) (s : State) (q : MemReq), s.stopped = false → (s.chan ch).next = some q → q.write = true →
     q.mask = List.replicate 64 true → q.data.length = 64 →
     ∃ t, exec (.memGrantSlot ch env) s = .next t ∧
       (∀ j, j < 64 → t.byte (physKey ch q.off + j) = q.data.getD j 0) ∧
       (∀ k, k < physKey ch q.off ∨ physKey ch q.off + 64 ≤ k → t.byte k = s.byte k) ∧
       t.emitted.getLast? = some (.memResp q.id .okay [])) ∧
   (∀ (ch : Nat) (env : Env) (s : State) (q : MemReq), s.stopped = false → (s.chan ch).next = some q → q.write = false →
     env.ecc = [] → (s.codeword (physKey ch q.off / 32)).errs = [] → (s.codeword ((physKey ch q.off + 32) / 32)).errs = [] →
     ∃ t, exec (.memGrantSlot ch env) s = .next t ∧ t.mem = s.mem ∧
       t.emitted.getLast? = some (.memResp q.id .okay
         (s.seen (s.xtsKey q.part) (physKey ch q.off) ++ s.seen (s.xtsKey q.part) (physKey ch q.off + 32))))) ∧
  ((∀ (ch : Nat) (env : Env) (s : State), s.stopped = false → s.flag F.MEM_PATROL_DISABLE 0 0 = false →
     readyReqs [] (s.chan ch).queue = [] →
     ∃ t, exec (.patrolRead ch env) s = .next t ∧
       (t.chan ch).patrol = (if (s.chan ch).patrol + 1 = codewords then 0 else (s.chan ch).patrol + 1) ∧
       (t.chan ch).queue = (s.chan ch).queue ∧ (t.chan ch).powerDown = false ∧
       (env.ecc = [] → (s.codeword (physKey ch (32 * (s.chan ch).patrol) / 32)).errs = [] →
         t.mem = s.mem ∧ t.regs = s.regs) ∧
       s.changes [.emitted, .free, .regs, .mem, .prt, .memc, .que, .pmc] t) ∧
   (∀ (ch : Nat) (env : Env) (s : State), readyReqs [] (s.chan ch).queue ≠ [] → s.patrolLate ch = false →
     exec (.patrolRead ch env) s = .next s) ∧
   (∀ (ch : Nat) (s : State), (s.chan ch).selfRefresh = false →
     ∃ t, exec (.refresh ch) s = .next t ∧ t.emitted = s.emitted ++ [.dram ch (.refreshBank (s.chan ch).bank)] ∧
       t.chan ch = { s.chan ch with bank := ((s.chan ch).bank + 1) % Config.banks } ∧ s.changes [.emitted, .memc] t) ∧
   (∀ (ch celsius : Nat) (s : State), (s.chan ch).selfRefresh = false →
     ∃ t, exec (.memTempRead ch celsius) s = .next t ∧ t.emitted = s.emitted ++ [.dram ch .readTemperature] ∧
       t.chan ch = { s.chan ch with hot := decide (85 < celsius) } ∧ sget 0 t.memc.temps (ch / 4) = celsius ∧
       s.changes [.emitted, .memc] t) ∧
   (∀ (ch : Nat) (s : State), (s.chan ch).selfRefresh = false →
     ∃ t, exec (.writeTimingCompensation ch) s = .next t ∧
       t.emitted = s.emitted ++ [.dram ch .readOscillator] ++ [.dram ch .adjustWriteTiming] ∧ s.changes [.emitted] t) ∧
   (∀ (ch : Nat) (s : State), (s.chan ch).queue = [] → (s.chan ch).powerDown = false → (s.chan ch).selfRefresh = false →
     ∃ t, exec (.powerDownEntry ch) s = .next t ∧ t.emitted = s.emitted ++ [.dram ch .powerDownEntry] ∧
       t.chan ch = { s.chan ch with powerDown := true } ∧ s.changes [.emitted, .memc] t) ∧
   (∀ (ch celsius : Nat) (s : State), (s.chan ch).selfRefresh = true → ∀ c : Instr,
     c = .refresh ch ∨ c = .memTempRead ch celsius ∨ c = .writeTimingCompensation ch ∨ c = .powerDownEntry ch →
     exec c s = .next s))

/-- Some access under a translation that invalidation `i` covers awaits its response: at a channel, over PCIe, out of a window of
the host memory port, or of a packet of a flow (R174). -/
def Sys2Proof.Machine.State.invalWaits (s : State) (i : Nat × Nat × Nat) : Bool :=
  s.memc.chans.any (fun e => e.2.queue.any (inFlightUnder i)) || s.memc.hostOut.any (inFlightUnder i)
    || s.hmp.chans.any (fun e => e.2.out.any fun o => s.writeUnder i o.part o.va 32)
    || s.aqd.ctxs.any (fun e => s.placedUnder i e.2)

/-- A read that went over PCIe is answered with its data, or UE on an error or a timeout; an answer to no read changes
nothing (R177). An invalidation starts with the scope, partition and address of its registers, unless one runs; it ends once
no access under a translation it covers waits, and no covered translation is left (R174). -/
def Obligations.HostReadsAndTranslation : Prop :=
  ((∀ (id : Nat) (data : List Byte) (s : State) (q : MemReq), s.memc.hostOut.find? (fun q => q.id = id) = some q →
     ∃ t, exec (.hostBusCompletion id true data) s = .next t ∧
       t.memc = { s.memc with hostOut := s.memc.hostOut.erase q } ∧
       t.emitted = s.emitted ++ [.memResp id .okay (fit 64 data)] ∧ s.changes [.emitted, .memc] t) ∧
   (∀ (id : Nat) (data : List Byte) (s : State) (q : MemReq) (c : Instr),
     s.memc.hostOut.find? (fun q => q.id = id) = some q →
     c = .hostBusCompletion id false data ∨ c = .pcieCompletionTimeout id →
     ∃ t, exec c s = .next t ∧ t.memc = { s.memc with hostOut := s.memc.hostOut.erase q } ∧
       t.emitted = s.emitted ++ [.memResp id .ue []] ∧ s.changes [.emitted, .memc] t) ∧
   (∀ (id : Nat) (ok : Bool) (data : List Byte) (s : State), s.memc.hostOut.find? (fun q => q.id = id) = none →
     exec (.hostBusCompletion id ok data) s = .next s ∧ exec (.pcieCompletionTimeout id) s = .next s)) ∧
  ((∀ (value : Nat) (s : State), bit value 16 = true → s.flag F.MEM_TLB_BUSY 0 0 = false →
     ∃ t, exec (.memTlbGo value) s = .next t ∧ t.fld F.MEM_TLB_BUSY 0 0 = 1 ∧
       t.memc = { s.memc with inval := some (bits value 9 8, bits value 5 0, s.fld F.MEM_TLB_VA 0 0 * 4096) } ∧
       s.changesRegs [(.memTlbInvCtrl, 0, 0)] t ∧ s.changes [.regs, .memc] t) ∧
   (∀ (value : Nat) (s : State), s.flag F.MEM_TLB_BUSY 0 0 = true →
     ∃ t, exec (.memTlbGo value) s = .next t ∧ t.memc = s.memc ∧ t.fld F.MEM_TLB_SCOPE 0 0 = bits value 9 8 ∧
       t.fld F.MEM_TLB_PART 0 0 = bits value 5 0) ∧
   (∀ (s : State) (i : Nat × Nat × Nat), s.memc.inval = some i → s.invalWaits i = true →
     exec .tlbInvalidationDone s = .next s) ∧
   (∀ (s : State) (i : Nat × Nat × Nat), s.memc.inval = some i → s.invalWaits i = false →
     ∃ t, exec .tlbInvalidationDone s = .next t ∧ t.fld F.MEM_TLB_BUSY 0 0 = 0 ∧ t.memc.inval = none ∧
       (∀ e ∈ t.memc.tlb, e ∈ s.memc.tlb ∧ covers i e.part (e.page <<< pageBits e.level) (pageBits e.level) = false) ∧
       (∀ e ∈ s.memc.tlb, covers i e.part (e.page <<< pageBits e.level) (pageBits e.level) = false → e ∈ t.memc.tlb) ∧
       s.changes [.regs, .memc] t))

/-! ### Updates and the mirror stream -/

/-- An update starts on the bucket that the gate lets through: its record is read and its plan fixed from the record, a record
that cannot be read or is rejected setting its error, an epoch already applied or out of sequence shown by the plan; with
four under way, or none ready, none starts. The end of one that an abort overtook leaves nothing of the bucket; the end of
any other of a group of several ranks hands the bucket to the gather, which awaits every other rank (R185, R186, R191 to R193,
R218, R231). A write that sets UPD_MIR_ENABLE arms the stream from UPD_MIR_NEXT and ends a broken one, one that clears it abandons
the copy under way, and the write stores interval, share and enable (R194, R199). What the armed stream counts from is the model's
reading (log entry 21). -/
def Obligations.UpdatesAndMirrorStreams : Prop :=
  ((∀ (tier part g tag : Nat) (env : Env) (s s1 : State) (r : Resp) (d : List Byte), s.stopped = false →
     s.updating tier < 4 → s.nextUpdate tier = some (part, g, tag) →
     s.readVa env (casRq part tier) (s.own part g tag).recVa 192 = (s1, r, d) →
     ∃ t, exec (.updateStart tier env) s = .next t ∧ (t.own part g tag).st = 4 ∧ (t.own part g tag).rec_ = d ∧
       (t.own part g tag).sum = (s.own part g tag).sum ∧ (t.own part g tag).epoch = (s.own part g tag).epoch ∧
       (r ≠ .okay → (t.own part g tag).plan = 4 ∧ t.fld F.UPD_E_READ 0 0 = 1) ∧
       (r = .okay → (updOf d).rejected (s.own part g tag).elems = true →
         (t.own part g tag).plan = 4 ∧ t.fld F.UPD_E_RECORD 0 0 = 1) ∧
       (r = .okay → (updOf d).rejected (s.own part g tag).elems = false →
         signed 16 ((s.own part g tag).epoch + 65536 - (updOf d).lastEpoch) = 0 → (t.own part g tag).plan = 1) ∧
       (r = .okay → (updOf d).rejected (s.own part g tag).elems = false →
         signed 16 ((s.own part g tag).epoch + 65536 - (updOf d).lastEpoch) ≠ 0 →
         signed 16 ((s.own part g tag).epoch + 65536 - (updOf d).lastEpoch) ≠ 1 →
         (t.own part g tag).plan = 3 ∧ t.fld F.UPD_E_EPOCH 0 0 = 1) ∧
       (r = .okay → (updOf d).rejected (s.own part g tag).elems = false → (updOf d).nfSkip = false →
         signed 16 ((s.own part g tag).epoch + 65536 - (updOf d).lastEpoch) = 1 → (t.own part g tag).plan = 0) ∧
       (s.aqd.notes = [] → s.flag F.UPD_MIR_ENABLE (s.drive part) 0 = false → t.mem = s1.mem)) ∧
   (∀ (tier : Nat) (env : Env) (s : State), 4 ≤ s.updating tier ∨ s.nextUpdate tier = none →
     exec (.updateStart tier env) s = .next s) ∧
   (∀ (part g tag : Nat) (env : Env) (s : State), s.stopped = false → (s.own part g tag).st = 4 →
     (s.own part g tag).plan = 1 → (s.mirror (s.drive part)).copy = none → s.grpState part g = 3 → s.cas.waiting = [] →
     ∃ t, exec (.updateDone part g tag env) s = .next t ∧ t.own part g tag = {}) ∧
   (∀ (part g tag : Nat) (env : Env) (s : State) (x : CasGroup), s.stopped = false → (s.own part g tag).st = 4 →
     (s.own part g tag).plan = 1 → (s.mirror (s.drive part)).copy = none → s.grpState part g ≠ 3 → s.cas.waiting = [] →
     s.grp part g = some x → 2 ≤ x.hdr.n →
     ∃ t, exec (.updateDone part g tag env) s = .next t ∧ (t.own part g tag).st = 5 ∧ (t.own part g tag).status = 0 ∧
       (t.own part g tag).awaiting = (upFrom 0 x.hdr.n).filter (fun r => r ≠ x.hdr.self_))) ∧
  ((∀ (fn value : Nat) (s : State), fn < 128 → s.fnOpen fn = true → bit value 0 = true →
     s.flag F.UPD_MIR_ENABLE fn 0 = false →
     ∃ t, exec (.updMirEnable fn value) s = .next t ∧ t.fld F.UPD_MIR_ENABLE fn 0 = 1 ∧
       t.fld F.UPD_MIR_INTERVAL fn 0 = bits value 31 16 ∧ t.fld F.UPD_MIR_SHARE fn 0 = bits value 15 8 ∧
       t.fld F.UPD_MIR_BROKEN fn 0 = 0 ∧
       t.mirror fn = { s.mirror fn with armed := some (s.fld F.UPD_MIR_NEXT fn 0) } ∧
       s.changesRegs [(.updMirCtrl, fn, 0), (.updMirStatus, fn, 0)] t ∧ s.changes [.regs, .cas] t) ∧
   (∀ (fn value : Nat) (s : State), fn < 128 → s.fnOpen fn = true → bit value 0 = false →
     s.flag F.UPD_MIR_ENABLE fn 0 = true → (s.mirror fn).copy.isSome = true →
     ∃ t, exec (.updMirEnable fn value) s = .next t ∧ t.fld F.UPD_MIR_ENABLE fn 0 = 0 ∧
       t.fld F.UPD_MIR_INTERVAL fn 0 = bits value 31 16 ∧ t.fld F.UPD_MIR_SHARE fn 0 = bits value 15 8 ∧
       t.fld F.UPD_MIR_BUSY fn 0 = 0 ∧ (t.mirror fn).copy = none ∧ (t.mirror fn).out = [] ∧
       s.changesRegs [(.updMirCtrl, fn, 0), (.updMirStatus, fn, 0)] t ∧ s.changes [.regs, .cas, .aqd] t))

/-! ### The Cascade -/

/-- An arm waits for the group's descriptors and makes an idle group ARMING; they are then read, and the group is armed and empty, or
the arm is rejected with a code. An arm of a group that was not idle is rejected with READ, FORMAT or KEY and leaves it as it is.
A remap replaces the rank entry and drops what waited for the rank; one of the rank itself, or beyond the group, sets CAS_E_POST.
An abort ends a group of which no bucket is UPDATING, and of any other keeps those buckets alone (R209, R230, R231). -/
def Obligations.CascadeGroupCommands : Prop :=
  (∀ (vf g : Nat) (s : State), vf ≠ 0 → vf < 128 → g < 16 → s.fnOpen vf = true → s.fld F.CAS_GRP_STATE vf g = 0 →
    ∃ t, exec (.casGrpArm vf g) s = .next t ∧ t.fld F.CAS_GRP_STATE vf g = 2 ∧
      t.cas = { s.cas with arming := s.cas.arming ++ [(gkey (vf - 1) g, true)] } ∧
      s.changesRegs [(.casGrpCtrl, vf, g)] t ∧ s.changes [.regs, .cas] t) ∧
  (∀ (vf g : Nat) (s : State), vf ≠ 0 → g < 16 → s.fnOpen vf = true → s.fld F.CAS_GRP_STATE vf g ≠ 0 →
    ∃ t, exec (.casGrpArm vf g) s = .next t ∧
      t.cas = { s.cas with arming := s.cas.arming ++ [(gkey (vf - 1) g, false)] } ∧ s.changes [.cas] t) ∧
  (∀ (vf g : Nat) (env : Env) (s : State) (a : Nat × Bool), vf ≠ 0 → vf < 128 → g < 16 → s.stopped = false →
    s.cas.arming.find? (fun e => e.1 = gkey (vf - 1) g) = some a →
    ∃ t, exec (.casGrpArmResult vf g env) s = .next t ∧ t.cas.arming = s.cas.arming.erase a ∧
      (a.2 = true ∧ t.fld F.CAS_GRP_RESULT vf g = 0 ∧ t.fld F.CAS_GRP_STATE vf g = 1 ∧
          (∃ y, t.grp (vf - 1) g = some y ∧ y.own = [] ∧ y.rank = [] ∧ y.slots = [] ∧ y.out = []) ∨
        1 ≤ t.fld F.CAS_GRP_RESULT vf g ∧ t.fld F.CAS_GRP_RESULT vf g ≤ 7 ∧ t.fld F.CAS_E_ARM 0 0 = 1 ∧
          t.cas.groups = s.cas.groups ∧ (a.2 = true → t.fld F.CAS_GRP_STATE vf g = 0)) ∧
      (a.2 = false → 1 ≤ t.fld F.CAS_GRP_RESULT vf g ∧ t.fld F.CAS_GRP_RESULT vf g ≤ 3 ∧
        t.fld F.CAS_GRP_STATE vf g = s.fld F.CAS_GRP_STATE vf g) ∧
      s.changes [.emitted, .free, .regs, .mem, .prt, .memc, .que, .pmc, .clp, .cas, .sec] t) ∧
  (∀ (vf g value : Nat) (env : Env) (s s1 : State) (x : CasGroup) (d : List Byte), vf ≠ 0 → vf < 128 → g < 16 →
    s.fnOpen vf = true → s.armed (vf - 1) g = some x → bits value 15 8 ≠ x.hdr.self_ → bits value 15 8 < x.hdr.n →
    State.readVa (s.setFld F.CAS_GRP_RANK vf g (bits value 15 8)) env (casRq (vf - 1) 0)
      (s.fld F.CAS_GRP_VA vf g * 64 + 64 + 16 * bits value 15 8) 16 = (s1, .okay, d) →
    ∃ t y, exec (.casGrpRemap vf g value env) s = .next t ∧ t.grp (vf - 1) g = some y ∧
      y.hdr = { x.hdr with ranks := x.hdr.ranks.set (bits value 15 8) (rankOf d).1 } ∧
      (x.rank = [] → x.own = [] → y.out = x.out.filter fun w => (cmhOf w.bytes).dst ≠ bits value 15 8) ∧
      s.changes [.emitted, .free, .regs, .mem, .prt, .memc, .que, .pmc, .mac, .cas, .aqd, .sec] t) ∧
  (∀ (vf g value : Nat) (env : Env) (s : State) (x : CasGroup), vf ≠ 0 → vf < 128 → g < 16 → s.fnOpen vf = true →
    s.armed (vf - 1) g = some x → bits value 15 8 = x.hdr.self_ ∨ x.hdr.n ≤ bits value 15 8 →
    ∃ t, exec (.casGrpRemap vf g value env) s = .next t ∧ t.fld F.CAS_E_POST 0 0 = 1 ∧ t.cas = s.cas ∧
      s.changes [.regs] t) ∧
  (∀ (vf g : Nat) (env : Env) (s : State) (x : CasGroup), vf ≠ 0 → s.fnOpen vf = true → s.armed (vf - 1) g = some x →
    ((x.own.all fun e => e.2.st ≠ 4) = true → s.cas.waiting = [] →
      ∃ t, exec (.casGrpAbort vf g env) s = .next t ∧ t.grp (vf - 1) g = none ∧ t.fld F.CAS_GRP_STATE vf g = 0) ∧
    ((x.own.any fun e => e.2.st = 4) = true →
      ∃ t y, exec (.casGrpAbort vf g env) s = .next t ∧ t.grp (vf - 1) g = some y ∧ t.fld F.CAS_GRP_STATE vf g = 3 ∧
        y.rank = [] ∧ y.slots = [] ∧ y.out = [] ∧ ∀ e ∈ y.own, e.2.st = 4 ∧ e.2.debt = [] ∧ e.2.reqs = []))

/-- The oldest message of a type is one of group `g`, for bucket `m.tag` with descriptor `d`, and passes every check of
R214; `s1` is the state after the descriptor was read. -/
def Sys2Proof.Machine.State.hears (s : State) (env : Env) (type part g : Nat) (x : CasGroup) (d : Bd) (m : Cmh)
    (s1 : State) : Prop :=
  s.stopped = false ∧ ∃ ctx s0, s.takeMsg type = some (part, ctx, m, s0) ∧ s0.groupOfKey part m.key = some (g, x) ∧
    m.dst = x.hdr.self_ ∧ m.src < x.hdr.n ∧ (x.hdr.ranks.getD m.src ⟨0, 0, 0, 0⟩).flow ≤ ctx ∧
    ctx < (x.hdr.ranks.getD m.src ⟨0, 0, 0, 0⟩).flow + (x.hdr.ranks.getD m.src ⟨0, 0, 0, 0⟩).lanes ∧ m.rsvd = false ∧
    m.tag < x.hdr.nb ∧ s0.bd env part g x.hdr m.tag = (s1, some d) ∧ m.fragOk x.hdr d.count = true ∧
    (type = 1 ∨ type = 6 ∨ type = 7 ∨ type = 9 → d.owner = x.hdr.self_)

/-- A contribution at the bucket's owner: of an epoch already retired it is stale; of a new epoch without Cistern space it
waits, and its rank is deferred; rank 0's, whole in one fragment, starts the sum with its widened values; of a later epoch
its rank is deferred (R215, R216, R221). An epoch between the retired one and the one under way counts as stale by log entry
21. A message of a group that the partition has not armed is discarded, whatever its type, and sets CAS_E_MSG; no bucket
changes (R214). -/
def Obligations.CascadeContributions : Prop :=
  (∀ (env : Env) (s s1 : State) (part g : Nat) (x : CasGroup) (d : Bd) (m : Cmh), s.hears env 1 part g x d m s1 →
     ((x.ownOf m.tag).st = 0 → afterOpt m.epoch (x.ownOf m.tag).retired = false →
       ∃ t, exec (.contrib env) s = .next t ∧ t.fld F.CAS_E_STALE 0 0 = 1 ∧
         t.own part g m.tag = { x.ownOf m.tag with readyAt := none }) ∧
     ((x.ownOf m.tag).st = 0 → afterOpt m.epoch (x.ownOf m.tag).retired = true →
       s1.cisQuota part d.tier < s1.cisUsed part d.tier + cisUnits d.count →
       ∃ t, exec (.contrib env) s = .next t ∧ (t.own part g m.tag).st = 1 ∧ (t.own part g m.tag).epoch = m.epoch ∧
         (t.own part g m.tag).deferred = [m.src] ∧ (part, g, m.tag) ∈ t.cas.waiting) ∧
     ((x.ownOf m.tag).st = 0 → afterOpt m.epoch (x.ownOf m.tag).retired = true →
       s1.cisUsed part d.tier + cisUnits d.count ≤ s1.cisQuota part d.tier → m.src = 0 → m.zero = false →
       x.hdr.frags d.count = 1 → 2 ≤ x.hdr.n →
       ∃ t, exec (.contrib env) s = .next t ∧ (t.own part g m.tag).st = 2 ∧ (t.own part g m.tag).epoch = m.epoch ∧
         (t.own part g m.tag).folded = 1 ∧
         ∀ e, e < m.payload.length / 2 → sget 0 (t.own part g m.tag).sum e = widen 1 (leAt m.payload (2 * e) 2)) ∧
     ((x.ownOf m.tag).st ≠ 0 → m.epoch ≠ (x.ownOf m.tag).epoch → epochAfter m.epoch (x.ownOf m.tag).epoch = true →
       (m.src, m.epoch) ∉ (x.ownOf m.tag).later →
       ∃ t, exec (.contrib env) s = .next t ∧ (t.own part g m.tag).later = (x.ownOf m.tag).later ++ [(m.src, m.epoch)] ∧
         (t.own part g m.tag).st = (x.ownOf m.tag).st)) ∧
  (∀ (env : Env) (s s0 : State) (part ctx : Nat) (m : Cmh) (type : Nat) (c : Instr),
     type = 1 ∧ c = .contrib env ∨ type = 2 ∧ c = .defer env ∨ type = 3 ∧ c = .call env ∨ type = 4 ∧ c = .replay env ∨
     type = 5 ∧ c = .gather env ∨ type = 6 ∧ c = .gatherAck env ∨ type = 7 ∧ c = .regatherReq env ∨
     type = 8 ∧ c = .regatherData env ∨ type = 9 ∧ c = .regatherAck env →
     s.stopped = false → s.takeMsg type = some (part, ctx, m, s0) → s0.groupOfKey part m.key = none →
     ∃ t, exec c s = .next t ∧ t.fld F.CAS_E_MSG 0 0 = 1 ∧ t.cas = s.cas ∧ t.aqd = s0.aqd ∧ s.changes [.regs, .aqd] t)

/-- Where the adder makes no error, the fold adds a contribution to the running sum element by element, each addition rounded
once, and contribution 0 starts it; the elements outside stay as they are (R204, R216, R222). Gathers and re-gathers: a fragment is kept until the gather ends,
which completes the pending post; an acknowledgement counts its rank off, and the last one retires the epoch; a request that
finds the bucket UPDATING is held, and an acknowledgement of a re-gather repays one unit of its rank's debt (R219, R227). -/
def Obligations.FoldsGathersAndRegathers : Prop :=
  (∀ (env : Env) (r o : Nat) (sum : List (Nat × Nat)) (ws : List Nat), env.adder = [] →
     ∃ sum', foldElems env r sum o ws = .ok sum' ∧
       (∀ i, i < ws.length → sget 0 sum' (o + i)
         = if r = 0 then widen 1 (ws.getD i 0) else fadd (sget 0 sum (o + i)) (widen 1 (ws.getD i 0))) ∧
       (∀ e, e < o ∨ o + ws.length ≤ e → sget 0 sum' e = sget 0 sum e)) ∧
  ((∀ (env : Env) (s s1 s2 : State) (part g : Nat) (x : CasGroup) (d : Bd) (m : Cmh) (r : Option Recv) (e : RecvEnd),
     s.hears env 5 part g x d m s1 → s1.recvFrag env part g x.hdr d m 0 (x.rankOf m.tag).gath = (s2, r, e) →
     ∃ t y, exec (.gather env) s = .next t ∧ t.grp part g = some y ∧ (y.rankOf m.tag).gath = r ∧
       (y.rankOf m.tag).post = (if e.ended then none else (x.rankOf m.tag).post)) ∧
   (∀ (env : Env) (s s1 : State) (part g : Nat) (x : CasGroup) (d : Bd) (m : Cmh), s.hears env 6 part g x d m s1 →
     (x.ownOf m.tag).gEpoch = m.epoch → (x.ownOf m.tag).st = 5 →
     ((x.ownOf m.tag).awaiting.filter (fun r => r ≠ m.src) ≠ [] →
       ∃ t, exec (.gatherAck env) s = .next t ∧ (t.own part g m.tag).st = 5 ∧
         (t.own part g m.tag).awaiting = (x.ownOf m.tag).awaiting.filter (fun r => r ≠ m.src)) ∧
     ((x.ownOf m.tag).awaiting.filter (fun r => r ≠ m.src) = [] → (x.rankOf m.tag).post = none →
       ∃ t, exec (.gatherAck env) s = .next t ∧ (t.own part g m.tag).st = 0 ∧
         (t.own part g m.tag).retired = some (x.ownOf m.tag).epoch)) ∧
   (∀ (env : Env) (s s1 : State) (part g : Nat) (x : CasGroup) (d : Bd) (m : Cmh), s.hears env 7 part g x d m s1 →
     (x.ownOf m.tag).st = 4 →
     ∃ t, exec (.regatherReq env) s = .next t ∧ (t.own part g m.tag).st = 4 ∧
       (t.own part g m.tag).reqs = (x.ownOf m.tag).reqs ++ [m.src]) ∧
   (∀ (env : Env) (s s1 s2 : State) (part g : Nat) (x : CasGroup) (d : Bd) (m : Cmh) (r : Option Recv) (e : RecvEnd),
     s.hears env 8 part g x d m s1 →
     s1.recvFrag env part g x.hdr d m 1 ((x.rankOf m.tag).regather x.hdr m) = (s2, r, e) →
     ∃ t y, exec (.regatherData env) s = .next t ∧ t.grp part g = some y ∧
       (y.rankOf m.tag).rgath = regathers (x.rankOf m.tag).rgath ((x.rankOf m.tag).regather x.hdr m) r ∧
       (y.rankOf m.tag).rposts = (if e.ended then (x.rankOf m.tag).rposts.tail else (x.rankOf m.tag).rposts)) ∧
   (∀ (env : Env) (s s1 : State) (part g : Nat) (x : CasGroup) (d : Bd) (m : Cmh), s.hears env 9 part g x d m s1 →
     (m.src, m.epoch) ∈ (x.ownOf m.tag).debt →
     ∃ t, exec (.regatherAck env) s = .next t ∧
       (t.own part g m.tag).debt = (x.ownOf m.tag).debt.erase (m.src, m.epoch) ∧
       (t.own part g m.tag).st = (x.ownOf m.tag).st))

/-- The operation of a flow is a Cascade message of the contribution of `epoch` to bucket `tag` of the group with key `key`. -/
def Sys2Proof.Machine.opContrib (key tag epoch : Nat) (o : AqdOp) : Bool :=
  decide (o.src = .cascade) && decide ((cmhOf o.data).key = key) && isContribOf tag epoch (cmhOf o.data)

/-- The owner's own ZERO contribution is folded in its turn, unless a re-gather holds it, and the next rank is in turn or the sum
waits for the update; DEFER drops the fragments that wait to be sent, in the group and in its flows; CALL and REPLAY have
a ZERO contribution sent again as one message, which waits while no flow is open, and a contribution that a re-gather holds
waits for that to end (R216, R217, R223, R228). The time limit of a collecting bucket raises LATE_RANK once; a slot that opens
moves its entry one slot on (R225, R229, R296). -/
def Obligations.CascadeTurnsAndTimeLimits : Prop :=
  ((∀ (part g tag : Nat) (env : Env) (s : State) (x : CasGroup) (p : CasPost), s.stopped = false → env.adder = [] →
     s.armed part g = some x → (x.rankOf tag).holds = false → (x.ownOf tag).st = 2 → (x.ownOf tag).folded = x.hdr.self_ →
     (x.rankOf tag).post = some p → p.epoch = (x.ownOf tag).epoch → p.waits = false → p.zero = true →
     ∃ t, exec (.holdSlotFold part g tag env) s = .next t ∧ (t.own part g tag).folded = x.hdr.self_ + 1 ∧
       (t.own part g tag).st = (if x.hdr.n ≤ x.hdr.self_ + 1 then 3 else 2) ∧
       s.changes [.emitted, .free, .regs, .mem, .prt, .memc, .que, .pmc, .mac, .cas, .aqd, .sec] t) ∧
   (∀ (env : Env) (s s1 : State) (part g : Nat) (x : CasGroup) (d : Bd) (m : Cmh), s.hears env 2 part g x d m s1 →
     ∃ t y, exec (.defer env) s = .next t ∧ t.grp part g = some y ∧ y.hdr = x.hdr ∧ y.rank = x.rank ∧ y.slots = x.slots ∧
       y.out = x.out.filter (fun w => !isContribOf m.tag m.epoch (cmhOf w.bytes)) ∧
       (srising s.aqd.ctxs = true → ∀ i, (s.ctx i).part = part →
         (t.ctx i).ops = (s.ctx i).ops.filter fun o => !opContrib x.hdr.key m.tag m.epoch o) ∧
       s.changes [.emitted, .free, .regs, .mem, .prt, .memc, .que, .pmc, .cas, .aqd, .sec] t) ∧
   (∀ (env : Env) (s s1 s2 : State) (part g type : Nat) (c : Instr) (x : CasGroup) (d d2 : Bd) (m : Cmh) (p : CasPost),
     type = 3 ∧ c = .call env ∨ type = 4 ∧ c = .replay env → s.hears env type part g x d m s1 →
     (x.rankOf m.tag).post = some p → p.epoch = m.epoch → (x.rankOf m.tag).holds = false → p.zero = true →
     (∀ i, (s.ctx i).state ≠ 2) → s.aqd.notes = [] →
     (s1.casDrop part g (isContribOf m.tag p.epoch)).bd env part g x.hdr m.tag = (s2, some d2) →
     ∃ t y, exec c s = .next t ∧ t.grp part g = some y ∧ y.rank = x.rank ∧
       y.out = x.out.filter (fun w => !isContribOf m.tag p.epoch (cmhOf w.bytes))
         ++ [⟨d2.owner, 0, Cmh.bytes { x.hdr.msg 1 m.tag p.epoch d2.owner with zero := true, count := d2.count }, false⟩]) ∧
   (∀ (env : Env) (s s1 : State) (part g type : Nat) (c : Instr) (x : CasGroup) (d : Bd) (m : Cmh) (p : CasPost),
     type = 3 ∧ c = .call env ∨ type = 4 ∧ c = .replay env → s.hears env type part g x d m s1 →
     (x.rankOf m.tag).post = some p → p.epoch = m.epoch → (x.rankOf m.tag).holds = true →
     ∃ t y, exec c s = .next t ∧ t.grp part g = some y ∧ (y.rankOf m.tag).post = some { p with waits := true } ∧
       y.out = x.out.filter (fun w => !isContribOf m.tag p.epoch (cmhOf w.bytes)))) ∧
  ((∀ (part g tag t0 : Nat) (s : State) (x : CasGroup), part < 64 → s.stopped = false → s.armed part g = some x →
     (x.ownOf tag).since = some t0 → (x.ownOf tag).st = 2 → x.hdr.lateUs ≠ 0 → (x.ownOf tag).late = false →
     t0 + 1000 * x.hdr.lateUs < s.ns → (x.ownOf tag).folded < x.hdr.n →
     ∃ t, exec (.lateRankTimeout part g tag) s = .next t ∧ (t.own part g tag).late = true ∧ t.fld F.CAS_E_LATE 0 0 = 1 ∧
       s.changes [.emitted, .free, .regs, .prt, .que, .pmc, .cas] t) ∧
   (∀ (part g tag : Nat) (s : State) (x : CasGroup), s.armed part g = some x → (x.ownOf tag).late = true →
     exec (.lateRankTimeout part g tag) s = .next s) ∧
   (∀ (i : Nat) (env : Env) (s : State) (x : CasGroup), (sget {} s.clp.sev i).kind = 4 → s.sevDue i = true →
     s.grp (sget {} s.clp.sev i).owner (sget {} s.clp.sev i).ref = some x →
     ∃ t, exec (.cascadeSlotOpen i env) s = .next t ∧
       sget {} t.clp.sev i = { sget {} s.clp.sev i with
         time := (sget {} s.clp.sev i).time + x.hdr.slotLen, aux := ((sget {} s.clp.sev i).aux + 1) % 2 ^ 32 } ∧
       (∀ j, j ≠ i → sget {} t.clp.sev j = sget {} s.clp.sev j) ∧
       s.changes [.emitted, .free, .regs, .mem, .prt, .memc, .que, .pmc, .clp, .mac, .cas, .aqd, .sec] t))

/-! ### Aqueduct -/

/-- `t` is the state after an entry of the region table was stored in slot `k`, in Aqueduct and in the table's place in device
memory (R247); `s1` is the state before the store to memory. -/
def Sys2Proof.Machine.State.entryPut (s t : State) (k : Nat) (l : List (Reg × Nat × Nat)) : Prop :=
  (∀ j, j ≠ k → t.rge j = s.rge j) ∧
  ∃ s1, s.changes [.regs, .aqd] s1 ∧ s.changesRegs l s1 ∧ t.mem = (s1.putRge k (t.rge k)).mem

/-- The flow commands of an open function that is not busy: ALLOC takes the lowest aligned run of FREE contexts, or is
refused and takes none; CONNECT opens an allocated context of the partition with what the set-up record says; QUERY writes
the context's 256 bytes; CLOSE frees a context with nothing left to answer, and leaves one that has closing (R238 to R241).
The region commands: REGISTER fills the slot at the head of the free list and answers its key; REVOKE starts a revocation,
and the era moves on; a query answers the state; with nothing in flight the slot is quarantined and REVOKE completes; with no
older tracker entry left it is freed under the next generation at the tail of the free list; enabling the table empties it, and
its initialisation writes every entry to device memory (R247 to R249, R263). Each change of an entry is written to its slot of
the table in device memory (R247). -/
def Obligations.FlowAndRegionCommands : Prop :=
  ((∀ (vf run : Nat) (s : State), vf < 128 → s.flowReady vf = true → s.flag F.AQD_FLOW_BUSY vf 0 = false →
     ∀ own, own = min (2 ^ (run % 4)) ((s.partRec (vf - 1)).aqd
         - (s.aqd.ctxs.filter fun e => e.2.state ≠ 0 && e.2.part = vf - 1 && !e.2.common).length) →
     (∀ i, 2 ^ (run % 4) - own ≤ s.commonFree → s.freeRun (2 ^ (run % 4)) 0 (40960 / 2 ^ (run % 4)) = some i →
       ∃ t, exec (.alloc vf run) s = .next t ∧ t.fld F.AQD_FLOW_CTX vf 0 = i % 2 ^ 16 ∧ t.fld F.AQD_FLOW_STATUS vf 0 = 0 ∧
         i % 2 ^ (run % 4) = 0 ∧
         (∀ k, k < 2 ^ (run % 4) → (s.ctx (i + k)).state = 0 ∧
           t.ctx (i + k) = { state := 1, part := vf - 1, common := decide (own ≤ k) }) ∧
         (∀ j, j < i ∨ i + 2 ^ (run % 4) ≤ j → t.ctx j = s.ctx j) ∧
         s.changesRegs [(.aqdFlowCmd, vf, 0), (.aqdFlowCtx, vf, 0)] t ∧ s.changes [.regs, .aqd] t) ∧
     (s.commonFree < 2 ^ (run % 4) - own ∨ s.freeRun (2 ^ (run % 4)) 0 (40960 / 2 ^ (run % 4)) = none →
       ∃ t, exec (.alloc vf run) s = .next t ∧ t.fld F.AQD_FLOW_STATUS vf 0 = 1 ∧ t.aqd = s.aqd)) ∧
   (∀ (vf : Nat) (env : Env) (s s1 : State) (r : List Byte), vf < 128 → s.flowReady vf = true →
     s.flag F.AQD_FLOW_BUSY vf 0 = false → (s.ctx (s.fld F.AQD_FLOW_CTX vf 0)).state = 1 →
     (s.ctx (s.fld F.AQD_FLOW_CTX vf 0)).part = vf - 1 →
     s.readVa env (aqdRq (vf - 1)) (s.fld F.AQD_FLOW_VA vf 0 * 64) 64 = (s1, .okay, r) →
     s1.setupOk r = true → s1.netShut (vf - 1) = false →
     ∃ t, exec (.connect vf env) s = .next t ∧ t.fld F.AQD_FLOW_STATUS vf 0 = 0 ∧
       (t.ctx (s.fld F.AQD_FLOW_CTX vf 0)).state = 2 ∧ (t.ctx (s.fld F.AQD_FLOW_CTX vf 0)).setup = r ∧
       (t.ctx (s.fld F.AQD_FLOW_CTX vf 0)).sndNxt = leAt r 54 4 ∧ (t.ctx (s.fld F.AQD_FLOW_CTX vf 0)).sndUna = leAt r 54 4 ∧
       (t.ctx (s.fld F.AQD_FLOW_CTX vf 0)).rcvNxt = leAt r 58 4 ∧
       (∀ j, j ≠ s.fld F.AQD_FLOW_CTX vf 0 → t.ctx j = s.ctx j) ∧ t.mem = s1.mem ∧
       s.changes [.emitted, .free, .regs, .mem, .prt, .memc, .que, .pmc, .aqd, .sec] t) ∧
   (∀ (vf : Nat) (env : Env) (s s1 : State) (r : Resp), vf < 128 → s.flowReady vf = true →
     s.flag F.AQD_FLOW_BUSY vf 0 = false → (s.ctx (s.fld F.AQD_FLOW_CTX vf 0)).part = vf - 1 →
     (s.ctx (s.fld F.AQD_FLOW_CTX vf 0)).state ≠ 0 →
     s.writeVa env (aqdRq (vf - 1)) (s.fld F.AQD_FLOW_VA vf 0 * 64) (ctxBytes (s.ctx (s.fld F.AQD_FLOW_CTX vf 0))) = (s1, r) →
     ∃ t, exec (.query vf env) s = .next t ∧ t.fld F.AQD_FLOW_STATUS vf 0 = (if r = .okay then 0 else 5) ∧ t.mem = s1.mem ∧
       t.aqd = s.aqd ∧ (ctxBytes (s.ctx (s.fld F.AQD_FLOW_CTX vf 0))).length = 256) ∧
   (∀ (vf : Nat) (env : Env) (s : State), s.flowReady vf = true → s.flag F.AQD_FLOW_BUSY vf 0 = false →
     (s.ctx (s.fld F.AQD_FLOW_CTX vf 0)).part = vf - 1 →
     (s.ctx (s.fld F.AQD_FLOW_CTX vf 0)).state = 1 ∨ (s.ctx (s.fld F.AQD_FLOW_CTX vf 0)).state = 2
       ∨ (s.ctx (s.fld F.AQD_FLOW_CTX vf 0)).state = 3 →
     ∃ t, exec (.close vf env) s = .next t ∧
       (t.ctx (s.fld F.AQD_FLOW_CTX vf 0)).state
         = (if (s.ctx (s.fld F.AQD_FLOW_CTX vf 0)).rx.filter (fun e => e.placed) = [] then 0 else 4) ∧
       (t.ctx (s.fld F.AQD_FLOW_CTX vf 0)).out = [] ∧ (t.ctx (s.fld F.AQD_FLOW_CTX vf 0)).jobs = [] ∧
       s.changes [.emitted, .free, .regs, .mem, .prt, .memc, .que, .pmc, .mac, .cas, .aqd, .sec] t)) ∧
  ((∀ (vf perm k : Nat) (s : State), vf < 128 → s.flowReady vf = true → s.flag F.AQD_RGN_BUSY vf 0 = false →
     1 ≤ s.fld F.AQD_RGN_LEN vf 0 → s.fld F.AQD_RGN_VA vf 0 * 4096 + s.fld F.AQD_RGN_LEN vf 0 * 4096 ≤ 2 ^ 48 →
     s.netShut (vf - 1) = false → s.rgnOn = true → s.rgnHead = some k →
     ∃ t, exec (.register vf perm) s = .next t ∧ t.fld F.AQD_RGN_STATUS vf 0 = 0 ∧
       t.fld F.AQD_RGN_KEY vf 0 = (k * 256 + (s.rge k).gen) % 2 ^ 32 ∧
       t.rge k = { s.rge k with
         state := 1, part := vf - 1, perm := perm % 4, va := s.fld F.AQD_RGN_VA vf 0 * 4096,
         len := s.fld F.AQD_RGN_LEN vf 0 * 4096, inflight := 0 } ∧
       s.entryPut t k [(.aqdRgnCmd, vf, 0)] ∧ s.changes [.emitted, .free, .regs, .mem, .prt, .memc, .que, .pmc, .aqd, .sec] t) ∧
   (∀ (vf k : Nat) (s : State), vf < 128 → s.flowReady vf = true → s.flag F.AQD_RGN_BUSY vf 0 = false →
     s.keySlot (vf - 1) (s.fld F.AQD_RGN_KEY vf 0) = some k → (s.rge k).state = 1 →
     ∃ t, exec (.revoke vf) s = .next t ∧ t.rge k = { s.rge k with state := 2, era := s.aqd.era } ∧
       t.aqd.era = (s.aqd.era + 1) % 2 ^ 32 ∧ t.fld F.AQD_RGN_BUSY vf 0 = 1 ∧ s.entryPut t k [] ∧
       s.changes [.emitted, .free, .regs, .mem, .prt, .memc, .que, .pmc, .aqd, .sec] t) ∧
   (∀ (vf k : Nat) (s : State), vf < 128 → s.flowReady vf = true → s.flag F.AQD_RGN_BUSY vf 0 = false →
     s.keySlot (vf - 1) (s.fld F.AQD_RGN_KEY vf 0) = some k →
     ∃ t, exec (.regionQuery vf) s = .next t ∧ t.fld F.AQD_RGN_STATE vf 0 = (s.rge k).state % 4 ∧
       t.fld F.AQD_RGN_STATUS vf 0 = 0 ∧ s.changesRegs [(.aqdRgnCmd, vf, 0)] t ∧ s.changes [.regs] t) ∧
   (∀ (slot : Nat) (s : State), (s.rge slot).state = 2 → (s.rge slot).inflight = 0 →
     ∃ t, exec (.regionQuarantine slot) s = .next t ∧ t.rge slot = { s.rge slot with state := 3 } ∧
       t.fld F.AQD_RGN_BUSY ((s.rge slot).part + 1) 0 = 0 ∧ t.fld F.AQD_RGN_STATUS ((s.rge slot).part + 1) 0 = 0 ∧
       s.entryPut t slot [] ∧ s.changes [.emitted, .free, .regs, .mem, .prt, .memc, .que, .pmc, .aqd, .sec] t) ∧
   (∀ (slot : Nat) (s : State), (s.rge slot).state = 3 → s.eraLive (s.rge slot).era = false →
     ∃ t s1, exec (.regionFree slot) s = .next t ∧ t.rge slot = { s.rge slot with state := 0, gen := ((s.rge slot).gen + 1) % 256 } ∧
       t.aqd.freed = s.aqd.freed ++ [slot] ∧
       (∀ j, j ≠ slot → t.rge j = if s.rgnTail = some j then { s.rge j with next := some slot } else s.rge j) ∧
       (∀ j, s.rgnTail = some j → s.entryPut s1 j []) ∧ (s.rgnTail = none → s1 = s) ∧ s1.entryPut t slot [] ∧
       s.changes [.emitted, .free, .regs, .mem, .prt, .memc, .que, .pmc, .aqd, .sec] t) ∧
   (∀ (value : Nat) (s : State), bit value 0 = true → s.flag F.AQD_RGN_EN 0 0 = false →
     ∃ t, exec (.aqdRgnEn value) s = .next t ∧ t.fld F.AQD_RGN_EN 0 0 = 1 ∧ t.fld F.AQD_RGN_INIT_BUSY 0 0 = 1 ∧
       t.fld F.AQD_RGN_DPA 0 0 = bits value 41 12 ∧ t.aqd = { s.aqd with regions := [], fresh := 0, freed := [] } ∧
       s.changesRegs [(.aqdRgnBase, 0, 0)] t ∧ s.changes [.regs, .aqd] t) ∧
   (∀ (value : Nat) (s : State), bit value 0 = false ∨ s.flag F.AQD_RGN_EN 0 0 = true →
     ∃ t, exec (.aqdRgnEn value) s = .next t ∧ t.fld F.AQD_RGN_EN 0 0 = bits value 0 0 ∧
       t.fld F.AQD_RGN_DPA 0 0 = bits value 41 12 ∧ s.changesRegs [(.aqdRgnBase, 0, 0)] t ∧ s.changes [.regs] t) ∧
   (∀ (s : State), s.flag F.AQD_RGN_INIT_BUSY 0 0 = true →
     ∃ t, exec .regionTableInitDone s = .next t ∧ t.fld F.AQD_RGN_INIT_BUSY 0 0 = 0 ∧
       t.mem = ((upFrom 0 s.rgnSlots).foldl (fun s k => s.putRge k {}) s).mem ∧
       s.changes [.emitted, .free, .regs, .mem, .prt, .memc, .que, .pmc, .sec] t))

/-- The oldest received packet of operation code `op` is `p` in item `x`, and it passes step 1 of R250; `s1` is the state
after it was taken and its ingress slot freed. -/
def Sys2Proof.Machine.State.gets (s : State) (op : Nat) (x : RxItem) (p : Pkt) (s1 : State) : Prop :=
  s.stopped = false ∧ ∃ s0, s.takeRx (fun x => match x.frame.body with | .aqd p => p.op = op | _ => false) = some (x, s0) ∧
    x.frame.body = .aqd p ∧ s1 = s0.freeIngress x.lp x.slot ∧ s1.fromPeer p = true

/-- The packet's PSN is new to its context and within the window, and the tracker has an entry for it (R250, R258). -/
def Sys2Proof.Machine.State.isNew (s : State) (p : Pkt) : Prop :=
  0 ≤ psnDiff p.psn (s.ctx p.dstCtx).rcvNxt ∧ psnDiff p.psn (s.ctx p.dstCtx).rcvNxt < 256 ∧
  bit (s.ctx p.dstCtx).rcvMap (psnDiff p.psn (s.ctx p.dstCtx).rcvNxt).toNat = false ∧ 1 ≤ s.trackerFree

/-- A packet that fails step 1 sets AQD_E_RX and touches no context; a sequenced packet that has been settled before is
counted a duplicate and acknowledged at once (R250, R253). -/
def Obligations.PacketsOfNoFlowAndDuplicates : Prop :=
  (∀ (op : Nat) (c : Instr) (env : Env) (s s0 : State) (x : RxItem) (p : Pkt),
    op = 1 ∧ c = .writePacket env ∨ op = 2 ∧ c = .readReq env ∨ op = 3 ∧ c = .readResp env ∨ op = 4 ∧ c = .ack env ∨
    op = 5 ∧ c = .nak env ∨ op = 6 ∧ c = .cascadePacket env ∨ op = 7 ∧ c = .probe ∨ op = 8 ∧ c = .probeReply ∨
    op = 9 ∧ c = .nop env →
    s.stopped = false → s.aqd.notes = [] →
    s.takeRx (fun x => match x.frame.body with | .aqd p => p.op = op | _ => false) = some (x, s0) →
    x.frame.body = .aqd p → (s0.freeIngress x.lp x.slot).fromPeer p = false →
    ∃ t, exec c s = .next t ∧ t.fld F.AQD_E_RX 0 0 = 1 ∧ t.aqd = s.aqd ∧ s.changes [.regs, .mac] t) ∧
  (∀ (op : Nat) (c : Instr) (env : Env) (s s1 : State) (x : RxItem) (p : Pkt),
    op = 1 ∧ c = .writePacket env ∨ op = 2 ∧ c = .readReq env ∨ op = 3 ∧ c = .readResp env ∨
    op = 6 ∧ c = .cascadePacket env ∨ op = 9 ∧ c = .nop env →
    s.gets op x p s1 → s.aqd.notes = [] → (s.ctx p.dstCtx).settled p.psn = true →
    ∃ t y, exec c s = .next t ∧ (t.ctx p.dstCtx).dup = ((s.ctx p.dstCtx).dup + 1) % 2 ^ 32 ∧
      (t.ctx p.dstCtx).unacked = 0 ∧ (t.ctx p.dstCtx).rx = (s.ctx p.dstCtx).rx ∧
      (t.ctx p.dstCtx).rcvNxt = (s.ctx p.dstCtx).rcvNxt ∧
      (t.lp (s.ctx p.dstCtx).lp).txq = (s1.lp (s.ctx p.dstCtx).lp).txq ++ [y] ∧ s.changes [.mac, .aqd] t)

/-- `t` has a NAK of `p` with status `st` at the end of the port's queue, counted, and AQD_E_REFUSED set
(R256, R262). -/
def Sys2Proof.Machine.State.refuses (s t : State) (p : Pkt) (psn ts st : Nat) : Prop :=
  (t.ctx p.dstCtx).nakTx = ((s.ctx p.dstCtx).nakTx + 1) % 2 ^ 32 ∧ t.fld F.AQD_E_REFUSED 0 0 = 1 ∧
  (∃ y f q, (t.lp (s.ctx p.dstCtx).lp).txq.getLast? = some y ∧ y.what = .whole f ∧ f.body = .aqd q ∧ q.op = 5 ∧
    q.psn = psn ∧ q.aux = st ∧ q.ts = ts)

/-- A new write packet: without a key that allows it, it is refused with a NAK and places nothing; unflagged, or with every
earlier packet settled, it is placed at once under one access more of its region; flagged and behind unsettled packets, it waits
(R246, R250, R256). Settlement: a NOP or a Cascade message in PSN order moves FC_RCV_NXT on; a Cascade message of a sound header
waits for the partition's Cascade; an accepted read is settled and leaves a job under one access more of its region, and a refused
one is answered with a NAK; a placed write whose memory responses have returned is settled under one access less of its region,
or refused with the status of a response that is not OKAY (R237, R246, R249, R250, R253, R256). -/
def Obligations.WritesSettle : Prop :=
  (∀ (env : Env) (s s1 : State) (x : RxItem) (p : Pkt), s.gets 1 x p s1 → s1.isNew p →
     (∀ st, s1.keyCheck p p.len 0 = .error st →
       ∃ t, exec (.writePacket env) s = .next t ∧ s.refuses t p p.psn p.ts st ∧
         (t.ctx p.dstCtx).rx = (s.ctx p.dstCtx).rx ∧ s.changes [.regs, .mac, .aqd] t) ∧
     (∀ k, s1.keyCheck p p.len 0 = .ok k → bit p.flags 0 = false ∨ (s1.ctx p.dstCtx).earlierSettled p.psn = true →
       ∃ t e s2, exec (.writePacket env) s = .next t ∧ e ∈ (t.ctx p.dstCtx).rx ∧ e.psn = p.psn ∧ e.placed = true ∧
         e.slot = some k ∧ (t.rge k).inflight = (s.rge k).inflight + 1 ∧ (s1.rgeUp k).changes [.aqd] s2 ∧
         t.mem = (s2.writeVa env (aqdRq (s.ctx p.dstCtx).part) p.va p.payload).1.mem) ∧
     (∀ k, s1.keyCheck p p.len 0 = .ok k → bit p.flags 0 = true →
       (s1.ctx p.dstCtx).earlierSettled p.psn = false →
       ∃ t e, exec (.writePacket env) s = .next t ∧ (t.ctx p.dstCtx).rx = (s.ctx p.dstCtx).rx ++ [e] ∧ e.psn = p.psn ∧ e.placed = false ∧
         e.slot = some k ∧ (t.rge k).inflight = (s.rge k).inflight + 1 ∧ (s1.rgeUp k).changes [.aqd] t)) ∧
  ((∀ (op : Nat) (c : Instr) (env : Env) (s s1 : State) (x : RxItem) (p : Pkt),
     op = 9 ∧ c = .nop env ∨ op = 6 ∧ c = .cascadePacket env → s.gets op x p s1 → s1.isNew p →
     psnDiff p.psn (s1.ctx p.dstCtx).rcvNxt = 0 → (s1.ctx p.dstCtx).rcvMap = 0 →
     ∃ t, exec c s = .next t ∧ (t.ctx p.dstCtx).rcvNxt = ((s.ctx p.dstCtx).rcvNxt + 1) % 2 ^ 32 ∧
       (t.ctx p.dstCtx).rcvMap = 0 ∧ (t.ctx p.dstCtx).rxPkts = ((s.ctx p.dstCtx).rxPkts + 1) % 2 ^ 64 ∧
       (op = 6 → cmhSound p.payload = true → t.aqd.toCascade = s.aqd.toCascade ++ [(p.part, p.dstCtx, p.payload)]) ∧
       s.changes [.emitted, .free, .regs, .mem, .prt, .memc, .que, .pmc, .mac, .aqd, .sec] t) ∧
   (∀ (env : Env) (s s1 : State) (x : RxItem) (p : Pkt), s.gets 2 x p s1 → s1.isNew p →
     (∀ st, s1.keyCheck p p.aux 1 = .error st →
       ∃ t, exec (.readReq env) s = .next t ∧ s.refuses t p p.psn p.ts st ∧
         (t.ctx p.dstCtx).jobs = (s.ctx p.dstCtx).jobs ∧ s.changes [.regs, .mac, .aqd] t) ∧
     (∀ k, s1.keyCheck p p.aux 1 = .ok k →
       ∃ t j, exec (.readReq env) s = .next t ∧ (t.ctx p.dstCtx).jobs = (s.ctx p.dstCtx).jobs ++ [j] ∧
         j.reqid = p.reqid ∧ j.va = p.va ∧ j.len = p.aux ∧ j.slot = k ∧ j.off = 0 ∧
         (t.rge k).inflight = (s.rge k).inflight + 1 ∧
         (psnDiff p.psn (s.ctx p.dstCtx).rcvNxt = 0 → (s.ctx p.dstCtx).rcvMap = 0 →
           (t.ctx p.dstCtx).rcvNxt = ((s.ctx p.dstCtx).rcvNxt + 1) % 2 ^ 32))) ∧
   (∀ (ctx : Nat) (env : Env) (s : State) (e : RxEnt), s.stopped = false →
     (s.ctx ctx).rx.find? (fun y => y.psn = e.psn && y.placed) = some e → (s.ctx ctx).state = 2 → e.code = 1 →
     (e.resp ≠ 0 → ∃ t, exec (.packetSettled ctx e.psn env) s = .next t ∧
       (∀ p, p.dstCtx = ctx → s.refuses t p e.psn e.ts e.resp) ∧ (t.ctx ctx).rx = (s.ctx ctx).rx.erase e ∧
       (∀ k, e.slot = some k → (t.rge k).inflight = (s.rge k).inflight - 1)) ∧
     (e.resp = 0 → psnDiff e.psn (s.ctx ctx).rcvNxt = 0 → (s.ctx ctx).rcvMap = 0 →
       ∃ t, exec (.packetSettled ctx e.psn env) s = .next t ∧
         (t.ctx ctx).rcvNxt = ((s.ctx ctx).rcvNxt + 1) % 2 ^ 32 ∧
         (∀ k, e.slot = some k → (t.rge k).inflight = (s.rge k).inflight - 1))))

/-- A response to no read of this requester is settled and dropped; one within its read is placed at the local address, and one
with ERR ends the read. A responder's next piece takes the next PSN, with the bytes or the status of the read (R243, R251, R256).
An ACK drops every outstanding packet that it acknowledges and moves FC_SND_UNA to the first one left; a NAK with an outstanding
packet's PSN and last transmission time turns that operation's outstanding packets into NOPs, whatever they carry, and any other is
stale (R253 to R256). -/
def Obligations.ReadsAcksAndRefusals : Prop :=
  ((∀ (env : Env) (s s1 : State) (x : RxItem) (p : Pkt), s.gets 3 x p s1 → s1.isNew p → s.aqd.notes = [] →
     ((s.ctx p.dstCtx).ops.find? (fun o => o.id = p.reqid && o.kind = 1 && !o.ended) = none →
       psnDiff p.psn (s1.ctx p.dstCtx).rcvNxt = 0 → (s1.ctx p.dstCtx).rcvMap = 0 →
       ∃ t, exec (.readResp env) s = .next t ∧ (t.ctx p.dstCtx).rcvNxt = ((s.ctx p.dstCtx).rcvNxt + 1) % 2 ^ 32) ∧
     (∀ o, (s.ctx p.dstCtx).ops.find? (fun o => o.id = p.reqid && o.kind = 1 && !o.ended) = some o → bit p.flags 3 = false →
       p.aux + p.len ≤ o.len →
       ∃ t e, exec (.readResp env) s = .next t ∧ e ∈ (t.ctx p.dstCtx).rx ∧ e.psn = p.psn ∧ e.placed = true ∧ e.ref = o.id ∧
         e.va = o.lva + p.aux ∧ e.data = p.payload) ∧
     (∀ o k, (s.ctx p.dstCtx).ops.find? (fun o => o.id = p.reqid && o.kind = 1 && !o.ended) = some o → bit p.flags 3 = true →
       o.src = .ring k →
       ∃ t, exec (.readResp env) s = .next t ∧
         (t.ctx p.dstCtx).ops = (s.ctx p.dstCtx).ops.filter (fun x => x.id ≠ o.id))) ∧
   (∀ (ctx : Nat) (env : Env) (s s1 : State) (j : ReadJob) (r : Resp) (d : List Byte), s.stopped = false →
     (s.ctx ctx).state = 2 → psnDiff (s.ctx ctx).sndNxt (s.ctx ctx).sndUna < 256 →
     (s.ctx ctx).jobs.find? (fun j => !j.stopped && (decide (j.off < j.len) || j.len = 0)) = some j →
     s.readVa env (aqdRq (s.ctx ctx).part) (j.va + j.off) (min (s.ctx ctx).mss (j.len - j.off)) = (s1, r, d) →
     ∃ t e, exec (.responderReadData ctx env) s = .next t ∧ (t.ctx ctx).out = (s.ctx ctx).out ++ [e] ∧
       (t.ctx ctx).sndNxt = ((s.ctx ctx).sndNxt + 1) % 2 ^ 32 ∧ e.psn = (s.ctx ctx).sndNxt ∧ e.code = 3 ∧ e.off = j.off ∧
       (r = .okay → e.err = none ∧ e.data = d) ∧ (r ≠ .okay → e.err = some (respStatus r) ∧ e.data = []) ∧ t.mem = s1.mem)) ∧
  ((∀ (env : Env) (s s1 : State) (x : RxItem) (p : Pkt), s.gets 4 x p s1 → -1 ≤ psnDiff p.aux (s.ctx p.dstCtx).sndUna →
     ∃ t more, exec (.ack env) s = .next t ∧
       (t.ctx p.dstCtx).out.map (·.psn)
         = ((s.ctx p.dstCtx).out.filter fun e => !ackedBy p.aux (beAt p.payload 0 8) e.psn).map (·.psn) ++ more ∧
       (t.ctx p.dstCtx).sndUna
         = ((((s.ctx p.dstCtx).out.filter fun e => !ackedBy p.aux (beAt p.payload 0 8) e.psn).head?.map (·.psn)).getD
             (s.ctx p.dstCtx).sndNxt) ∧
       ((t.ctx p.dstCtx).sndUna ≠ (s.ctx p.dstCtx).sndUna → (t.ctx p.dstCtx).retries = 0) ∧
       s.changes [.emitted, .free, .regs, .mem, .prt, .memc, .que, .pmc, .mac, .cas, .aqd, .sec] t) ∧
   (∀ (env : Env) (s s1 : State) (x : RxItem) (p : Pkt) (e : TxEnt), s.gets 5 x p s1 →
     (s.ctx p.dstCtx).entOf p.psn = some e → e.ts = some p.ts →
     ∃ t more, exec (.nak env) s = .next t ∧ (t.ctx p.dstCtx).nakRx = ((s.ctx p.dstCtx).nakRx + 1) % 2 ^ 32 ∧
       (t.ctx p.dstCtx).out = (s.ctx p.dstCtx).out.map (fun (x : TxEnt) =>
         if x.ref = e.ref then { x with code := 9, final := false, last := false } else x) ++ more ∧
       (t.ctx p.dstCtx).jobs = (s.ctx p.dstCtx).jobs.map (fun (j : ReadJob) => if j.id = e.ref then { j with stopped := true } else j)) ∧
   (∀ (env : Env) (s s1 : State) (x : RxItem) (p : Pkt), s.gets 5 x p s1 → s.aqd.notes = [] →
     (∀ e, (s.ctx p.dstCtx).entOf p.psn = some e → e.ts ≠ some p.ts) →
     ∃ t, exec (.nak env) s = .next t ∧ t.fld F.AQD_E_STALE_NAK 0 0 = 1 ∧ (t.ctx p.dstCtx).out = (s.ctx p.dstCtx).out ∧
       (t.ctx p.dstCtx).ops = (s.ctx p.dstCtx).ops))

/-- A flow's timers: settlements are acknowledged; unacknowledged packets are sent again with the timeout doubled up to its
limit and the rate halved down to its own, or the flow fails at the retry limit; a probe is queued (R253, R255, R257, R259,
R260). A probe is counted and answered; a reply with all four times is one delay sample, which raises the rate by the step while
the delay is within the target, and one without its own capture counts as untimed unless its probe left untimed and was counted
then (R259, R260, R280). -/
def Obligations.FlowTimersAndProbes : Prop :=
  ((∀ (ctx : Nat) (s : State), s.stopped = false → (s.ctx ctx).state = 2 → (s.ctx ctx).unacked ≠ 0 →
     ∃ t y, exec (.ackTimer ctx) s = .next t ∧ (t.ctx ctx).unacked = 0 ∧
       (t.ctx ctx).rcvAcked = ((s.ctx ctx).rcvNxt + 2 ^ 32 - 1) % 2 ^ 32 ∧
       (t.lp (s.ctx ctx).lp).txq = (s.lp (s.ctx ctx).lp).txq ++ [y] ∧ (∀ j, j ≠ ctx → t.ctx j = s.ctx j) ∧
       s.changes [.mac, .aqd] t) ∧
   (∀ (ctx : Nat) (env : Env) (s : State), s.stopped = false → (s.ctx ctx).state = 2 →
     (s.ctx ctx).sent ≠ [] →
     max 1 (s.fld F.AQD_RETRY_LIMIT (s.drive (s.ctx ctx).part) 0) ≤ (s.ctx ctx).retries + 1 →
     ∃ t, exec (.retxTimeout ctx env) s = .next t ∧ (t.ctx ctx).state = 3 ∧ (t.ctx ctx).failCause = 0 ∧
       (t.ctx ctx).out = [] ∧ (t.ctx ctx).jobs = []) ∧
   (∀ (ctx : Nat) (env : Env) (s : State), s.stopped = false → (s.ctx ctx).state = 2 →
     (s.ctx ctx).sent ≠ [] →
     (s.ctx ctx).retries + 1 < max 1 (s.fld F.AQD_RETRY_LIMIT (s.drive (s.ctx ctx).part) 0) →
     ∃ t, exec (.retxTimeout ctx env) s = .next t ∧ (t.ctx ctx).retries = (s.ctx ctx).retries + 1 ∧
       (t.ctx ctx).rto = min (2 * (s.ctx ctx).rto) (1000 * s.fld F.AQD_RTO_MAX (s.drive (s.ctx ctx).part) 0) ∧
       (t.ctx ctx).rate = max ((s.ctx ctx).rate / 2) (s.ccMin (s.ctx ctx).part) ∧ (t.ctx ctx).state = 2 ∧
       (t.ctx ctx).out.map (·.psn) = (s.ctx ctx).out.map (·.psn) ∧ s.changes [.mac, .aqd] t) ∧
   (∀ (ctx : Nat) (s : State), s.stopped = false → (s.ctx ctx).state = 2 → (s.ctx ctx).out ≠ [] →
     ∃ t y, exec (.probeTimer ctx) s = .next t ∧ (t.lp (s.ctx ctx).lp).txq = (s.lp (s.ctx ctx).lp).txq ++ [y] ∧
       s.changes [.regs, .mac] t)) ∧
  ((∀ (s s1 : State) (x : RxItem) (p : Pkt), s.gets 7 x p s1 →
     ∃ t y, exec .probe s = .next t ∧ (t.ctx p.dstCtx).rxPkts = ((s.ctx p.dstCtx).rxPkts + 1) % 2 ^ 64 ∧
       (t.lp (s.ctx p.dstCtx).lp).txq = (s1.lp (s.ctx p.dstCtx).lp).txq ++ [y] ∧ s.changes [.regs, .mac, .aqd] t) ∧
   (∀ (s s1 : State) (x : RxItem) (p : Pkt) (q : Nat × Bool), s.gets 8 x p s1 →
     (s.ctx p.dstCtx).probes.find? (fun q => q.1 = beAt p.payload 0 8) = some q → x.slot = none →
     ∃ t, exec .probeReply s = .next t ∧
       (t.ctx p.dstCtx).untimed = (if q.2 then ((s.ctx p.dstCtx).untimed + 1) % 2 ^ 32 else (s.ctx p.dstCtx).untimed) ∧
       (t.ctx p.dstCtx).probes = (s.ctx p.dstCtx).probes.erase q ∧ (t.ctx p.dstCtx).rate = (s.ctx p.dstCtx).rate ∧
       s.changes [.mac, .aqd] t) ∧
   (∀ (s s0 : State) (x : RxItem) (p : Pkt) (t1 t4 : Nat), s.stopped = false →
     s.takeRx (fun x => match x.frame.body with | .aqd p => p.op = 8 | _ => false) = some (x, s0) → x.frame.body = .aqd p →
     s0.ingressCap x = some t4 → (s0.freeIngress x.lp x.slot).fromPeer p = true →
     (s.ctx p.dstCtx).probes.find? (fun q => q.1 = beAt p.payload 0 8) = some (t1, true) →
     beAt p.payload 8 8 ≠ 0 → beAt p.payload 16 8 ≠ 0 →
     ∃ t, exec .probeReply s = .next t ∧ (t.ctx p.dstCtx).samples = ((s.ctx p.dstCtx).samples + 1) % 2 ^ 32 ∧
       (t.ctx p.dstCtx).untimed = (s.ctx p.dstCtx).untimed ∧ s.changes [.mac, .aqd] t) ∧
   (∀ (s : State) (i d : Nat), d ≤ s.fld F.AQD_CC_TARGET (s.drive (s.ctx i).part) 0 →
     ((s.ccSample i d).ctx i).rate
       = min ((s.ctx i).rate + s.fld F.AQD_CC_AI (s.drive (s.ctx i).part) 0) (s.lineRate (s.ctx i).lp) ∧
     ((s.ccSample i d).ctx i).samples = ((s.ctx i).samples + 1) % 2 ^ 32))

/-! ### The Ethernet ports -/

/-- Pause: a PAUSE frame on a port in that mode, and a PFC frame on one in its mode for each priority that it names and the port
enables, holds until the quanta have passed, and zero quanta release; a frame of the other kind is discarded; an expired hold is
gone; the device's own XOFF ends when the occupancy has fallen, and is repeated when half its quanta have passed; a hold of the limit
is broken and reported, and a priority leaves its holdoff, after which the device's own XOFF goes out where the buffer asks for it
(R273 to R275). -/
def Obligations.PauseCommands : Prop :=
  (∀ (s s0 : State) (x : RxItem) (en q : Nat) (qs : List Nat),
    s.takeRx (fun x => match x.frame.body with | .control _ _ _ => true | _ => false) = some (x, s0) →
    x.frame.body = .control 1 en (q :: qs) → s.fcMode x.lp = 1 → 8 ∉ (s.lp x.lp).offRx →
    ∃ t, exec .pauseFrame s = .next t ∧
      (q = 0 → ∀ h ∈ (t.lp x.lp).holds, h.prio ≠ 8) ∧
      (q ≠ 0 → ∃ h ∈ (t.lp x.lp).holds, h.prio = 8 ∧ h.until_ = s.ns + s.quantaNs x.lp q) ∧ s.changes [.mac] t) ∧
  (∀ (s s0 : State) (x : RxItem) (en : Nat) (qs : List Nat),
    s.takeRx (fun x => match x.frame.body with | .control _ _ _ => true | _ => false) = some (x, s0) →
    x.frame.body = .control 0x0101 en qs → s.fcMode x.lp = 2 →
    ∃ t, exec .pauseFrame s = .next t ∧
      (∀ p, p < 8 → bit en p = true → bit (s.fld F.MAC_PFC_PRIO 0 x.lp) p = true → p ∉ (s.lp x.lp).offRx →
        (qs.getD p 0 = 0 → ∀ h ∈ (t.lp x.lp).holds, h.prio ≠ p) ∧
        (qs.getD p 0 ≠ 0 → ∃ h ∈ (t.lp x.lp).holds, h.prio = p ∧ h.until_ = s.ns + s.quantaNs x.lp (qs.getD p 0))) ∧
      s.changes [.pmc, .mac] t) ∧
  (∀ (s s0 : State) (x : RxItem) (op en : Nat) (qs : List Nat),
    s.takeRx (fun x => match x.frame.body with | .control _ _ _ => true | _ => false) = some (x, s0) →
    x.frame.body = .control op en qs → op = 1 ∧ s.fcMode x.lp ≠ 1 ∨ op = 0x0101 ∧ s.fcMode x.lp ≠ 2 →
    ∃ t, exec .pauseFrame s = .next t ∧ (∀ j, t.lp j = s.lp j) ∧ s.changes [.pmc, .mac] t) ∧
  (∀ (lp prio : Nat) (s : State),
    ∃ t, exec (.pauseHoldExpire lp prio) s = .next t ∧
      t.lp lp = { s.lp lp with holds := (s.lp lp).holds.filter fun h => h.prio ≠ prio || decide (s.ns < h.until_) } ∧
      (∀ j, j ≠ lp → t.lp j = s.lp j) ∧ s.changes [.mac] t) ∧
  (∀ (lp prio : Nat) (s : State) (h : Hold), (s.lp lp).xoff.find? (fun h => h.prio = prio) = some h →
    ((s.lp lp).occupancy < 65536 →
      ∃ t y, exec (.xoffRepeat lp prio) s = .next t ∧ (∀ h ∈ (t.lp lp).xoff, h.prio ≠ prio) ∧
        (t.lp lp).txq = (s.lp lp).txq ++ [y] ∧ s.changes [.mac] t) ∧
    (65536 ≤ (s.lp lp).occupancy → h.until_ ≤ s.ns → prio ∉ (s.lp lp).offTx →
      ∃ t y g, exec (.xoffRepeat lp prio) s = .next t ∧ g ∈ (t.lp lp).xoff ∧ g.prio = prio ∧ g.since = h.since ∧
        (t.lp lp).txq = (s.lp lp).txq ++ [y] ∧ s.changes [.mac] t) ∧
    (65536 ≤ (s.lp lp).occupancy → s.ns < h.until_ → exec (.xoffRepeat lp prio) s = .next s)) ∧
  (∀ (lp prio : Nat) (s : State) (h : Hold), (s.lp lp).holds.find? (fun h => h.prio = prio) = some h →
    1000 * max 1 (s.fld F.MAC_PAUSE_WD 0 lp) ≤ s.ns - h.since →
    ∃ t, exec (.pauseWatchdog lp prio false) s = .next t ∧ (∀ g ∈ (t.lp lp).holds, g.prio ≠ prio) ∧
      (t.lp lp).offRx = (s.lp lp).offRx ++ [prio] ∧ t.fld F.MAC_E_PAUSE 0 0 = 1 ∧
      s.changes [.emitted, .regs, .prt, .que, .pmc, .mac] t) ∧
  (∀ (lp prio : Nat) (s : State) (h : Hold), (s.lp lp).xoff.find? (fun h => h.prio = prio) = some h →
    1000 * max 1 (s.fld F.MAC_PAUSE_WD 0 lp) ≤ s.ns - h.since →
    ∃ t y, exec (.pauseWatchdog lp prio true) s = .next t ∧ (∀ g ∈ (t.lp lp).xoff, g.prio ≠ prio) ∧
      (t.lp lp).offTx = (s.lp lp).offTx ++ [prio] ∧ (t.lp lp).txq = (s.lp lp).txq ++ [y] ∧
      t.fld F.MAC_E_PAUSE 0 0 = 1 ∧ s.changes [.emitted, .regs, .prt, .que, .pmc, .mac] t) ∧
  (∀ (lp prio : Nat) (s : State),
    ∃ t, exec (.pauseHoldoffEnd lp prio false) s = .next t ∧
      t.lp lp = { s.lp lp with offRx := (s.lp lp).offRx.filter (fun q => q ≠ prio) } ∧
      (∀ j, j ≠ lp → t.lp j = s.lp j) ∧ s.changes [.mac] t) ∧
  (∀ (lp prio : Nat) (s : State), prio ∈ (s.lp lp).offTx →
    ∃ t, exec (.pauseHoldoffEnd lp prio true) s = .next t ∧ (t.lp lp).offTx = (s.lp lp).offTx.filter (fun q => q ≠ prio) ∧
      (s.sendsXoff lp prio = true → 131072 ≤ (s.lp lp).occupancy → (∀ h ∈ (s.lp lp).xoff, h.prio ≠ prio) →
        ∃ y g, (t.lp lp).txq = (s.lp lp).txq ++ [y] ∧ g ∈ (t.lp lp).xoff ∧ g.prio = prio) ∧
      (s.sendsXoff lp prio = false ∨ (s.lp lp).occupancy < 131072 →
        (t.lp lp).txq = (s.lp lp).txq ∧ (t.lp lp).xoff = (s.lp lp).xoff) ∧
      (∀ j, j ≠ lp → t.lp j = s.lp j) ∧ s.changes [.mac] t)

/-- A write of `value` to the configuration of physical port `n` is accepted (R266, R268). -/
def Sys2Proof.Machine.State.portWritten (s : State) (n value : Nat) : Prop :=
  ∃ t, exec (.macPortCfgWrite n value) s = .next t ∧ t.regN .macPortCfg 0 n = value &&& 0xFFF3 ∧
    (bit value 0 = true ∧ bits value 7 4 ≠ 0 → s.changesRegs [(.macPortCfg, 0, n)] t ∧ s.changes [.regs] t) ∧
    (bit value 0 = false ∨ bits value 7 4 = 0 → (t.lp (2 * n)).up = false ∧ (t.lp (2 * n + 1)).up = false) ∧
    s.changes [.emitted, .regs, .prt, .que, .pmc, .mac] t

/-- Links and port set-up: a link comes up on an enabled port with a PHY type and goes down with MAC_E_LINK and out of Low
Power Idle; a legal write of the port's configuration or of a filter entry is stored, and any other refused with MAC_E_CFG; one that
disables a port, or gives it no PHY type, takes its links down (R266, R268 to R270). LLDP and Low Power Idle: a port that is up sends
its LLDPDU, whose EEE TLV asks for the PHY type's minimum and echoes the partner; an EEE TLV received resolves the wake times, each
the longer of the two ends' (log entry 40), and its lapse unresolves them; an idle port that may enters Low Power Idle (R276 to
R278). -/
def Obligations.PortsAndLinks : Prop :=
  ((∀ (lp : Nat) (s : State), s.lpExists lp = true → s.flag F.MAC_PORT_EN 0 (lp / 2) = true → s.phy lp ≠ 0 →
     (s.lp lp).up = false →
     ∃ t, exec (.linkUp lp) s = .next t ∧ t.lp lp = { s.lp lp with up := true } ∧ (∀ j, j ≠ lp → t.lp j = s.lp j) ∧
       s.changes [.emitted, .regs, .prt, .que, .pmc, .mac] t) ∧
   (∀ (lp : Nat) (s : State), lp < 16 → (s.lp lp).up = true →
     ∃ t, exec (.linkDown lp) s = .next t ∧ t.lp lp = { s.lp lp with up := false } ∧ t.fld F.MAC_LPI_ACTIVE 0 lp = 0 ∧
       t.fld F.MAC_E_LINK 0 0 = 1 ∧ s.changes [.emitted, .regs, .prt, .que, .pmc, .mac] t) ∧
   (∀ (n value : Nat) (s : State), bit (s.regN .macPortCfg 0 n) 0 = false →
     bit value 0 = false ∨ bits value 7 4 = 0 ∨ (bit value 1 = false ∧ 1 ≤ bits value 7 4 ∧ bits value 7 4 ≤ 4) ∨
       (bit value 1 = true ∧ (bits value 7 4 = 5 ∨ bits value 7 4 = 6)) →
     s.portWritten n value) ∧
   (∀ (n value : Nat) (s : State), bit (s.regN .macPortCfg 0 n) 0 = true →
     (value &&& 0xFFF3) / 2 = s.regN .macPortCfg 0 n / 2 → s.portWritten n value) ∧
   (∀ (n value : Nat) (s : State), bit (s.regN .macPortCfg 0 n) 0 = false → bit value 0 = true →
     6 < bits value 7 4 ∨ (bit value 1 = true ∧ 1 ≤ bits value 7 4 ∧ bits value 7 4 ≤ 4) ∨
       (bit value 1 = false ∧ (bits value 7 4 = 5 ∨ bits value 7 4 = 6)) →
     ∃ t, exec (.macPortCfgWrite n value) s = .next t ∧ t.fld F.MAC_E_CFG 0 0 = 1 ∧
       s.changesRegs [(.macErrSts, 0, 0), (.macErrFirst, 0, 0)] t ∧ s.changes [.regs] t) ∧
   (∀ (n value : Nat) (s : State), bit (s.regN .macPortCfg 0 n) 0 = true →
     (value &&& 0xFFF3) / 2 ≠ s.regN .macPortCfg 0 n / 2 →
     ∃ t, exec (.macPortCfgWrite n value) s = .next t ∧ t.fld F.MAC_E_CFG 0 0 = 1 ∧
       s.changesRegs [(.macErrSts, 0, 0), (.macErrFirst, 0, 0)] t ∧ s.changes [.regs] t) ∧
   (∀ (lp e value : Nat) (s : State), s.lpExists lp = true → bit value 40 = decide (8 ≤ e) →
     ∃ t, exec (.macFilterWrite lp e value) s = .next t ∧
       t.regN .macFilter 0 (16 * lp + e) = value &&& 0x8000FFFFFFFFFFFF ∧
       s.changesRegs [(.macFilter, 0, 16 * lp + e)] t ∧ s.changes [.regs] t) ∧
   (∀ (lp e value : Nat) (s : State), s.lpExists lp = true → bit value 40 = decide (e < 8) →
     ∃ t, exec (.macFilterWrite lp e value) s = .next t ∧ t.fld F.MAC_E_CFG 0 0 = 1 ∧
       s.changesRegs [(.macErrSts, 0, 0), (.macErrFirst, 0, 0)] t ∧ s.changes [.regs] t)) ∧
  ((∀ (lp : Nat) (s : State), s.lpExists lp = true → (s.lp lp).up = true →
     ∃ t y f, exec (.lldpTransmit lp) s = .next t ∧ (t.lp lp).txq = (s.lp lp).txq ++ [y] ∧ y.what = .whole f ∧
       f.dst = 0x0180C200000E ∧ f.src = s.fld F.MAC_FLT_ADDR 0 (16 * lp) ∧
       (∃ e, f.body = .lldp (s.fld F.MAC_FLT_ADDR 0 (16 * lp)) lp 120 e ∧
         (e.isSome ↔ s.flag F.MAC_LPI_EN 0 lp = true ∧ offersLpi (s.phy lp) = true) ∧
         ∀ v, e = some v → v.rx = Config.minTw (s.phy lp) ∧ (v.echoTx, v.echoRx) = (s.lp lp).eee.getD (0, 0)) ∧
       (∀ j, j ≠ lp → t.lp j = s.lp j) ∧ s.changes [.mac] t) ∧
   (∀ (s s0 : State) (x : RxItem) (a b c : Nat) (e : EeeTlv),
     s.takeRx (fun x => match x.frame.body with | .lldp _ _ _ _ => true | _ => false) = some (x, s0) → x.lp < 16 →
     x.frame.body = .lldp a b c (some e) →
     ∃ t, exec .lldpReceive s = .next t ∧
       t.fld F.MAC_TW_TX 0 x.lp = max (Config.minTw (s.phy x.lp)) e.rx % 2 ^ 16 ∧
       t.fld F.MAC_TW_RX 0 x.lp = max (Config.minTw (s.phy x.lp)) e.tx % 2 ^ 16 ∧ (t.lp x.lp).eee = some (e.tx, e.rx) ∧
       s.changesRegs [(.macLpiSts, 0, x.lp)] t ∧ s.changes [.regs, .mac] t) ∧
   (∀ (s s0 : State) (x : RxItem) (a b c : Nat),
     s.takeRx (fun x => match x.frame.body with | .lldp _ _ _ _ => true | _ => false) = some (x, s0) →
     x.frame.body = .lldp a b c none →
     ∃ t, exec .lldpReceive s = .next t ∧ (∀ j, t.lp j = s.lp j) ∧ s.changes [.mac] t) ∧
   (∀ (lp : Nat) (s : State),
     ∃ t, exec (.lldpTtlExpiry lp) s = .next t ∧ t.regN .macLpiSts 0 lp = 0 ∧ t.lp lp = { s.lp lp with eee := none } ∧
       s.changesRegs [(.macLpiSts, 0, lp)] t ∧ s.changes [.regs, .mac] t) ∧
   (∀ (lp : Nat) (s : State), s.flag F.MAC_LPI_EN 0 lp = true → offersLpi (s.phy lp) = true → (s.lp lp).up = true →
     (s.lp lp).eee.isSome = true → (s.lp lp).txq = [] → s.portBusy lp = false →
     ∃ t, exec (.lpiEntry lp) s = .next t ∧ t.fld F.MAC_LPI_ACTIVE 0 lp = 1 ∧
       s.changesRegs [(.macLpiCtrl, 0, lp)] t ∧ s.changes [.regs] t))

/-- Frame `f` passes the checks of port `lp` (R266, R267, R271). -/
def Sys2Proof.Machine.State.lets (s : State) (lp : Nat) (f : Frame) : Prop :=
  s.lpExists lp = true ∧ (s.lp lp).up = true ∧ f.fec = true ∧ f.fcs = true ∧ f.octets ≤ 9238 ∧ s.filterPass lp f = true

/-- What `f` carries goes to a consumer of the module through the receive buffer (R271, R274). -/
def Sys2Proof.Machine.State.consumed (s : State) (f : Frame) : Prop :=
  match f.body with
  | .lldp _ _ _ _ => True
  | .ptp _ => True
  | .aqd p => p.dport = 319 ∨ p.dport = 320 ∨ (p.dport = s.fld F.AQD_UDP_PORT 0 0 ∧ s.stopped = false ∧ pktOk p = true)
  | _ => False

/-- A received frame: one that the PHY's check rejects only counts; an oversize one sets MAC_E_OVERSIZE; one that the filter or
the kind of what it carries turns away is discarded, and a malformed Aqueduct packet sets AQD_E_RX; a pause frame goes straight to
its handler; what a consumer takes waits in the receive buffer while there is room, and is dropped with MAC_E_RXDROP when there is
none. The buffer hands its oldest frame over, and what the time clock does not use is discarded with CLP_E_PTP (R235, R266, R267,
R271, R274, R285, R476). The next frame of a port leaves, counted and out of the queue, with the port out of Low Power Idle: a whole
frame as it was queued, an Aqueduct control packet with its times, and a flow's packet as it is formed from its operation; with
nothing to send nothing leaves (R236, R243, R259, R278, R381, R476). -/
def Obligations.FramesInAndOut : Prop :=
  ((∀ (lp quarter : Nat) (f : Frame) (s : State), s.lpExists lp = true → (s.lp lp).up = true → f.fec = false ∨ f.fcs = false →
     ∃ t, exec (.frameReceive lp f quarter) s = .next t ∧ t.mac = s.mac ∧ s.changes [.pmc] t) ∧
   (∀ (lp quarter : Nat) (f : Frame) (s : State), s.lpExists lp = true → (s.lp lp).up = true → f.fec = true → f.fcs = true →
     9238 < f.octets →
     ∃ t, exec (.frameReceive lp f quarter) s = .next t ∧ t.fld F.MAC_E_OVERSIZE 0 0 = 1 ∧ t.mac = s.mac ∧
       s.changes [.regs, .pmc] t) ∧
   (∀ (lp quarter : Nat) (f : Frame) (s : State), s.lpExists lp = true → (s.lp lp).up = true → f.fec = true → f.fcs = true →
     f.octets ≤ 9238 → s.filterPass lp f = false → ∃ t, exec (.frameReceive lp f quarter) s = .next t ∧ s.changes [.pmc] t) ∧
   (∀ (lp quarter op en : Nat) (qs : List Nat) (f : Frame) (s : State), s.lets lp f → f.body = .control op en qs →
     (op = 1 ∨ op = 0x0101 → ∃ t, exec (.frameReceive lp f quarter) s = .next t ∧
       t.mac = { s.mac with rx := s.mac.rx ++ [⟨lp, f, none⟩] } ∧ s.changes [.pmc, .mac] t) ∧
     (op ≠ 1 → op ≠ 0x0101 → ∃ t, exec (.frameReceive lp f quarter) s = .next t ∧ s.changes [.pmc] t)) ∧
   (∀ (lp quarter n : Nat) (f : Frame) (s : State), s.lets lp f → f.body = .other n →
     ∃ t, exec (.frameReceive lp f quarter) s = .next t ∧ s.changes [.pmc] t) ∧
   (∀ (lp quarter : Nat) (p : Pkt) (f : Frame) (s : State), s.lets lp f → f.body = .aqd p → p.dport ≠ 319 → p.dport ≠ 320 →
     (p.dport ≠ s.fld F.AQD_UDP_PORT 0 0 ∨ s.stopped = true →
       ∃ t, exec (.frameReceive lp f quarter) s = .next t ∧ s.changes [.pmc] t) ∧
     (p.dport = s.fld F.AQD_UDP_PORT 0 0 → s.stopped = false → pktOk p = false →
       ∃ t, exec (.frameReceive lp f quarter) s = .next t ∧ t.fld F.AQD_E_RX 0 0 = 1 ∧ s.changes [.regs, .pmc] t)) ∧
   (∀ (lp quarter : Nat) (f : Frame) (s : State), s.lets lp f → s.consumed f →
     ((s.lp lp).occupancy + f.octets ≤ 262144 →
       ∃ t i, exec (.frameReceive lp f quarter) s = .next t ∧ (t.lp lp).rxbuf = (s.lp lp).rxbuf ++ [⟨lp, f, i⟩] ∧
         t.mac.rx = s.mac.rx ∧ s.changes [.regs, .pmc, .mac] t) ∧
     (262144 < (s.lp lp).occupancy + f.octets →
       ∃ t, exec (.frameReceive lp f quarter) s = .next t ∧ t.fld F.MAC_E_RXDROP 0 0 = 1 ∧ (t.lp lp).rxbuf = (s.lp lp).rxbuf ∧
         t.mac.rx = s.mac.rx ∧ s.changes [.regs, .pmc, .mac] t)) ∧
   (∀ (lp : Nat) (s : State) (i : RxItem) (rest : List RxItem), (s.lp lp).rxbuf = i :: rest →
     ∃ t, exec (.rxBufferDrain lp) s = .next t ∧ (t.lp lp).rxbuf = rest ∧
       (ptpUnused i.frame = false → t.mac.rx = s.mac.rx ++ [i] ∧ s.changes [.mac] t) ∧
       (ptpUnused i.frame = true → t.mac.rx = s.mac.rx ∧ t.fld F.CLP_E_PTP 0 0 = 1) ∧
       (65536 ≤ LpSt.occupancy { s.lp lp with rxbuf := rest } → (t.lp lp).xoff = (s.lp lp).xoff) ∧
       s.changes [.regs, .pmc, .mac] t)) ∧
  (∀ (lp quarter : Nat) (env : Env) (s s1 : State), s.lpExists lp = true → (s.lp lp).up = true →
     s1 = ((s.txPrune lp).txHeld lp).txCatchUp lp →
     (∀ x f, s1.txNext lp = some x → x.what = .whole f →
       ∃ t cap g, exec (.frameTransmit lp quarter env) s = .next t ∧ t.emitted = s.emitted ++ [.frame lp g cap] ∧
         (x.slot = none → cap = none) ∧ ((∀ p, f.body ≠ .aqd p) → g = f) ∧
         (∀ p, f.body = .aqd p → g = { f with body := .aqd (s.stampPkt p cap) }) ∧
         (t.lp lp).txq = (s1.lp lp).txq.erase x ∧ t.fld F.MAC_LPI_ACTIVE 0 lp = 0 ∧
         s.changes [.emitted, .regs, .pmc, .clp, .mac, .aqd] t) ∧
     (∀ x i psn retx e s2 code err d, s1.txNext lp = some x → x.what = .seq i psn retx → s.stopped = false →
       (s.ctx i).entOf psn = some e →
       (s1.setLp lp { s1.lp lp with txq := (s1.lp lp).txq.erase x }).txPayload env i e retx = (s2, code, err, d) →
       s2.aqd.notes = [] →
       ∃ t f, exec (.frameTransmit lp quarter env) s = .next t ∧ t.emitted = s2.emitted ++ [.frame lp f none] ∧
         f.body = .aqd (s2.txPacket i e retx code err d) ∧ (t.lp lp).txq = (s2.lp lp).txq ∧
         t.fld F.MAC_LPI_ACTIVE 0 lp = 0 ∧ t.mem = s2.mem) ∧
     (s1.txNext lp = none →
       ∃ t, exec (.frameTransmit lp quarter env) s = .next t ∧ t.emitted = s.emitted ∧ s.changes [.regs, .mac] t))

/-! ### Cluster time -/

/-- PTP: a message from another source, port, domain, address or transport is discarded with CLP_E_PTP; a Sync without a capture
is consumed and gives nothing; a two-step Sync waits for its Follow_Up, which gives the Sync its time; once a path delay is known each
complete Sync is a sample of the offset; a Delay_Resp of the outstanding request ends the exchange with a path delay; the
first Announce selects the source; and a Delay_Req is queued under the next sequence number (R285, R286). -/
def Obligations.PtpMessages : Prop :=
  (∀ (kind : Nat) (c : Instr) (s s0 : State) (x : RxItem) (cap : Option Nat) (m : PtpMsg),
    kind = 0 ∧ c = .sync ∨ kind = 8 ∧ c = .followUp ∨ kind = 9 ∧ c = .delayResp → s.takePtp kind = some (x, cap, m, s0) →
    s.ptpOk x.lp m = false →
    ∃ t, exec c s = .next t ∧ t.fld F.CLP_E_PTP 0 0 = 1 ∧ t.clp = s.clp ∧ s.changes [.regs, .pmc, .mac] t) ∧
  (∀ (s s0 : State) (x : RxItem) (m : PtpMsg), s.takePtp 0 = some (x, none, m, s0) → s.ptpOk x.lp m = true →
    ∃ t, exec .sync s = .next t ∧ s.changes [.mac] t) ∧
  (∀ (s s0 : State) (x : RxItem) (cap : Nat) (m : PtpMsg), s.takePtp 0 = some (x, some cap, m, s0) →
    s.ptpOk x.lp m = true → m.twoStep = true →
    ∃ t, exec .sync s = .next t ∧ t.clp = { s.clp with twoStep := some (m.seq, s.rxTime x.lp cap, m.corr, s.clp.ticks) } ∧
      s.changes [.clp, .mac] t) ∧
  (∀ (s s0 : State) (x : RxItem) (cap : Nat) (m : PtpMsg), s.takePtp 0 = some (x, some cap, m, s0) →
    s.ptpOk x.lp m = true → m.twoStep = false → s.clp.delays = [] →
    ∃ t, exec .sync s = .next t ∧ t.clp = { s.clp with sync := some (m.stamp, s.rxTime x.lp cap, m.corr) } ∧
      s.changes [.clp, .mac] t) ∧
  (∀ (s s0 : State) (x : RxItem) (cap : Nat) (m : PtpMsg) (mpd : Int), s.takePtp 0 = some (x, some cap, m, s0) →
    s.ptpOk x.lp m = true → m.twoStep = false → s.meanDelay = some mpd →
    ∃ t, exec .sync s = .next t ∧ t.clp.sync = some (m.stamp, s.rxTime x.lp cap, m.corr) ∧ t.clp.lastTick = s.clp.ticks ∧
      t.fld F.CLP_OFFSET 0 0 = unsign 64 (ns16 m.stamp + m.corr + mpd - s.rxTime x.lp cap) ∧
      s.changes [.emitted, .free, .regs, .prt, .que, .pmc, .clp, .mac] t) ∧
  (∀ (s s0 : State) (x : RxItem) (cap : Option Nat) (m : PtpMsg) (t2 cs : Int) (tick : Nat),
    s.takePtp 8 = some (x, cap, m, s0) → s.ptpOk x.lp m = true → s.clp.twoStep = some (m.seq, t2, cs, tick) →
    ∃ t, exec .followUp s = .next t ∧ t.clp.twoStep = none ∧ t.clp.sync = some (m.stamp, t2, cs + m.corr) ∧
      (∀ mpd, s.meanDelay = some mpd → t.clp.lastTick = tick ∧
        t.fld F.CLP_OFFSET 0 0 = unsign 64 (ns16 m.stamp + (cs + m.corr) + mpd - t2)) ∧
      (s.meanDelay = none → s.changes [.clp, .mac] t)) ∧
  (∀ (s s0 : State) (x : RxItem) (cap : Option Nat) (m : PtpMsg) (t1 : Nat) (t2 cs t3 : Int),
    s.takePtp 9 = some (x, cap, m, s0) → s.ptpOk x.lp m = true → s.clp.dreq = some (m.seq, t3) →
    s.clp.sync = some (t1, t2, cs) → m.reqSource = s.ptpSelf →
    ∃ t, exec .delayResp s = .next t ∧ t.clp = { s.clp with
        delays := ((((t2 - ns16 t1 - cs) + (ns16 m.stamp - t3 - m.corr)) / 2) :: s.clp.delays).take 8, dreq := none } ∧
      s.changes [.clp, .mac] t) ∧
  (∀ (s s0 : State) (x : RxItem) (cap : Option Nat) (m : PtpMsg), s.takePtp 11 = some (x, cap, m, s0) →
    s.ptpHere x.lp m = true → s.clp.source = none → ∃ t, exec .announce s = .next t ∧ t.clp = { s.clp with source := some m.source } ∧ s.changes [.clp, .mac] t) ∧
  (∀ (s s0 : State) (x : RxItem) (cap : Option Nat) (m : PtpMsg) (p : Nat), s.takePtp 11 = some (x, cap, m, s0) →
    s.ptpHere x.lp m = false ∨ s.clp.source = some p ∧ p ≠ m.source →
    ∃ t, exec .announce s = .next t ∧ t.fld F.CLP_E_PTP 0 0 = 1 ∧ t.clp = s.clp ∧ s.changes [.regs, .pmc, .mac] t) ∧
  (∀ (s : State), s.clpSrc = 1 →
    ∃ t y f m, exec .delayReqTimer s = .next t ∧ y.what = .whole f ∧ f.body = .ptp m ∧ m.kind = 1 ∧
      m.seq = (s.clp.dreqSeq + 1) % 65536 ∧ m.xport = s.ptpXport ∧ m.srcIp = s.ptpSrcIp s.ptpXport ∧
      m.dst = ptpDst s.ptpXport ∧
      t.clp = { s.clp with dreqSeq := (s.clp.dreqSeq + 1) % 65536, dreq := none } ∧
      (t.lp (s.fld F.CLP_PTP_PORT 0 0)).txq = (s.lp (s.fld F.CLP_PTP_PORT 0 0)).txq ++ [y] ∧
      s.changes [.regs, .clp, .mac] t)

/-- The source of cluster time: an edge of the second is a sample of the offset; a lost source leaves holdover at the
integral frequency, and one that is lost in holdover is followed no more; writing CLP_CTRL selects the source, free running or
tracking; a step sets the time and says so; a read answers the nanoseconds and latches the fraction, or answers zero to the function
of a partition that is closed (R284, R287 to R291, R369). The loop's correction stays within ±500 ppm, whatever
the sample, and so does its integral (R284, R288). The pulse of CLK_PPS_OUT rises within 4 ns of the second while enabled, once in
each, and falls at its end (R292). -/
def Obligations.ClusterTime : Prop :=
  ((∀ (quarter : Nat) (s : State), s.clpSrc ≠ 2 → s.clpSrc ≠ 3 ∨ s.clp.clk10m = false →
     exec (.ppsEdge quarter) s = .next s) ∧
   (∀ (s : State), s.clpSrc ≠ 0 → s.fld F.CLP_STATE 0 0 = 3 →
     ∃ t, exec .sourceLoss s = .next t ∧ t.clp = { s.clp with source := none, firstSample := true } ∧ s.changes [.clp] t) ∧
   (∀ (quarter : Nat) (s : State), s.clpSrc = 2 ∨ s.clpSrc = 3 ∧ s.clp.clk10m = true →
     ∃ t, exec (.ppsEdge quarter) s = .next t ∧ t.clp.firstSample = false ∧ t.clp.lastTick = s.clp.ticks ∧
       t.fld F.CLP_OFFSET 0 0 = unsign 64
         (if s.capture quarter % (1000000000 * 65536) < 500000000 * 65536 then
             -((s.capture quarter % (1000000000 * 65536) : Nat) : Int)
           else ((1000000000 * 65536 - s.capture quarter % (1000000000 * 65536) : Nat) : Int)) ∧
       s.changes [.emitted, .free, .regs, .prt, .que, .pmc, .clp] t) ∧
   (∀ (s : State), s.clpSrc ≠ 0 → s.fld F.CLP_STATE 0 0 = 1 ∨ s.fld F.CLP_STATE 0 0 = 2 →
     ∃ t, exec .sourceLoss s = .next t ∧ t.fld F.CLP_STATE 0 0 = 3 ∧ t.fld F.CLP_E_LOSS 0 0 = 1 ∧
       t.fld F.CLP_FREQ 0 0 = unsign 32 s.clp.integ % 2 ^ 32 ∧ t.clp.source = none ∧ t.clp.firstSample = true ∧
       t.clp.time = s.clp.time ∧ s.changes [.emitted, .regs, .prt, .que, .pmc, .clp] t) ∧
   (∀ (s : State), s.clpSrc = 3 → s.fld F.CLP_STATE 0 0 = 1 ∨ s.fld F.CLP_STATE 0 0 = 2 →
     ∃ t, exec .clk10mLoss s = .next t ∧ t.fld F.CLP_STATE 0 0 = 3 ∧ t.clp.clk10m = false ∧ t.clp.time = s.clp.time) ∧
   (∀ (s : State), s.clpSrc ≠ 3 →
     ∃ t, exec .clk10mLoss s = .next t ∧ t.clp = { s.clp with clk10m := false } ∧ s.changes [.clp] t) ∧
   (∀ (s : State), ∃ t, exec .clk10mReturn s = .next t ∧ t.clp = { s.clp with clk10m := true } ∧ s.changes [.clp] t) ∧
   (∀ (value : Nat) (s : State), bits value 2 0 = 0 →
     ∃ t, exec (.clpSrcWrite value) s = .next t ∧ t.regN .clpCtrl 0 0 = value &&& 0xF7FFF7 ∧ t.fld F.CLP_STATE 0 0 = 0 ∧
       t.fld F.CLP_FREQ 0 0 = unsign 32 s.clp.integ % 2 ^ 32 ∧
       s.changes [.emitted, .regs, .prt, .que, .pmc, .clp] t) ∧
   (∀ (value : Nat) (s : State), 1 ≤ bits value 2 0 → bits value 2 0 ≤ 3 → s.fld F.CLP_STATE 0 0 = 0 →
     ∃ t, exec (.clpSrcWrite value) s = .next t ∧ t.regN .clpCtrl 0 0 = value &&& 0xF7FFF7 ∧ t.fld F.CLP_STATE 0 0 = 1) ∧
   (∀ (off value : Nat) (s : State),
     ∃ t, exec (.clpSet off 8 value) s = .next t ∧ t.clp.time = value % 2 ^ 64 * 2 ^ 48 ∧ t.clp.heldLow = none ∧
       t.fld F.CLP_E_STEP 0 0 = 1 ∧ s.changes [.regs, .clp] t) ∧
   (∀ (value : Nat) (s : State),
     ∃ t, exec (.clpSet 0 4 value) s = .next t ∧ t.clp = { s.clp with heldLow := some (value % 2 ^ 32) } ∧
       s.changes [.clp] t) ∧
   (∀ (off low value : Nat) (s : State), off ≠ 0 → s.clp.heldLow = some low →
     ∃ t, exec (.clpSet off 4 value) s = .next t ∧ t.clp.time = (value % 2 ^ 32 * 2 ^ 32 + low) * 2 ^ 48 ∧
       t.clp.heldLow = none) ∧
   (∀ (fn : Nat) (s : State), s.fnOpen fn = false → s.vfExists fn = true →
     ∃ t e, exec (.clpTimeRead fn) s = .next t ∧ t.emitted = s.emitted ++ [e] ∧
       (e = .regData fn 0xC0000 0 ∨ ∃ x, e = .tbit x (.regData fn 0xC0000 0)) ∧ s.changes [.emitted] t) ∧
   (∀ (fn : Nat) (s : State), s.fnOpen fn = true →
     ∃ t e, exec (.clpTimeRead fn) s = .next t ∧ t.fld F.CLP_TIME_FRAC fn 0 = s.time16 % 65536 ∧
       t.emitted = s.emitted ++ [e] ∧ (e = .regData fn 0xC0000 s.ns ∨ ∃ x, e = .tbit x (.regData fn 0xC0000 s.ns)) ∧
       s.changesRegs [(.clpTimeFrac, fn, 0)] t ∧ s.changes [.emitted, .regs] t)) ∧
  (∀ (s : State) (o : Int) (delta : Nat),
     -freqMax ≤ signed 32 ((s.clpLoop o delta).fld F.CLP_FREQ 0 0) ∧
     signed 32 ((s.clpLoop o delta).fld F.CLP_FREQ 0 0) ≤ freqMax ∧
     -freqMax ≤ (s.clpLoop o delta).clp.integ ∧ (s.clpLoop o delta).clp.integ ≤ freqMax ∧
     (s.clpLoop o delta).clp.time = s.clp.time) ∧
  ((∀ (s : State), s.flag F.CLP_PPS_OUT_EN 0 0 = true → s.clp.ppsHigh = false → s.ns % 1000000000 ≤ 4 →
     s.clp.lastPps ≠ some (s.ns / 1000000000) →
     ∃ t, exec .ppsOutPulse s = .next t ∧ t.emitted = s.emitted ++ [.pin .clkPpsOut true] ∧
       t.clp = { s.clp with ppsHigh := true, lastPps := some (s.ns / 1000000000) } ∧ s.changes [.emitted, .clp] t) ∧
   (∀ (s : State), s.clp.ppsHigh = true →
     ∃ t, exec .ppsOutPulseEnd s = .next t ∧ t.emitted = s.emitted ++ [.pin .clkPpsOut false] ∧
       t.clp = { s.clp with ppsHigh := false } ∧ s.changes [.emitted, .clp] t) ∧
   (∀ (s : State), s.clp.ppsHigh = true ∨ s.flag F.CLP_PPS_OUT_EN 0 0 = false ∨ 4 < s.ns % 1000000000 ∨
       s.clp.lastPps = some (s.ns / 1000000000) →
     exec .ppsOutPulse s = .next s))

/-- Barriers: an idle one is armed over pools of its partition when two entries are left, and an arm of any other is refused
with its code; a cancel, or its release time, releases an armed one, and a cancel of any other is ignored; one write of both
cancels first; the ramp begins at the first multiple of the period at or after; each group of the ramp may start in its time, once no
other entry goes before the ramp's, and the ramp's end leaves the barrier idle (R294, R298 to R300). -/
def Obligations.BarrierCommands : Prop :=
  (∀ (vf b value : Nat) (s : State), vf ≠ 0 → vf < 128 → b < 4 → s.fnOpen vf = true → bit value 1 = false →
    (s.fld F.CLP_BAR_STATE vf b ≠ 0 →
      ∃ t, exec (.clpBarArm vf b value) s = .next t ∧ t.fld F.CLP_BAR_RESULT vf b = 3 ∧ t.clp = s.clp ∧
        s.changesRegs [(.clpBarCtrl, vf, b)] t ∧ s.changes [.regs] t) ∧
    (s.fld F.CLP_BAR_STATE vf b = 0 → ∀ p, p < 64 → bit (s.fld F.CLP_BAR_POOLS vf b) p = true → s.nonLead p = false →
      s.owner p ≠ some (vf - 1) →
      ∃ t, exec (.clpBarArm vf b value) s = .next t ∧ t.fld F.CLP_BAR_RESULT vf b = 2 ∧ t.fld F.CLP_BAR_STATE vf b = 0 ∧
        t.clp = s.clp ∧ s.changes [.regs] t) ∧
    (s.fld F.CLP_BAR_STATE vf b = 0 →
      (∀ p, p < 64 → bit (s.fld F.CLP_BAR_POOLS vf b) p = true → s.nonLead p = true ∨ s.owner p = some (vf - 1)) →
      s.sevQuota (vf - 1) < s.sevUsed (vf - 1) + 2 ∨ 1024 < s.clp.sev.length + 2 →
      ∃ t, exec (.clpBarArm vf b value) s = .next t ∧ t.fld F.CLP_BAR_RESULT vf b = 1 ∧ t.fld F.CLP_BAR_STATE vf b = 0 ∧
        t.fld F.CLP_E_NOENTRY 0 0 = 1 ∧ t.clp = s.clp ∧ s.changes [.regs] t) ∧
    (s.fld F.CLP_BAR_STATE vf b = 0 →
      (∀ p, p < 64 → bit (s.fld F.CLP_BAR_POOLS vf b) p = true → s.nonLead p = true ∨ s.owner p = some (vf - 1)) →
      s.sevUsed (vf - 1) + 2 ≤ s.sevQuota (vf - 1) → s.clp.sev.length + 2 ≤ 1024 →
      ∃ t, exec (.clpBarArm vf b value) s = .next t ∧ t.fld F.CLP_BAR_RESULT vf b = 0 ∧ t.fld F.CLP_BAR_STATE vf b = 1 ∧
        (t.barrier (vf - 1) b).pools = s.fld F.CLP_BAR_POOLS vf b ∧ (t.barrier (vf - 1) b).open_ = [] ∧
        s.changes [.regs, .clp] t)) ∧
  (∀ (vf b value : Nat) (s : State) (c : Instr), vf ≠ 0 → s.fld F.CLP_BAR_STATE vf b = 1 →
    c = .clpBarCancel vf b value ∧ s.fnOpen vf = true ∧ bit value 0 = false ∨
    c = .barrierRelease vf b ∧ s.sevDue (s.barrier (vf - 1) b).release = true →
    ∃ t, exec c s = .next t ∧ t.fld F.CLP_BAR_STATE vf b = 2 ∧
      (t.barrier (vf - 1) b) = { s.barrier (vf - 1) b with start := (s.rampAt s.ns : Nat) } ∧
      s.rampAt s.ns % s.rampPeriod = 0 ∧ s.ns ≤ s.rampAt s.ns ∧ s.rampAt s.ns < s.ns + s.rampPeriod ∧
      ((s.barrier (vf - 1) b).release ≠ (s.barrier (vf - 1) b).ramp →
        sget {} t.clp.sev (s.barrier (vf - 1) b).release = sget {} s.clp.sev (s.barrier (vf - 1) b).release) ∧
      s.changesRegs [(.clpBarCtrl, vf, b)] t ∧ s.changes [.regs, .clp] t) ∧
  (∀ (vf b value : Nat) (s : State), s.fld F.CLP_BAR_STATE vf b ≠ 1 → bit value 0 = false →
    exec (.clpBarCancel vf b value) s = .next s) ∧
  (∀ (vf b value : Nat) (s : State) (c : Instr), vf ≠ 0 → vf < 128 → b < 4 → s.fnOpen vf = true →
    c = .clpBarCancel vf b value ∧ bit value 0 = true ∨ c = .clpBarArm vf b value ∧ bit value 1 = true →
    (s.fld F.CLP_BAR_STATE vf b = 0 → exec c s = exec (.clpBarArm vf b 0) s) ∧
    (s.fld F.CLP_BAR_STATE vf b ≠ 0 →
      ∃ u t, (s.fld F.CLP_BAR_STATE vf b = 1 → exec (.clpBarCancel vf b 0) s = .next u) ∧
        (s.fld F.CLP_BAR_STATE vf b ≠ 1 → u = s) ∧
        exec c s = .next t ∧ t.fld F.CLP_BAR_RESULT vf b = 3 ∧ t.clp = u.clp ∧
        t.fld F.CLP_BAR_STATE vf b = u.fld F.CLP_BAR_STATE vf b ∧
        u.changesRegs [(.clpBarCtrl, vf, b)] t ∧ u.changes [.regs] t)) ∧
  (∀ (vf b g : Nat) (s : State), vf ≠ 0 → s.fld F.CLP_BAR_STATE vf b = 2 → s.rampDue (vf - 1) b = true →
    (s.barrier (vf - 1) b).start + 40 * g ≤ (s.ns : Int) → g ∉ (s.barrier (vf - 1) b).open_ →
    ∃ t, exec (.rampGroupStart vf b g) s = .next t ∧
      t.barrier (vf - 1) b = { s.barrier (vf - 1) b with open_ := (s.barrier (vf - 1) b).open_ ++ [g] } ∧
      s.changes [.clp] t) ∧
  (∀ (vf b : Nat) (s : State), vf ≠ 0 → s.fld F.CLP_BAR_STATE vf b = 2 → s.rampDue (vf - 1) b = true →
    (s.barrier (vf - 1) b).start + s.rampPeriod ≤ (s.ns : Int) →
    ∃ t, exec (.rampEnd vf b) s = .next t ∧ t.fld F.CLP_BAR_STATE vf b = 0 ∧ t.barrier (vf - 1) b = {} ∧
      sget {} t.clp.sev (s.barrier (vf - 1) b).release = {} ∧ sget {} t.clp.sev (s.barrier (vf - 1) b).ramp = {} ∧
      s.changesRegs [(.clpBarCtrl, vf, b)] t ∧ s.changes [.regs, .clp] t)

/-- Counters: an armed snapshot acts when its entry is due, copying the counters to their shadows under its time, freezing
them or thawing them; the writes of PMC_CTRL do the same at once, or zero them; setting PMC_TAG_EN starts the tag counts
again (R301, R473, R474, R478). -/
def Obligations.CounterCommands : Prop :=
  (∀ (value : Nat) (s : State), s.flag F.CLP_SNAP_PENDING 0 0 = true →
    ∃ t, exec (.clpSnapArm value) s = .next t ∧ t.fld F.CLP_SNAP_RESULT 0 0 = 2 ∧ t.clp = s.clp ∧
      s.changesRegs [(.clpSnapCtrl, 0, 0)] t ∧ s.changes [.regs] t) ∧
  (∀ (value i : Nat) (s : State), s.flag F.CLP_SNAP_PENDING 0 0 = false → s.sevUsed 64 < s.sevQuota 64 →
    sfree {} s.clp.sev 0 1024 = some i →
    ∃ t, exec (.clpSnapArm value) s = .next t ∧ t.fld F.CLP_SNAP_RESULT 0 0 = 0 ∧ t.fld F.CLP_SNAP_PENDING 0 0 = 1 ∧
      sget {} t.clp.sev i
        = { time := s.fld F.CLP_SNAP_TIME 0 0, kind := 5, owner := 64, ref := bits value 2 1, aux := 0 } ∧
      s.changes [.regs, .clp] t) ∧
  (∀ (s : State) (i : Nat) (e : SevEnt), s.snapDue = some (i, e) →
    (e.ref = 0 ∨ e.ref = 3 →
      ∃ t, exec .counterSnapshot s = .next t ∧ t.fld F.CLP_SNAP_PENDING 0 0 = 0 ∧ sget {} t.clp.sev i = {} ∧
        t.fld F.PMC_SNAP_STAMP 0 0 = e.time % 2 ^ 64 ∧
        t.pmc = { s.pmc with genSh := s.pmc.gen, portSh := s.pmc.port, cellSh := s.pmc.cell } ∧
        s.changes [.regs, .pmc, .clp] t) ∧
    (e.ref = 1 →
      ∃ t, exec .counterFreeze s = .next t ∧ t.fld F.CLP_SNAP_PENDING 0 0 = 0 ∧ sget {} t.clp.sev i = {} ∧
        t.fld F.PMC_FROZEN 0 0 = 1 ∧ s.changes [.regs, .clp] t) ∧
    (e.ref = 2 →
      ∃ t, exec .counterThaw s = .next t ∧ t.fld F.CLP_SNAP_PENDING 0 0 = 0 ∧ sget {} t.clp.sev i = {} ∧
        t.fld F.PMC_FROZEN 0 0 = 0 ∧ s.changes [.regs, .clp] t)) ∧
  (∀ (s : State),
    (∃ t, exec .pmcSnapNow s = .next t ∧ t.fld F.PMC_SNAP_STAMP 0 0 = s.ns ∧
      t.fld F.PMC_SNAP_SEQ 0 0 = (s.fld F.PMC_SNAP_SEQ 0 0 + 1) % 2 ^ 16 ∧
      t.pmc = { s.pmc with genSh := s.pmc.gen, portSh := s.pmc.port, cellSh := s.pmc.cell } ∧
      s.changesRegs [(.pmcCtrl, 0, 0), (.pmcSnapStamp, 0, 0)] t ∧ s.changes [.regs, .pmc] t) ∧
    (∃ t, exec .pmcFreezeNow s = .next t ∧ t.fld F.PMC_FROZEN 0 0 = 1 ∧ s.changesRegs [(.pmcCtrl, 0, 0)] t ∧
      s.changes [.regs] t ∧ ∀ code unit parts n, (t.count code unit parts n).pmc = t.pmc) ∧
    (∃ t, exec .pmcThawNow s = .next t ∧ t.fld F.PMC_FROZEN 0 0 = 0 ∧ s.changesRegs [(.pmcCtrl, 0, 0)] t ∧
      s.changes [.regs] t) ∧
    (∃ t, exec .pmcClear s = .next t ∧ t.pmc = { s.pmc with
        gen := [], genSh := [], port := [], portSh := [], cell := [], cellSh := [] } ∧ s.changes [.pmc] t)) ∧
  (∀ (value : Nat) (s : State), s.flag F.PMC_TAG_EN 0 0 = false →
    ∃ t, exec (.pmcTagEn value) s = .next t ∧ t.fld F.PMC_TAG_EN 0 0 = 1 ∧ t.fld F.PMC_TAG_RATE 0 0 = bits value 12 8 ∧
      t.fld F.PMC_TAG_LOG2 0 0 = bits value 19 16 ∧ t.que.woCount = 0 ∧ t.pmc.tileCount = [] ∧
      s.changesRegs [(.pmcTagCtrl, 0, 0)] t ∧ s.changes [.regs, .que, .pmc] t)

/-! ### Rings, doorbells and interrupts -/

/-- A tail and a head that a doorbell may give to an enabled ring that runs, or is STALE (R319, R321). -/
def Sys2Proof.Machine.State.bellFits (s : State) (fn r tail head : Nat) : Prop :=
  r < 16 ∧ fn < 128 ∧ s.stopped = false ∧ s.ringEn fn r = true ∧ (s.ringState fn r = 1 ∨ s.ringState fn r = 2) ∧
  diff16 tail (s.fld F.QUE_RING_HEAD fn r) ≤ s.ringSize fn r ∧
  beyond16 head (s.ring fn r).cqNext = false

/-- Ring `r` took the doorbell: its tail and its completion head are those given, and it runs. -/
def Sys2Proof.Machine.State.bellTaken (s t : State) (fn r tail head : Nat) : Prop :=
  t.fld F.QUE_RING_TAIL fn r = tail ∧ (t.ring fn r).cqHead = head ∧ t.ringState fn r = 1 ∧
  t.fld F.QUE_RING_HEAD fn r = s.fld F.QUE_RING_HEAD fn r ∧
  s.changesRegs [(.queRingIdx, fn, r), (.queRingCtrl, fn, r)] t ∧ s.changes [.emitted, .regs, .que] t

/-- Doorbells: a write of an enabled ring's doorbell register in MMIO mode acts as a doorbell line of that content, and is
ignored for a disabled ring and in line mode; a line that arrives acts by its first four bytes; a doorbell that fits moves the
ring's tail and completion head and lets a STALE ring run again; one out of range, or a line that cannot be read, puts the ring in
ERROR, and a line for a ring that has been disabled is given up; the event queue's moves its head. A snoop is always answered:
SnpInv takes a held line away, which is asked for again, and SnpData and SnpCur leave it Shared (R316 to R319, R321; log entry 39
for the answers). -/
def Obligations.Doorbells : Prop :=
  (∀ (fn ring value : Nat) (s : State), s.fnOpen fn = true → s.ringEn fn ring = true → s.ringMmio fn ring = true →
    (ring < 16 → exec (.queDb fn ring value) s = .next (s.bell fn ring (bits value 15 0) (bits value 31 16))) ∧
    (ring = 16 → ∀ tail, exec (.queEqDb fn value) s = .next (s.bell fn 16 tail (bits value 31 16)))) ∧
  (∀ (fn ring : Nat) (low high : List Byte) (s : State), (s.ring fn ring).lineReading = true → s.ringEn fn ring = true →
    exec (.doorbellLineRead fn ring low high true) s = .next (State.bell
      (s.setRing fn ring { s.ring fn ring with lineHeld := true, lineReading := false }) fn ring (leAt (low ++ high) 0 2)
      (leAt (low ++ high) 2 2))) ∧
  (∀ (fn ring : Nat) (low high : List Byte) (ok : Bool) (s : State), (s.ring fn ring).lineReading = true →
    s.ringEn fn ring = false →
    ∃ t, exec (.doorbellLineRead fn ring low high ok) s = .next t ∧
      t.ring fn ring = { s.ring fn ring with lineReading := false } ∧
      t.emitted = s.emitted ++ (if ok then [.cxl fn ring (s.lineAddr fn ring) .cleanEvict] else []) ∧
      s.changes [.emitted, .que] t) ∧
  (∀ (fn ring value : Nat) (s : State), s.fnOpen fn = false ∨ s.ringEn fn ring = false ∨ s.ringMmio fn ring = false →
    exec (.queDb fn ring value) s = .next s ∧ (ring = 16 → exec (.queEqDb fn value) s = .next s)) ∧
  (∀ (fn ring value : Nat) (s : State), s.fnOpen fn = true → s.ringMmio fn ring = true →
    s.bellFits fn ring (bits value 15 0) (bits value 31 16) →
    ∃ t, exec (.queDb fn ring value) s = .next t ∧ s.bellTaken t fn ring (bits value 15 0) (bits value 31 16)) ∧
  (∀ (fn ring value : Nat) (s : State), fn < 65 → ring < 16 → s.stopped = false → s.fnOpen fn = true →
    s.ringEn fn ring = true → s.ringMmio fn ring = true → s.ringState fn ring = 1 ∨ s.ringState fn ring = 2 →
    s.ringSize fn ring < diff16 (bits value 15 0) (s.fld F.QUE_RING_HEAD fn ring) ∨
      beyond16 (bits value 31 16) (s.ring fn ring).cqNext = true →
    ∃ t, exec (.queDb fn ring value) s = .next t ∧ t.ringState fn ring = 3 ∧ t.fld F.QUE_E_RING fn 0 = 1 ∧
      s.changes [.emitted, .regs, .prt, .que, .pmc] t) ∧
  (∀ (fn ring : Nat) (low high : List Byte) (s : State), (s.ring fn ring).lineReading = true →
    s.bellFits fn ring (leAt (low ++ high) 0 2) (leAt (low ++ high) 2 2) →
    ∃ t, exec (.doorbellLineRead fn ring low high true) s = .next t ∧
      s.bellTaken t fn ring (leAt (low ++ high) 0 2) (leAt (low ++ high) 2 2) ∧ (t.ring fn ring).lineHeld = true ∧
      (t.ring fn ring).lineReading = false) ∧
  (∀ (fn ring : Nat) (low high : List Byte) (s : State), fn < 65 → ring < 16 → (s.ring fn ring).lineReading = true →
    s.ringEn fn ring = true →
    ∃ t, exec (.doorbellLineRead fn ring low high false) s = .next t ∧ t.ringState fn ring = 3 ∧
      (t.ring fn ring).lineReading = false) ∧
  (∀ (fn value : Nat) (s : State), s.fnOpen fn = true → s.flag F.QUE_EQ_EN fn 0 = true → s.fld F.QUE_EQ_STATE fn 0 = 1 →
    s.flag F.QUE_EQ_DBMMIO fn 0 = true → beyond16 (bits value 31 16) (s.fld F.QUE_EQ_TAIL fn 0) = false →
    ∃ t, exec (.queEqDb fn value) s = .next t ∧ t.fld F.QUE_EQ_HEAD fn 0 = bits value 31 16 ∧
      t.fld F.QUE_EQ_TAIL fn 0 = s.fld F.QUE_EQ_TAIL fn 0 ∧ s.changesRegs [(.queEqIdx, fn, 0)] t ∧ s.changes [.regs] t) ∧
  (∀ (fn ring : Nat) (k : Snoop) (s : State),
    ((s.ring fn ring).lineHeld = true → k = .inv →
      ∃ t, exec (.doorbellSnoop fn ⟨ring, k⟩) s = .next t ∧
        t.ring fn ring = { s.ring fn ring with lineHeld := false, lineReading := true } ∧
        t.emitted = s.emitted ++ [.cxl fn ring (s.lineAddr fn ring) (.snoopAnswer false)] ++
          [.cxl fn ring (s.lineAddr fn ring) .rdShared] ∧ s.changes [.emitted, .que] t) ∧
    ((s.ring fn ring).lineHeld = true → k ≠ .inv →
      ∃ t, exec (.doorbellSnoop fn ⟨ring, k⟩) s = .next t ∧
        t.emitted = s.emitted ++ [.cxl fn ring (s.lineAddr fn ring) (.snoopAnswer true)] ∧ s.changes [.emitted] t) ∧
    ((s.ring fn ring).lineHeld = false →
      ∃ t, exec (.doorbellSnoop fn ⟨ring, k⟩) s = .next t ∧
        t.emitted = s.emitted ++ [.cxl fn ring (s.lineAddr fn ring) (.snoopAnswer false)] ∧ s.changes [.emitted] t))

/-- The descriptor `f` stands at the dispatch index of an enabled, running ring, visible, with nothing before it that its fence
waits for (R309 to R311). -/
def Sys2Proof.Machine.State.atHead (s : State) (fn ring : Nat) (f : Fetched) : Prop :=
  fn < 65 ∧ ring < 16 ∧ s.stopped = false ∧ s.ringLive fn ring = true ∧ s.fetchHeld fn = false ∧ s.fnOpen fn = true ∧
  (s.ring fn ring).fetched.find? (fun x => x.idx = s.fld F.QUE_RING_HEAD fn ring && x.visible) = some f ∧
  ((qdOf f.bytes).fence = true → (s.ring fn ring).inflight = [])

/-- `f` has left its ring: the dispatch index is past it. -/
def Sys2Proof.Machine.State.leftRing (t : State) (fn ring : Nat) (f : Fetched) : Prop :=
  t.fld F.QUE_RING_HEAD fn ring = (f.idx + 1) % 2 ^ 16 ∧ ∀ x ∈ (t.ring fn ring).fetched, x.idx ≠ f.idx

/-- The read of index `idx` of an enabled ring that runs, or is STALE, is under way. -/
def Sys2Proof.Machine.State.awaits (s : State) (fn ring idx : Nat) : Prop :=
  s.stopped = false ∧ s.ringEn fn ring = true ∧ (s.ringState fn ring = 1 ∨ s.ringState fn ring = 2) ∧
  idx ∈ (s.ring fn ring).reading

/-- Descriptor reads: one whose stamp is its index becomes visible, and a work order that is before its time takes its entry of the
table of scheduled events as it is fetched, or is marked as refused one; one that is not visible is kept as such, and is read again;
the eighth re-read in vain makes the ring STALE; a read that fails puts it in ERROR (R293, R295, R308, R310, R319, R320). Dispatch: a
descriptor refused, of kind NOP, or without its entry, leaves its ring; a work order for a pool of the partition joins the inbox while
there is room, and stays while there is none or its entry has not fired; a CASCADE_POST or AQUEDUCT_POST goes to its unit; the entry
that fires releases the order at the dispatch index (R294, R295, R309 to R312, R315). -/
def Obligations.DescriptorsReadAndDispatched : Prop :=
  ((∀ (fn ring idx : Nat) (bytes : List Byte) (s : State), s.awaits fn ring idx → leAt (fit 64 bytes) 0 2 = idx →
     ((qdOf (fit 64 bytes)).kind ≠ 1 ∨ (qdOf (fit 64 bytes)).notBefore ≤ s.ns ∨ (s.refusal fn (fit 64 bytes)).isSome = true →
       ∃ t f, exec (.descriptorReadData fn ring idx bytes true) s = .next t ∧ f ∈ (t.ring fn ring).fetched ∧ f.idx = idx ∧
         f.bytes = fit 64 bytes ∧ f.visible = true ∧ f.entry = none ∧ f.noEntry = false ∧ idx ∉ (t.ring fn ring).reading ∧
         s.changes [.que] t) ∧
     (∀ s1 i, (qdOf (fit 64 bytes)).kind = 1 → s.ns < (qdOf (fit 64 bytes)).notBefore → s.refusal fn (fit 64 bytes) = none →
       s.sevTake (fn - 1) { time := (qdOf (fit 64 bytes)).notBefore, kind := 1, ref := ring, aux := idx } = (s1, i) →
       ∃ t f, exec (.descriptorReadData fn ring idx bytes true) s = .next t ∧ f ∈ (t.ring fn ring).fetched ∧ f.idx = idx ∧
         f.bytes = fit 64 bytes ∧ f.visible = true ∧ f.entry = i ∧ f.noEntry = i.isNone ∧ t.clp = s1.clp ∧
         idx ∉ (t.ring fn ring).reading ∧ s.changes [.regs, .que, .clp] t)) ∧
   (∀ (fn ring idx : Nat) (bytes : List Byte) (s : State), s.awaits fn ring idx → leAt (fit 64 bytes) 0 2 ≠ idx →
     ((s.ring fn ring).fetched.any fun f => f.idx = idx) = false ∨ s.ringState fn ring = 2 →
     ∃ t f, exec (.descriptorReadData fn ring idx bytes true) s = .next t ∧ f ∈ (t.ring fn ring).fetched ∧ f.idx = idx ∧
       f.bytes = fit 64 bytes ∧ f.visible = false ∧ s.changes [.que] t) ∧
   (∀ (fn ring idx : Nat) (bytes : List Byte) (s : State), fn < 65 → ring < 16 → s.awaits fn ring idx →
     ∃ t, exec (.descriptorReadData fn ring idx bytes false) s = .next t ∧ t.ringState fn ring = 3) ∧
   (∀ (fn ring idx : Nat) (bytes : List Byte) (s : State), fn < 65 → ring < 16 → s.awaits fn ring idx →
     s.ringState fn ring = 1 → leAt (fit 64 bytes) 0 2 ≠ idx →
     ((s.ring fn ring).fetched.any fun f => f.idx = idx) = true → 7 ≤ (s.ring fn ring).stale →
     ∃ t, exec (.descriptorReadData fn ring idx bytes true) s = .next t ∧ t.ringState fn ring = 2 ∧
       t.fld F.QUE_E_STALE fn 0 = 1) ∧
   (∀ (fn ring : Nat) (s : State), s.stopped = false → s.ringLive fn ring = true → (s.ring fn ring).rereads < 8 →
     ((s.ring fn ring).fetched.any fun f => f.idx = s.fld F.QUE_RING_HEAD fn ring && !f.visible) = true →
     ∃ t e, exec (.descriptorReread fn ring) s = .next t ∧ t.emitted = s.emitted ++ [e] ∧
       (e = .hostRead (s.slotAddr fn ring (s.fld F.QUE_RING_HEAD fn ring)) 64 true ∨
         ∃ x, e = .tbit x (.hostRead (s.slotAddr fn ring (s.fld F.QUE_RING_HEAD fn ring)) 64 true)) ∧
       (t.ring fn ring).rereads = (s.ring fn ring).rereads + 1 ∧
       (t.ring fn ring).reading = (s.ring fn ring).reading ++ [s.fld F.QUE_RING_HEAD fn ring] ∧
       s.changes [.emitted, .que, .pmc] t)) ∧
  ((∀ (fn ring : Nat) (env : Env) (s : State) (f : Fetched), s.atHead fn ring f →
     ((s.refusal fn f.bytes).isSome = true ∨ (qdOf f.bytes).kind = 0 ∨
         (qdOf f.bytes).kind = 1 ∧ f.entry = none ∧ f.noEntry = true →
       ∃ t, exec (.descriptorDispatch fn ring env) s = .next t ∧ t.leftRing fn ring f ∧ t.pool = s.pool ∧ t.mem = s.mem) ∧
     (s.refusal fn f.bytes = none → (qdOf f.bytes).kind = 2 ∨ (qdOf f.bytes).kind = 3 →
       ∃ t, exec (.descriptorDispatch fn ring env) s = .next t ∧ t.leftRing fn ring f ∧
         ((qdOf f.bytes).kind = 2 → t = ((s.take fn ring f).casPost env (fn - 1)
           (ticketOf fn ring f (s.ring fn ring).tailAt) (qdOf f.bytes).body).fetch fn ring) ∧
         ((qdOf f.bytes).kind = 3 → t = ((s.take fn ring f).aqdDispatch env
           (ticketOf fn ring f (s.ring fn ring).tailAt) (qdOf f.bytes).body).fetch fn ring)) ∧
     (s.refusal fn f.bytes = none → (qdOf f.bytes).kind = 1 →
       f.entry.isSome = true ∨ f.noEntry = false ∧ s.workRoom fn (qdOf f.bytes) = false →
       exec (.descriptorDispatch fn ring env) s = .next s)) ∧
   (∀ (fn ring : Nat) (env : Env) (s : State) (f : Fetched), s.atHead fn ring f → s.refusal fn f.bytes = none →
     (qdOf f.bytes).kind = 1 → f.entry = none → f.noEntry = false → s.workRoom fn (qdOf f.bytes) = true →
     s.isGuestWork fn (qdOf f.bytes) = false →
     ∃ t w, exec (.descriptorDispatch fn ring env) s = .next t ∧ t.leftRing fn ring f ∧
       (t.poolSt (s.leadOf (qdOf f.bytes).target)).inbox = (s.poolSt (s.leadOf (qdOf f.bytes).target)).inbox ++ [w] ∧
       w.bytes = f.bytes ∧ w.ticket.fn = fn ∧ w.ticket.ring = ring ∧ w.ticket.idx = f.idx) ∧
   (∀ (i ring : Nat) (env : Env) (s : State) (f : Fetched), (sget {} s.clp.sev i).kind = 1 → s.sevDue i = true →
     (sget {} s.clp.sev i).ref = ring → s.atHead ((sget {} s.clp.sev i).owner + 1) ring f → f.entry = some i →
     f.noEntry = false → s.refusal ((sget {} s.clp.sev i).owner + 1) f.bytes = none → (qdOf f.bytes).kind = 1 →
     s.isGuestWork ((sget {} s.clp.sev i).owner + 1) (qdOf f.bytes) = false →
     s.workRoom ((sget {} s.clp.sev i).owner + 1) (qdOf f.bytes) = true →
     ∃ t w, exec (.notBeforeRelease i env) s = .next t ∧ sget {} t.clp.sev i = {} ∧
       t.leftRing ((sget {} s.clp.sev i).owner + 1) ring f ∧
       (t.poolSt (s.leadOf (qdOf f.bytes).target)).inbox = (s.poolSt (s.leadOf (qdOf f.bytes).target)).inbox ++ [w] ∧
       w.bytes = f.bytes))

/-- A completion writes its 32 bytes at the next place of the completion ring, with the phase of the lap, and moves that
place on; nothing of it reaches device memory (R313, R314). Rings are enabled from DISABLED with both indices at zero, and in line
mode ask for their doorbell line; an enable of a ring below 64 entries fails; a disabled ring gives its line up and is in state 0 once
nothing is in flight; a moderated or masked message is sent, with its table entry's address and data, when its time or its unmasking
comes; a peer's write goes through the window's entry or sets QUE_E_P2P, a peer's read is unsupported, and either without the T bit
sets SEC_E_TEE while the interface runs (R306, R317, R319, R328, R329, R331, R401). -/
def Obligations.CompletionsInterruptsAndPeers : Prop :=
  (∀ (s : State) (env : Env) (k : Ticket) (cls status info : Nat), k.fn < 65 → k.ring < 16 → s.stopped = false →
     s.recordsOff k.fn = false → (s.ring k.fn k.ring).cqDead = false → (k.fn = 0 ∨ s.tdi (k.fn - 1) ≠ 2) →
     (s.fld F.QUE_RING_CQ_BUS k.fn k.ring * 4096
       + 32 * ((s.ring k.fn k.ring).cqNext % 2 ^ s.fld F.QUE_RING_LOG2 k.fn k.ring)) / 64 ∉ env.hostFail →
     ∃ rest, (s.complete env k cls status info).emitted = s.emitted ++
         .hostWrite (s.fld F.QUE_RING_CQ_BUS k.fn k.ring * 4096
             + 32 * ((s.ring k.fn k.ring).cqNext % 2 ^ s.fld F.QUE_RING_LOG2 k.fn k.ring))
           (completionRecord k (s.fld F.QUE_RING_HEAD k.fn k.ring) cls status
             (phaseBit (s.ring k.fn k.ring).cqNext (s.fld F.QUE_RING_LOG2 k.fn k.ring)) (s.winEpoch 0) (s.winEpoch 1) info
             s.ns) false :: rest ∧
       ((s.complete env k cls status info).ring k.fn k.ring).cqNext = ((s.ring k.fn k.ring).cqNext + 1) % 65536 ∧
       ((s.complete env k cls status info).ring k.fn k.ring).inflight = (s.ring k.fn k.ring).inflight.erase k.idx ∧
       (s.complete env k cls status info).mem = s.mem) ∧
  ((∀ (fn ring value : Nat) (env : Env) (s : State), fn < 128 → ring < 16 → s.fnOpen fn = true →
     s.flag F.QUE_RING_EN fn ring = false → s.fld F.QUE_RING_STATE fn ring = 0 →
     (6 ≤ bits value 27 24 →
       bit value 8 = true ∨ s.flag F.QUE_CXL_CACHE 0 0 = true ∧ (fn = 0 ∨ s.tdi (fn - 1) ≠ 2) →
       ∃ t, exec (.queRingEnable fn ring value env) s = .next t ∧ t.fld F.QUE_RING_EN fn ring = 1 ∧
         t.fld F.QUE_RING_STATE fn ring = 1 ∧ t.fld F.QUE_RING_LOG2 fn ring = bits value 27 24 ∧
         t.regN .queRingIdx fn ring = 0 ∧
         t.ring fn ring = { lineReading := !bit value 8, lost := (s.ring fn ring).lost } ∧
         t.emitted = s.emitted ++ (if bit value 8 || (s.ring fn ring).lineReading then []
           else [.cxl fn ring (s.lineAddr fn ring) .rdShared]) ∧
         s.changesRegs [(.queRingCtrl, fn, ring), (.queRingIdx, fn, ring)] t ∧ s.changes [.emitted, .regs, .que] t) ∧
     (bits value 27 24 < 6 →
       ∃ t, exec (.queRingEnable fn ring value env) s = .next t ∧ t.fld F.QUE_RING_EN fn ring = 0 ∧
         t.fld F.QUE_RING_STATE fn ring = 0 ∧ t.fld F.QUE_E_RING fn 0 = 1 ∧ s.changes [.regs] t)) ∧
   (∀ (fn ring value : Nat) (env : Env) (s : State), fn < 128 → ring < 16 → s.fnOpen fn = true →
     s.flag F.QUE_RING_EN fn ring = true → (s.ring fn ring).fetched = [] →
     ∃ t, exec (.queRingDisable fn ring value env) s = .next t ∧ t.fld F.QUE_RING_EN fn ring = 0 ∧
       t.fld F.QUE_RING_STATE fn ring = (if (s.ring fn ring).inflight = [] then 0 else s.fld F.QUE_RING_STATE fn ring) ∧
       t.emitted = s.emitted ++ (if (s.ring fn ring).lineHeld then [.cxl fn ring (s.lineAddr fn ring) .cleanEvict] else []) ∧
       (t.ring fn ring).lineHeld = false ∧
       s.changesRegs [(.queRingCtrl, fn, ring)] t ∧ s.changes [.emitted, .regs, .que] t) ∧
   (∀ (fn vec : Nat) (s : State), (s.vec fn vec).timer = true → s.silent fn = false →
     (s.flag F.MSIX_MASK fn vec = false → s.msixOn fn = true →
       ∃ t, exec (.msixModerationTimer fn vec) s = .next t ∧
         t.emitted = s.emitted ++ [.msix fn vec (s.fld F.MSIX_ADDR fn vec) (s.fld F.MSIX_DATA fn vec)] ∧ t.vec fn vec = {} ∧
         s.changes [.emitted, .que, .pmc] t) ∧
     (s.flag F.MSIX_MASK fn vec = true ∨ s.msixOn fn = false → fn < 128 → vec < 64 →
       ∃ t, exec (.msixModerationTimer fn vec) s = .next t ∧ bit (t.regN .msixPba fn 0) vec = true ∧ t.vec fn vec = {} ∧
         s.changesRegs [(.msixPba, fn, 0)] t ∧ s.changes [.regs, .que] t)) ∧
   (∀ (fn vec : Nat) (s : State), fn < 128 → vec < 64 → s.fnOpen fn = true → s.silent fn = false →
     (bit (s.regN .msixPba fn 0) vec = true → s.msixOn fn = true →
       ∃ t, exec (.msixUnmask fn vec) s = .next t ∧
         t.emitted = s.emitted ++ [.msix fn vec (s.fld F.MSIX_ADDR fn vec) (s.fld F.MSIX_DATA fn vec)] ∧
         t.fld F.MSIX_MASK fn vec = 0 ∧ t.regN .msixPba fn 0 = s.regN .msixPba fn 0 - 2 ^ vec ∧
         s.changesRegs [(.msixCtrl, fn, vec), (.msixPba, fn, 0)] t ∧ s.changes [.emitted, .regs, .pmc] t) ∧
     (bit (s.regN .msixPba fn 0) vec = false ∨ s.msixOn fn = false →
       ∃ t, exec (.msixUnmask fn vec) s = .next t ∧ t.fld F.MSIX_MASK fn vec = 0 ∧
         s.changesRegs [(.msixCtrl, fn, vec)] t ∧ s.changes [.regs] t)) ∧
   (∀ (vf off rid : Nat) (bytes : List Byte) (env : Env) (s : State), s.teeRefused vf env.tee = false →
     (s.p2pEntry vf off rid = none →
       ∃ t, exec (.p2pWrite vf off rid bytes env) s = .next t ∧ t.fld F.QUE_E_P2P vf 0 = 1 ∧ s.changes [.regs] t) ∧
     (∀ va, s.p2pEntry vf off rid = some va → s.stopped = false →
       ∃ t, exec (.p2pWrite vf off rid bytes env) s = .next t ∧
         t.mem = (s.writeVa env (otherRq (vf - 1) .plinth) va bytes).1.mem ∧
         ((s.writeVa env (otherRq (vf - 1) .plinth) va bytes).2 = .okay →
           t = (s.writeVa env (otherRq (vf - 1) .plinth) va bytes).1) ∧
         ((s.writeVa env (otherRq (vf - 1) .plinth) va bytes).2 ≠ .okay → t.fld F.QUE_E_P2P vf 0 = 1))) ∧
   (∀ (vf off rid : Nat) (bytes : List Byte) (env : Env) (s : State), s.teeRefused vf env.tee = true →
     ∃ t, exec (.p2pWrite vf off rid bytes env) s = .next t ∧ t.fld F.SEC_E_TEE 0 0 = 1 ∧ s.changes [.regs] t) ∧
   (∀ (vf off : Nat) (tee : Bool) (s : State),
     ∃ t, exec (.p2pRead vf off tee) s = .next t ∧ t.emitted = s.emitted ++ [.unsupported vf off] ∧
       (s.teeRefused vf tee = true → t.fld F.SEC_E_TEE 0 0 = 1) ∧
       (s.teeRefused vf tee = false → s.changes [.emitted] t) ∧ s.changes [.emitted, .regs] t))

/-! ### The DMA engine -/

/-- DMA channels: a sound programme starts with the registers of that moment; a rejected one completes MALFORMED at once; GO
of a busy channel is an error and nothing else; an abort stops it from issuing. A channel issues only in its turn, and the next turn
is looked for behind it: a fill, a copy or a compare moves past the elements of its burst, or ends with the status of the earliest
failure or of the first element that differs; a load puts one tile into every selected cell. At its completion the channel writes its
record, shows its status, and asks the pool's core for its interrupt where it is the owner's (R336 to R345). -/
def Obligations.DmaTransfers : Prop :=
  (∀ (p ch part : Nat) (guest : Bool) (env : Env) (s : State), p < 64 → part < 64 → s.stopped = false →
    s.dmaOpen p ch = true → s.dmaOwner p ch = some (part, guest) →
    (s.dmaRun p ch = none → s.dmaBad p (s.dmaRegs p ch part guest) = false →
      ∃ t, exec (.dmaGo p ch env) s = .next t ∧ t.dmaRun p ch = some (s.dmaRegs p ch part guest) ∧
        t.fld F.DMA_BUSY 0 (dmaKey p ch) = 1 ∧ s.changesRegs [(.dmaChCtrl, 0, dmaKey p ch)] t ∧ s.changes [.regs, .dma] t) ∧
    (s.dmaRun p ch = none → s.dmaBad p (s.dmaRegs p ch part guest) = true →
      ∃ t, exec (.dmaGo p ch env) s = .next t ∧ t.dmaRun p ch = none ∧ t.fld F.DMA_BUSY 0 (dmaKey p ch) = 0 ∧
        t.fld F.DMA_LAST_STATUS 0 (dmaKey p ch) = 1 ∧ t.fld F.DMA_E_MALFORMED 0 0 = 1 ∧ t.cell = s.cell ∧
        s.changes [.emitted, .free, .regs, .mem, .prt, .memc, .que, .pmc, .dma, .sec] t) ∧
    (∀ r, s.dmaRun p ch = some r →
      (∃ t, exec (.dmaGo p ch env) s = .next t ∧ t.fld F.DMA_E_CHAN 0 0 = 1 ∧ s.changes [.regs] t) ∧
      (r.status = 0 → r.idx < r.total →
        ∃ t, exec (.dmaAbort p ch env) s = .next t ∧ t.dmaRun p ch = some { r with status := 2 } ∧ s.changes [.dma] t)) ∧
    (s.dmaRun p ch = none → exec (.dmaAbort p ch env) s = .next s)) ∧
  (∀ (p ch : Nat) (env : Env) (s : State), s.dmaTurn p ≠ some ch → exec (.dmaBurst p ch env) s = .next s) ∧
  (∀ (p ch : Nat) (env : Env) (s : State) (r : DmaRun), s.stopped = false → s.dmaRun p ch = some r → s.dmaTurn p = some ch →
    ∃ t, exec (.dmaBurst p ch env) s = .next t ∧ sget 0 t.dma.turn p = (ch + 1) % 8 ∧
      s.changes [.emitted, .free, .regs, .mem, .prt, .memc, .que, .pmc, .cell, .tam, .dma, .sec] t) ∧
  (∀ (p ch : Nat) (env : Env) (s s0 s1 : State) (r : DmaRun) (n va : Nat) (d : List Byte) (bad : Option (Nat × Resp)),
    s.stopped = false → s.dmaRun p ch = some r → s.dmaTurn p = some ch → s0 = s.dmaServed p ch →
    n = r.burstLen r.idx 1 255 → va = vaOf (r.dAddr r.idx) →
    (r.mode = 1 ∧ bad = none ∧ s1 = s0 ∧ d = ((upFrom 0 n).flatMap fun _ => toLe r.e r.fill) ∨
      r.mode = 0 ∧ ∃ sd l, s0.readResps env (dmaRq p r.part) (vaOf (r.sAddr r.idx)) (n * r.e) = (s1, sd, l) ∧
        bad = firstBad l r.e n ∧ d = sd.take (((bad.map (·.1)).getD n) * r.e)) →
    (∀ s2, s1.writeResps env (dmaRq p r.part) va d (va / 64 * 64) (unitsOf va d.length) = (s2, none) →
      ∃ t, exec (.dmaBurst p ch env) s = .next t ∧
        t.dmaRun p ch = some { r with
          idx := r.idx + (bad.map (·.1)).getD n, status := (bad.map fun x => dmaStatus x.2).getD 0 } ∧ t.mem = s2.mem) ∧
    (∀ s2 o w, s1.writeResps env (dmaRq p r.part) va d (va / 64 * 64) (unitsOf va d.length) = (s2, some (o, w)) →
      ∃ t, exec (.dmaBurst p ch env) s = .next t ∧
        t.dmaRun p ch = some { r with idx := r.idx + o / r.e, status := dmaStatus w } ∧ t.mem = s2.mem)) ∧
  (∀ (p ch : Nat) (env : Env) (s s1 s2 : State) (r : DmaRun) (n m : Nat) (sd dd : List Byte) (sr dr : List Resp),
    s.stopped = false → s.dmaRun p ch = some r → s.dmaTurn p = some ch → r.mode = 2 → n = r.burstLen r.idx 1 255 →
    (s.dmaServed p ch).readResps env (dmaRq p r.part) (vaOf (r.sAddr r.idx)) (n * r.e) = (s1, sd, sr) →
    s1.readResps env (dmaRq p r.part) (vaOf (r.dAddr r.idx)) (n * r.e) = (s2, dd, dr) → m ≤ n →
    (∀ k, k < m → (elemResp sr r.e k).join (elemResp dr r.e k) = .okay ∧ slice sd (k * r.e) r.e = slice dd (k * r.e) r.e) →
    ∃ t, exec (.dmaBurst p ch env) s = .next t ∧ t.mem = s2.mem ∧
      (m = n → t.dmaRun p ch = some { r with idx := r.idx + n, status := 0 }) ∧
      (m < n → (elemResp sr r.e m).join (elemResp dr r.e m) = .okay → slice sd (m * r.e) r.e ≠ slice dd (m * r.e) r.e →
        t.dmaRun p ch = some { r with idx := r.idx + m, status := 3 }) ∧
      (m < n → (elemResp sr r.e m).join (elemResp dr r.e m) ≠ .okay →
        t.dmaRun p ch = some { r with
          idx := r.idx + m, status := dmaStatus ((elemResp sr r.e m).join (elemResp dr r.e m)) })) ∧
  (∀ (p ch i j : Nat) (env : Env) (s s1 : State) (r : DmaRun) (w : Resp) (x : LoadTile), s.stopped = false →
    s.dmaRun p ch = some r → s.dmaTurn p = some ch → r.mode = 3 → i = r.idx / r.n 0 → j = r.idx % r.n 0 →
    (r.rowMajor = true ∧ (∃ ws, (s.dmaServed p ch).loadRows env p r i j = (s1, w, ws) ∧ x = convertTile r ws) ∨
      r.rowMajor = false ∧ ∃ s0 w1 w2 d e,
        (s.dmaServed p ch).readVa env (cellRq p r.part)
          (vaOf ((r.src : Int) + (i : Int) * r.ss.getD 1 0 + (j : Int) * r.ss.getD 0 0)) 256 = (s0, w1, d) ∧
        s0.readVa env (cellRq p r.part) (vaOf ((r.scl : Int) + (i : Int) * r.sclStep + 8 * (j : Int))) 8 = (s1, w2, e) ∧
        w = w1.join w2 ∧ x = ⟨d, some e, none⟩) →
    (w = .okay →
      ∃ t, exec (.dmaBurst p ch env) s = .next t ∧ t.dmaRun p ch = some { r with idx := r.idx + 1, status := 0 } ∧
        t.cell = (((upFrom 0 64).filter fun m => bit r.cells m).foldl
          (fun (y : State) m => y.loadPut r ((s.engine p).1 + m) i j x) s1).cell ∧ t.mem = s1.mem) ∧
    (w ≠ .okay →
      ∃ t, exec (.dmaBurst p ch env) s = .next t ∧ t.dmaRun p ch = some { r with status := dmaStatus w } ∧
        t.cell = s.cell ∧ t.mem = s1.mem)) ∧
  (∀ (p ch : Nat) (env : Env) (s s1 : State) (r : DmaRun), p < 64 → ch < 8 → r.part < 64 → s.stopped = false →
    s.dmaRun p ch = some r → r.status ≠ 0 ∨ r.total ≤ r.idx →
    s1 = (if r.status = 1 then (s.setDma p ch none).dmaErr 1 r.part p ch r.status
      else if 4 ≤ r.status then (s.setDma p ch none).dmaErr 2 r.part p ch r.status else s.setDma p ch none) →
    ∃ t, exec (.dmaComplete p ch env) s = .next t ∧ t.dmaRun p ch = none ∧ t.fld F.DMA_BUSY 0 (dmaKey p ch) = 0 ∧
      t.fld F.DMA_LAST_STATUS 0 (dmaKey p ch) = r.status % 2 ^ 8 ∧
      t.mem = (s1.writeVa env (dmaRq p r.part) r.stsVa (r.record p ch r.status)).1.mem ∧
      ((s1.writeVa env (dmaRq p r.part) r.stsVa (r.record p ch r.status)).2 ≠ .okay → t.fld F.DMA_E_STATUS 0 0 = 1) ∧
      (r.guest = false → s.resetting r.part = false → r.irq = true ∨ r.status = 2 →
        t.fld F.DMA_PEND 0 p = s.fld F.DMA_PEND 0 p ||| 2 ^ ch) ∧
      (s.resetting r.part = true ∨ r.irq = false ∧ r.status ≠ 2 → t.fld F.DMA_PEND 0 p = s.fld F.DMA_PEND 0 p) ∧
      s.changes [.emitted, .free, .regs, .mem, .prt, .memc, .que, .pmc, .dma, .sec] t)

/-! ### The Host Memory Port -/

/-- A burst of an awake channel lands at aperture offset `off` (R349 to R351). -/
def Sys2Proof.Machine.State.hmpAt (s : State) (c sub bank col off : Nat) : Prop :=
  s.hmpAwake c = true ∧ (s.hch c).offset sub bank col = some off

/-- The page of a window offset is shown to the host: in read mode, and filled (R361). -/
def Sys2Proof.Machine.State.shows (s : State) (c off : Nat) : Prop :=
  s.hmpMapOf F.HMP_MAP_MODE c (off / 4096) = 2 ∧ sget false (s.hch c).filled (off / 4096) = true

/-- The window's host side: writes reach only write-mode pages that no reset has quiesced, byte by byte under their mask, and mark the
unit; reads give a filled page's bytes, with a word in error reported, or the pattern with HMP_E_UNFILLED and one event a page; a fence
read says whether all is drained, and how much; a fill request starts a pass or stands pending; the rest of the control page ignores
writes; rows open and close, a mode register reads what was written, power-down and self-refresh end with their exits alone, and
training is shown (R348 to R352, R356, R358, R359, R361 to R363). -/
def Obligations.HostMemoryPortAccesses : Prop :=
  (∀ (c sub bank col off pg : Nat) (bytes : List Byte) (mask : List Bool) (s : State), s.hmpAt c sub bank col off →
    (off < 0x1000000 → pg = off / 4096 →
      (s.hmpMapOf F.HMP_MAP_MODE c pg ≠ 1 ∨ 2 ≤ (sget {} s.prt.resets (s.hmpMapOf F.HMP_MAP_PART c pg)).phase →
        ∃ t, exec (.hmpHostWrite c sub bank col bytes mask) s = .next t ∧ t.fld F.HMP_E_APERTURE 0 0 = 1 ∧ s.changes [.regs] t) ∧
      (s.hmpMapOf F.HMP_MAP_MODE c pg = 1 → (sget {} s.prt.resets (s.hmpMapOf F.HMP_MAP_PART c pg)).phase < 2 →
        ∃ t, exec (.hmpHostWrite c sub bank col bytes mask) s = .next t ∧ off / 32 ∈ (t.hch c).dirty ∧
          (∀ i, i < 32 → sget 0 (t.hch c).win (off + i) =
            if mask.getD i false then bytes.getD i 0 else sget 0 (s.hch c).win (off + i)) ∧
          (∀ a, a < off ∨ off + 32 ≤ a → sget 0 (t.hch c).win a = sget 0 (s.hch c).win a) ∧
          (∀ u, u ∈ (s.hch c).dirty → u ∈ (t.hch c).dirty) ∧ s.changes [.hmp] t)) ∧
    (off = 0x1F000080 → (mask.take 8).any (fun b => b) = true →
      exec (.hmpHostWrite c sub bank col bytes mask) s = exec (.hmpWinFill c) s) ∧
    (0x1F000000 ≤ off → off < 0x1F001000 → off ≠ 0x1F000080 ∨ (mask.take 8).any (fun b => b) = false →
      exec (.hmpHostWrite c sub bank col bytes mask) s = .next s) ∧
    (0x1000000 ≤ off → off < 0x1F000000 ∨ 0x1F001000 ≤ off →
      ∃ t, exec (.hmpHostWrite c sub bank col bytes mask) s = .next t ∧ t.fld F.HMP_E_APERTURE 0 0 = 1 ∧ s.changes [.regs] t)) ∧
  (∀ (c sub bank col off pg : Nat) (env : Env) (s : State), s.hmpAt c sub bank col off → pg = off / 4096 →
    (off < 0x1000000 → s.shows c off → upset env true (winSites c (off / 32)) = false →
      ∃ t d, exec (.hmpHostRead c sub bank col env) s = .next t ∧ d = sgetRun 0 (s.hch c).win off 32 ∧
        t.emitted = s.emitted ++ [.hmpData c d (checkBytes d)] ∧
        (upset env false (winSites c (off / 32)) = true → t.fld F.HMP_E_SRAM_CE 0 0 = 1) ∧
        (upset env false (winSites c (off / 32)) = false → s.changes [.emitted] t) ∧ s.changes [.emitted, .regs] t) ∧
    (off < 0x1000000 → s.shows c off → upset env true (winSites c (off / 32)) = true →
      ∃ t d rest, exec (.hmpHostRead c sub bank col env) s = .next t ∧
        t.emitted = s.emitted ++ .hmpData c d ((checkBytes d).map fun b => ~~~b) :: rest ∧ t.fld F.HMP_E_SRAM_UE 0 0 = 1 ∧
        t.hmp = s.hmp) ∧
    (off < 0x1000000 → ¬ s.shows c off →
      ∃ t rest, exec (.hmpHostRead c sub bank col env) s = .next t ∧ t.emitted =
          s.emitted ++ .hmpData c (List.replicate 32 0xA5) (checkBytes (List.replicate 32 0xA5)) :: rest ∧
        t.fld F.HMP_E_UNFILLED 0 0 = 1 ∧ pg ∈ (t.hch c).raised ∧
        (pg ∈ (s.hch c).raised → rest = [] ∧ s.changes [.emitted, .regs, .pmc] t) ∧
        s.changes [.emitted, .regs, .prt, .que, .pmc, .hmp] t) ∧
    (off = 0x1F000000 → exec (.hmpHostRead c sub bank col env) s = exec (.hmpWinFence c) s) ∧
    (off = 0x1F000040 → ∃ t d, exec (.hmpHostRead c sub bank col env) s = .next t ∧ d = fit 32 (toLe 8 (s.epochWord c)) ∧
      t.emitted = s.emitted ++ [.hmpData c d (checkBytes d)] ∧ s.changes [.emitted] t) ∧
    (0x1F000200 ≤ off → off < 0x1F000400 →
      ∃ t d, exec (.hmpHostRead c sub bank col env) s = .next t ∧ d = (s.hch c).fillMap (off - 0x1F000200) ∧
        t.emitted = s.emitted ++ [.hmpData c d (checkBytes d)] ∧ s.changes [.emitted] t)) ∧
  (∀ (c : Nat) (s : State), s.hmpOn c = true →
    ∃ t w n, exec (.hmpWinFence c) s = .next t ∧
      t.emitted = s.emitted ++ [.hmpData c (fit 32 (toLe 8 w)) (checkBytes (fit 32 (toLe 8 w)))] ∧
      t.hch c = { s.hch c with fenceErr := false, fenced := (s.hch c).dirty } ∧
      n = ((s.hch c).dirty ++ (s.hch c).out.map (·.unit)).eraseDups.length ∧
      (n = 0 → bit w 63 = true ∧ bit w 62 = (s.hch c).fenceErr ∧ w % 2 ^ 32 = s.fld F.HMP_DRAIN_COUNT 0 c) ∧
      (n ≠ 0 → n < 2 ^ 32 → bit w 63 = false ∧ bit w 62 = (s.hch c).fenceErr ∧ w % 2 ^ 32 = n) ∧
      s.changes [.emitted, .hmp] t) ∧
  (∀ (c : Nat) (s : State), s.hmpOn c = true →
    ((s.hch c).pass = none →
      ∃ t, exec (.hmpWinFill c) s = .next t ∧ t.fld F.HMP_CH_EPOCH 0 c = (s.fld F.HMP_CH_EPOCH 0 c + 1) % 2 ^ 16 ∧
        t.fld F.HMP_CH_FILL_DONE 0 c = 0 ∧ t.hch c = { s.hch c with pass := some 0 } ∧
        s.changesRegs [(.hmpChSts, 0, c)] t ∧ s.changes [.regs, .hmp] t) ∧
    ((s.hch c).pass ≠ none →
      ∃ t, exec (.hmpWinFill c) s = .next t ∧ t.fld F.HMP_CH_FILL_PENDING 0 c = 1 ∧
        t.fld F.HMP_CH_EPOCH 0 c = s.fld F.HMP_CH_EPOCH 0 c ∧
        s.changesRegs [(.hmpChSts, 0, c)] t ∧ s.changes [.regs] t)) ∧
  (∀ (c : Nat) (s : State), s.hmpAwake c = true →
    (∀ sub bank row col, sub < 2 → bank < 16 → row < 8192 → col < 2048 →
      ∃ t, exec (.hmpLpddrCommand c (.activate sub bank row)) s = .next t ∧
        (t.hch c).offset sub bank col = some ((((row * 16 + bank) * 64 + col / 32) * 2 + sub) * 32) ∧ s.changes [.hmp] t) ∧
    (∀ sub bank col,
      ∃ t, exec (.hmpLpddrCommand c (.precharge sub bank)) s = .next t ∧ (t.hch c).offset sub bank col = none ∧
        s.changes [.hmp] t) ∧
    (∀ sub bank col, bank < 16 →
      ∃ t, exec (.hmpLpddrCommand c (.prechargeAll sub)) s = .next t ∧ (t.hch c).offset sub bank col = none ∧
        s.changes [.hmp] t) ∧
    (∀ n, exec (.hmpLpddrCommand c (.refreshBank n)) s = .next s) ∧ exec (.hmpLpddrCommand c .refreshAll) s = .next s ∧
    (∀ n v, ∃ t, exec (.hmpLpddrCommand c (.modeWrite n v)) s = .next t ∧ t.modeValue c (.other n) = v % 256 ∧
      s.changes [.hmp] t) ∧
    (∀ n, ∃ t, exec (.hmpLpddrCommand c (.modeRead (.other n))) s = .next t ∧
      t.emitted = s.emitted ++ [.hmpMode c (s.modeValue c (.other n))] ∧ s.changes [.emitted] t) ∧
    (∃ t, exec (.hmpLpddrCommand c .powerDownEntry) s = .next t ∧ t.hmpAwake c = false ∧
      exec (.hmpLpddrCommand c .powerDownExit) t = .next (t.setHch c (s.hch c)) ∧ s.changes [.hmp] t) ∧
    (∃ t u, exec (.hmpLpddrCommand c .selfRefreshEntry) s = .next t ∧ t.hmpAwake c = false ∧
      exec (.hmpLpddrCommand c .selfRefreshExit) t = .next u ∧ u.hch c = { s.hch c with rows := [] } ∧ s.changes [.hmp] t) ∧
    (∃ t, exec (.hmpLpddrCommand c .trained) s = .next t ∧ t.fld F.HMP_TRAINED 0 c = 1 ∧
      s.changesRegs [(.hmpChSts, 0, c)] t ∧ s.changes [.regs] t))

/-- The window's device side: a dirty unit drains to its page's place in device memory and counts when its write has been
answered, well or not, and a unit with an uncorrectable word is dropped as one that failed; a fill pass copies its next page into the
window, or leaves it unfilled with HMP_E_FILL, and completes after the last; a changed map entry takes effect when every unit of the page
has been drained under the old one, a refused one does not; a channel is presented with its counts at their reset values and taken off at
once (R353, R354, R356, R357, R359, R362, R364). -/
def Obligations.HostMemoryPortTransfers : Prop :=
  (∀ (c unit va : Nat) (env : Env) (s u : State) (r : Resp), s.stopped = false → unit ∈ (s.hch c).dirty →
    unit ∈ (s.hch c).fenced ∨ (∀ x ∈ (s.hch c).dirty, x ∉ (s.hch c).fenced) →
    (upset env true (winSites c unit) = false → upset env false (winSites c unit) = false →
      va = s.hmpMapOf F.HMP_MAP_VA c (unit / 128) * 4096 + 32 * unit % 4096 →
      State.hmpWrite (s.setHch c { s.hch c with dirty := (s.hch c).dirty.filter (· ≠ unit) }) env
        (s.hmpMapOf F.HMP_MAP_PART c (unit / 128)) va (sgetRun 0 (s.hch c).win (32 * unit) 32) = (u, r) →
      ∃ t, exec (.hmpDrain c unit env) s = .next t ∧ t.mem = u.mem ∧ unit ∉ (t.hch c).dirty ∧
        ⟨unit, s.hmpMapOf F.HMP_MAP_PART c (unit / 128), va, r⟩ ∈ (t.hch c).out ∧ (t.hch c).win = (s.hch c).win ∧
        s.changes [.emitted, .free, .regs, .mem, .prt, .memc, .que, .pmc, .hmp, .sec] t) ∧
    (upset env true (winSites c unit) = true →
      ∃ t, exec (.hmpDrain c unit env) s = .next t ∧ unit ∉ (t.hch c).dirty ∧ (t.hch c).out = (s.hch c).out ∧
        (t.hch c).fenceErr = true ∧ t.fld F.HMP_E_DRAIN 0 0 = 1 ∧ t.fld F.HMP_E_SRAM_UE 0 0 = 1 ∧
        s.changes [.emitted, .regs, .prt, .que, .pmc, .hmp] t)) ∧
  (∀ (c unit : Nat) (s : State) (o : HmpOut), c < 2 → o.part < 64 → s.stopped = false →
    (s.hch c).out.find? (fun x => x.unit = unit) = some o →
    ∃ t, exec (.hmpDrainDone c unit) s = .next t ∧
      t.fld F.HMP_DRAIN_COUNT 0 c = (s.fld F.HMP_DRAIN_COUNT 0 c + 1) % 2 ^ 32 ∧
      (t.hch c).out = (s.hch c).out.erase o ∧ (t.hch c).dirty = (s.hch c).dirty ∧ t.mem = s.mem ∧
      (o.resp = .okay → (t.hch c).fenceErr = (s.hch c).fenceErr ∧ s.changes [.regs, .pmc, .hmp] t) ∧
      (o.resp ≠ .okay → (t.hch c).fenceErr = true ∧ t.fld F.HMP_E_DRAIN 0 0 = 1 ∧
        s.changes [.emitted, .regs, .prt, .que, .pmc, .hmp] t)) ∧
  (∀ (c pg n : Nat) (env : Env) (s u : State) (d : List Byte) (bad : Option (Nat × Resp)), s.stopped = false →
    (s.hch c).pass = some pg → s.nextFill c pg = some n →
    s.pageUnits env (s.hmpMapOf F.HMP_MAP_PART c n) (s.hmpMapOf F.HMP_MAP_VA c n * 4096) 0 64 = (u, d, bad) →
    ∃ t, exec (.hmpFillPage c env) s = .next t ∧ sget false (t.hch c).filled n = bad.isNone ∧
      (bad = none → ∀ i, i < 4096 → sget 0 (t.hch c).win (4096 * n + i) = d.getD i 0) ∧
      (∀ a, a < 4096 * n ∨ 4096 * n + 4096 ≤ a → sget 0 (t.hch c).win a = sget 0 (s.hch c).win a) ∧
      (bad.isSome = true → (t.hch c).win = (s.hch c).win ∧ t.fld F.HMP_E_FILL 0 0 = 1) ∧ t.mem = u.mem ∧
      s.changes [.emitted, .free, .regs, .mem, .prt, .memc, .que, .pmc, .hmp, .sec] t) ∧
  (∀ (c pg : Nat) (env : Env) (s : State), s.stopped = false → (s.hch c).pass = some pg → s.nextFill c pg = none →
    (s.flag F.HMP_CH_FILL_PENDING 0 c = false →
      ∃ t, exec (.hmpFillPage c env) s = .next t ∧ t.fld F.HMP_CH_FILL_DONE 0 c = 1 ∧
        t.hch c = { s.hch c with pass := none } ∧ s.changesRegs [(.hmpChSts, 0, c)] t ∧ s.changes [.regs, .hmp] t) ∧
    (s.flag F.HMP_CH_FILL_PENDING 0 c = true →
      ∃ t, exec (.hmpFillPage c env) s = .next t ∧ t.fld F.HMP_CH_FILL_PENDING 0 c = 0 ∧ t.fld F.HMP_CH_FILL_DONE 0 c = 0 ∧
        t.fld F.HMP_CH_EPOCH 0 c = (s.fld F.HMP_CH_EPOCH 0 c + 1) % 2 ^ 16 ∧ t.hch c = { s.hch c with pass := some 0 } ∧
        s.changesRegs [(.hmpChSts, 0, c)] t ∧ s.changes [.regs, .hmp] t)) ∧
  (∀ (c pg value : Nat) (env : Env) (s : State), c < 2 → pg < 4096 →
    (bits value 3 2 = 3 ∨ (bits value 3 2 ≠ 0 ∧ (s.partEnabled (bits value 11 6) = false ∨ s.tdi (bits value 11 6) ≠ 0)) →
      ∃ t, exec (.hmpMapWrite c pg value env) s = .next t ∧ t.fld F.HMP_E_MAP 0 0 = 1 ∧ t.hmp = s.hmp ∧
        t.regN .hmpMap 0 (4096 * c + pg) = s.regN .hmpMap 0 (4096 * c + pg) ∧ s.changes [.regs] t) ∧
    (bits value 3 2 ≠ 3 → (bits value 3 2 ≠ 0 → s.partEnabled (bits value 11 6) = true ∧ s.tdi (bits value 11 6) = 0) →
      ((∀ u ∈ (s.hch c).dirty, u / 128 ≠ pg) → (∀ o ∈ (s.hch c).out, o.unit / 128 ≠ pg) →
        ∃ t, exec (.hmpMapWrite c pg value env) s = .next t ∧ t.hmpMapOf F.HMP_MAP_VA c pg = bits value 47 12 ∧
          t.hmpMapOf F.HMP_MAP_PART c pg = bits value 11 6 ∧ t.hmpMapOf F.HMP_MAP_MODE c pg = bits value 3 2 ∧
          (t.regN .hmpMap 0 (4096 * c + pg) ≠ s.regN .hmpMap 0 (4096 * c + pg) → sget false (t.hch c).filled pg = false) ∧
          s.changesRegs [(.hmpMap, 0, 4096 * c + pg)] t ∧ s.changes [.regs, .hmp] t) ∧
      (∃ t, exec (.hmpMapWrite c pg value env) s = .next t ∧ t.hmpMapOf F.HMP_MAP_VA c pg = bits value 47 12 ∧
        t.hmpMapOf F.HMP_MAP_PART c pg = bits value 11 6 ∧ t.hmpMapOf F.HMP_MAP_MODE c pg = bits value 3 2 ∧
        (t.regN .hmpMap 0 (4096 * c + pg) ≠ s.regN .hmpMap 0 (4096 * c + pg) →
          (∀ u ∈ (t.hch c).dirty, u / 128 ≠ pg) ∧ (∀ o ∈ (t.hch c).out, o.unit / 128 ≠ pg)) ∧
        s.changes [.emitted, .free, .regs, .mem, .prt, .memc, .que, .pmc, .hmp, .sec] t))) ∧
  (∀ (c value : Nat) (s : State), c < 2 → s.flag F.HMP_EN 0 c = false →
    (s.flag F.HMP_CH_DRAINING 0 c = false →
      ∃ t, exec (.hmpEnable c value) s = .next t ∧ t.fld F.HMP_EN 0 c = 1 ∧ t.fld F.HMP_MFR_ID 0 c = bits value 15 8 ∧
        t.regN .hmpChSts 0 c = 0x8000 ∧ t.regN .hmpChDrain 0 c = 0 ∧
        t.hch c = { win := (s.hch c).win, raised := (s.hch c).raised } ∧
        s.changesRegs [(.hmpChCtrl, 0, c), (.hmpChSts, 0, c), (.hmpChDrain, 0, c)] t ∧ s.changes [.regs, .hmp] t) ∧
    (s.flag F.HMP_CH_DRAINING 0 c = true →
      ∃ t, exec (.hmpEnable c value) s = .next t ∧ t.fld F.HMP_EN 0 c = 0 ∧ t.fld F.HMP_E_MAP 0 0 = 1 ∧ s.changes [.regs] t)) ∧
  (∀ (c value : Nat) (s : State), c < 2 → s.flag F.HMP_EN 0 c = true →
    ∃ t, exec (.hmpDisable c value) s = .next t ∧ t.fld F.HMP_EN 0 c = 0 ∧ t.fld F.HMP_TRAINED 0 c = 0 ∧
      t.fld F.HMP_CH_FILL_PENDING 0 c = 0 ∧ t.hmp = s.hmp ∧
      t.flag F.HMP_CH_DRAINING 0 c = decide ((s.hch c).dirty ≠ [] ∨ (s.hch c).out ≠ [] ∨ (s.hch c).pass ≠ none) ∧
      s.changesRegs [(.hmpChCtrl, 0, c), (.hmpChSts, 0, c)] t ∧ s.changes [.regs] t)

/-! ### Partitions -/

/-- A trigger begins the reset of an enabled partition that is not resetting, at step 1 with its own number; one for a
disabled partition, or for one under reset, begins nothing and is an error; a Function Level Reset, and VF Enable as it clears,
also takes the configuration registers of the virtual functions it resets to their reset values; VF Enable takes every
partition of a virtual function with it, and NumVFs is written only while it is clear; a reset of a virtual function that does
not exist does nothing (R368, R373, R374, R376, R377). That the configuration registers are those the model holds is its
choice (log entry 39). -/
def Obligations.PartitionResetTriggers : Prop :=
  (∀ (n k : Nat) (c : Instr) (env : Env) (s : State), n < 64 →
    (∃ value, c = .prtRstGo value env ∧ value % 64 = n ∧ k = 2) ∨ (c = .vfFlr (n + 1) env ∧ s.vfExists (n + 1) = true ∧ k = 1) →
    (s.partEnabled n = false →
      ∃ t, exec c s = .next t ∧ t.fld F.PRT_E_DISABLED 0 0 = 1 ∧ t.prt = { s.prt with cfg := t.prt.cfg } ∧
        (∀ fn, t.cfg fn = if k = 1 ∧ fn = n + 1 then {} else s.cfg fn) ∧ s.changes [.regs, .prt] t) ∧
    (s.partEnabled n = true → s.resetting n = true →
      ∃ t, exec c s = .next t ∧ t.fld F.PRT_E_IGNORED 0 0 = 1 ∧
        (∀ fn, t.cfg fn = if k = 1 ∧ fn = n + 1 then {} else s.cfg fn) ∧ t.fld F.PRT_PHASE 0 n = s.fld F.PRT_PHASE 0 n ∧
        sget {} t.prt.resets n = { sget {} s.prt.resets n with
          recordsOff := (sget {} s.prt.resets n).recordsOff || decide (k = 1) } ∧ s.changes [.regs, .prt] t) ∧
    (s.partEnabled n = true → s.resetting n = false →
      ∃ t, exec c s = .next t ∧ t.fld F.PRT_PHASE 0 n = 1 ∧ t.fld F.PRT_TRIGGER 0 n = k ∧
        (sget {} t.prt.resets n).phase = 1 ∧ (sget {} t.prt.resets n).trigger = k ∧
        (sget {} t.prt.resets n).recordsOff = decide (k = 1) ∧ (sget {} t.prt.resets n).start = s.ns ∧
        (∀ fn, t.cfg fn = if k = 1 ∧ fn = n + 1 then {} else s.cfg fn) ∧
        (s.stopped = false → ∀ b, b < 4 → t.fld F.CLP_BAR_STATE (n + 1) b = 0) ∧
        s.changes [.emitted, .regs, .prt, .que, .pmc, .clp, .cas] t)) ∧
  (∀ (env : Env) (s : State), s.prt.vfEnable = true → s.prt.numVfs ≤ 64 →
    ∃ t, exec (.vfEnableClear env) s = .next t ∧ t.prt.vfEnable = false ∧ t.prt.numVfs = s.prt.numVfs ∧
      (∀ n, n < s.prt.numVfs → s.partEnabled n = true → (sget {} t.prt.resets n).phase ≠ 0 ∧
        (s.resetting n = false → (sget {} t.prt.resets n).trigger = 3 ∧ (sget {} t.prt.resets n).recordsOff = false)) ∧
      (∀ fn, t.cfg fn = if fn = 0 then s.cfg 0 else {}) ∧
      s.changes [.emitted, .regs, .prt, .que, .pmc, .clp, .cas] t) ∧
  (∀ (v : Nat) (env : Env) (s : State), s.vfExists v = false → exec (.vfFlr v env) s = .next s) ∧
  (∀ (env : Env) (s : State), s.prt.vfEnable = false → exec (.vfEnableClear env) s = .next s) ∧
  (∀ (value : Nat) (s : State),
    ∃ t, exec (.numvfsWrite value) s = .next t ∧ t.prt = { s.prt with
        numVfs := if s.prt.vfEnable then s.prt.numVfs else min (Config.parts s.part) (value % 65536) } ∧ s.changes [.prt] t)

/-- The six steps of a reset, in order: the partition's cores stop and its transfers end; its mirror is disabled; it waits
for its groups and regions, closes its flows and waits until they are gone, and waits for its cells; its tables are scrubbed,
every page they map, but for one behind a fenced die link, then reading zero where no other access waits at the channels, with
its keys gone; its rings are off; and the count of its resets goes up (R375, R378, R379, R404, R405). The
same command stops what a TDI that has entered ERROR has under way, once, where no reset does (R396). -/
def Obligations.PartitionResetSteps : Prop :=
  ∀ (n : Nat) (env : Env) (s : State), n < 64 → s.stopped = false →
    ((sget {} s.prt.resets n).phase = 1 →
      ∃ t, exec (.partitionResetStep n env) s = .next t ∧ (sget {} t.prt.resets n).phase = 2 ∧
        (∀ k r, sget none t.dma.runs k = some r → r.part ≠ n) ∧
        (∀ p ∈ s.owned n, (t.poolSt p).inbox = [] ∧ (t.poolSt p).popped = []) ∧
        s.changes [.emitted, .free, .regs, .mem, .prt, .memc, .que, .pmc, .hmp, .pool, .dma, .sec] t) ∧
    ((sget {} s.prt.resets n).phase = 2 →
      ∃ t, exec (.partitionResetStep n env) s = .next t ∧ (sget {} t.prt.resets n).phase = 3 ∧ t.fld F.UPD_MIR_ENABLE (n + 1) 0 = 0 ∧
        t.fld F.UPD_MIR_BUSY (n + 1) 0 = 0 ∧
        s.changes [.emitted, .free, .regs, .mem, .prt, .memc, .que, .pmc, .clp, .mac, .cas, .aqd, .sec] t) ∧
    ((sget {} s.prt.resets n).phase = 3 → s.revoked n = false → exec (.partitionResetStep n env) s = .next s) ∧
    ((sget {} s.prt.resets n).phase = 3 → s.revoked n = true → (s.closeFlows env n).flowless n = true →
      ∃ t, exec (.partitionResetStep n env) s = .next t ∧ (sget {} t.prt.resets n).phase = 4) ∧
    ((sget {} s.prt.resets n).phase = 3 → s.revoked n = true → (s.closeFlows env n).flowless n = false →
      exec (.partitionResetStep n env) s = .next (s.closeFlows env n)) ∧
    ((sget {} s.prt.resets n).phase = 4 → s.cellsDone n = false → exec (.partitionResetStep n env) s = .next s) ∧
    (∀ u w tr, (sget {} s.prt.resets n).phase = 4 → s.cellsDone n = true → u = State.setPhase (s.clearCells n) n 5 →
      State.tree { u with memc := { u.memc with tlb := u.memc.tlb.filter fun e => e.part ≠ n } } env n = (w, tr) →
      ∃ t, exec (.partitionResetStep n env) s = .next t ∧ t.fld F.PRT_PHASE 0 n = 5 ∧ t.fld F.MEM_PT_EN 0 n = 0 ∧
        t.xtsKey n = 0 ∧ (∀ e ∈ t.memc.tlb, e.part ≠ n) ∧
        (∀ p ∈ s.owned n, (t.poolSt p).cpls = [] ∧ ∀ c, c / 16 = p → ∀ slot, slot < 5 → t.slotSt c slot = {}) ∧
        ((∀ ch, (s.chan ch).queue = []) → ∀ e ∈ tr.leaves, bit e.2.2 3 = false → ∀ i, i < 2 ^ (9 * e.2.1) → ∀ ch off,
          dpaRoute s.part (bits e.2.2 51 12 * 4096 + 4096 * i) = some (ch, off) → s.cut .plinth (chanDie ch) = false →
          ∀ j, j < 4096 → t.byte (physKey ch off + j) = 0)) ∧
    ((sget {} s.prt.resets n).phase = 5 →
      ∃ t, exec (.partitionResetStep n env) s = .next t ∧ t.fld F.PRT_PHASE 0 n = 6 ∧ t.fld F.SEC_TDI_STATE 0 n = 0 ∧
        t.regN .msixPba (n + 1) 0 = 0 ∧
        (∀ r, r < 16 → t.fld F.QUE_RING_STATE (n + 1) r = 0 ∧ t.ring (n + 1) r = {}) ∧
        s.changes [.emitted, .regs, .prt, .que, .pmc, .sec] t) ∧
    ((sget {} s.prt.resets n).phase = 6 →
      (sget {} s.prt.resets n).held = false ∨ s.fld F.QUE_EQ_STATE 0 0 = 1 →
      ∃ t, exec (.partitionResetStep n env) s = .next t ∧ t.fld F.PRT_PHASE 0 n = 0 ∧ sget {} t.prt.resets n = {} ∧
        t.fld F.PRT_RESETS 0 n = min 0xFFFF (s.fld F.PRT_RESETS 0 n + 1) ∧
        s.changes [.emitted, .regs, .prt, .que, .pmc] t) ∧
    ((sget {} s.prt.resets n).phase = 6 → (sget {} s.prt.resets n).held = true → s.fld F.QUE_EQ_STATE 0 0 ≠ 1 →
      exec (.partitionResetStep n env) s = .next s) ∧
    (s.resetting n = false → n ∉ s.sec.broken → exec (.partitionResetStep n env) s = .next s) ∧
    (s.resetting n = false → n ∈ s.sec.broken →
      ∃ t, exec (.partitionResetStep n env) s = .next t ∧
        (s.dma.runs = [] → s.pool = [] → n ∉ t.sec.broken) ∧
        (∀ k r, sget none t.dma.runs k = some r → r.part ≠ n) ∧
        (∀ p ∈ s.owned n, (t.poolSt p).inbox = [] ∧ (t.poolSt p).popped = []))

/-! ### Power, and the die links -/

/-- The control loop: every window reads the input power, moves the thermal limit, and steps the admission level under the
limit in force; the brake drops the level and the limit at once, and its release gives the limit back; a trip or a loss of
airflow stops compute with every channel in self-refresh (R383, R431, R433, R434, R438, R441, R442). What the loop works in
and the order within one window are the model's readings (log entry 28). -/
def Obligations.PowerControl : Prop :=
  (∀ (w : WindowIn) (env : Env) (s : State), 3 ≤ s.fld F.TOP_STAGE 0 0 →
    (∀ i, i < 36 → s.sensorOk w i = true → s.sensor w i < 110) →
    ∃ t, exec (.controlWindow w env) s = .next t ∧ t.fld F.PWR_INPUT_DW 0 0 = min 65535 w.dw ∧
      t.fld F.PWR_LIMIT_W 0 0 = t.limit.1 ∧ t.fld F.PWR_LIMITER 0 0 = t.limit.2 ∧
      (s.flag F.PWR_MODE 0 0 = false →
        t.fld F.PWR_OP 0 0 = min 6 (s.fld F.PWR_FIXED_OP 0 0) ∧
        t.fld F.PWR_A 0 0 =
          if t.limit.1 < w.dw / 10 then
            max 1 (min (s.fld F.PWR_A 0 0 - 1) (s.fld F.PWR_A 0 0 * t.limit.1 / (w.dw / 10)))
          else if s.fld F.PWR_A 0 0 < 16 ∧ w.dw / 10 * (s.fld F.PWR_A 0 0 + 1) ≤ t.limit.1 * s.fld F.PWR_A 0 0 then
            s.fld F.PWR_A 0 0 + 1
          else s.fld F.PWR_A 0 0) ∧
      (t.fld F.PWR_A 0 0 = 16 → ∀ n, n < 64 → t.fld F.PRT_ADMIT_K 0 n = 16) ∧
      ((∃ i ∈ sensors s.part, s.sensorLimit i < s.sensor w i) →
        t.pwr.thermal = max (Config.capFloor s.part) (s.thermalW - Config.envelope s.part * 2 / 100)) ∧
      s.changes [.emitted, .free, .regs, .prt, .que, .pmc, .pwr] t) ∧
  (∀ (w : WindowIn) (env : Env) (s : State) (i : Nat), 3 ≤ s.fld F.TOP_STAGE 0 0 → i ∈ sensors s.part → i < 36 →
    s.sensorOk w i = true → 110 ≤ s.sensor w i → s.flag F.PWR_TRIPPED 0 0 = false →
    ∃ t, exec (.controlWindow w env) s = .next t ∧ t.top.stopped = true ∧ t.top.boot = 0 ∧ t.fld F.TOP_STAGE 0 0 = 10 ∧
      (∀ ch, ch < Config.channels s.part → (t.chan ch).selfRefresh = true)) ∧
  (∀ (env : Env) (s : State), s.top.airflow = true →
    (s.railsUp = true → s.flag F.PWR_AIRFLOW_STATE 0 0 = false →
      ∃ t, exec (.airflowLoss env) s = .next t ∧ t.top.airflow = false ∧ t.top.stopped = true ∧ t.top.boot = 0 ∧
        t.fld F.TOP_STAGE 0 0 = 10 ∧ (∀ ch, ch < Config.channels s.part → (t.chan ch).selfRefresh = true) ∧
        s.changes [.emitted, .free, .regs, .mem, .top, .prt, .memc, .que, .pmc, .mac, .sec] t) ∧
    (s.railsUp = false →
      ∃ t, exec (.airflowLoss env) s = .next t ∧ t.top = { s.top with airflow := false } ∧ s.changes [.top] t)) ∧
  (∀ (s : State), s.flag F.PWR_BRAKE_ON 0 0 = false →
    ∃ t, exec .pwrBrakeFall s = .next t ∧ t.fld F.PWR_BRAKE_ON 0 0 = 1 ∧ t.fld F.PWR_E_BRAKE 0 0 = 1 ∧
      t.fld F.PWR_A 0 0 = min (s.fld F.PWR_A 0 0) (max 1 (s.fld F.PWR_BRAKE_A 0 0)) ∧
      t.fld F.PWR_LIMIT_W 0 0 = t.limit.1 ∧ t.limit.1 ≤ t.capW F.PWR_BRAKE_W ∧
      s.changesRegs [(.pwrStatus, 0, 0), (.pwrPower, 0, 0), (.pwrErrSts, 0, 0), (.pwrErrFirst, 0, 0)] t ∧
      s.changes [.regs] t) ∧
  (∀ (s : State), s.flag F.PWR_BRAKE_ON 0 0 = true →
    ∃ t, exec .pwrBrakeRise s = .next t ∧ t.fld F.PWR_BRAKE_ON 0 0 = 0 ∧ t.fld F.PWR_A 0 0 = s.fld F.PWR_A 0 0 ∧
      t.fld F.PWR_LIMIT_W 0 0 = t.limit.1 ∧ s.changesRegs [(.pwrStatus, 0, 0), (.pwrPower, 0, 0)] t ∧ s.changes [.regs] t)

/-- Die links: a slice that fails its check is replayed and counted towards a lane check, which one group of a direction
takes at a time; the check gives a failed lane the first spare and retires a group that has none left; a group whose
forwarded clock is lost is retired at once; and the ninth group lost in a direction fences the link and fails the module, no
channel keeping a request that would take a fenced link (R21, R450 to R454). -/
def Obligations.DieLinks : Prop :=
  (∀ (l d g : Nat) (s : State), s.linkLive l d g = true →
    (∃ t, exec (.sliceCheckFail l d g) s = .next t ∧ t.fld F.LNK_E_REPLAY 0 0 = 1 ∧
      s.ns ∈ (t.grpOf l d g).replays ∧ (t.grpOf l d g).retired = false ∧
      ((s.grpOf l d g).checking = false → s.fld F.LNK_REPLAY_LIMIT 0 0 ≤ 1 → (t.grpOf l d g).due = true) ∧
      s.changesRegs [(.lnkErrSts, 0, 0), (.lnkErrFirst, 0, 0)] t ∧ s.changes [.regs, .pmc, .lnk] t) ∧
    ((s.grpOf l d g).due = true → (∀ x ∈ s.dirGroups l d, x.checking = false) →
      ∃ t, exec (.laneCheckStart l d g) s = .next t ∧
        t.grpOf l d g = { s.grpOf l d g with due := false, checking := true, replays := [] } ∧ s.changes [.lnk] t) ∧
    (∀ x ∈ s.dirGroups l d, x.checking = true → exec (.laneCheckStart l d g) s = .next s) ∧
    ((s.grpOf l d g).checking = true →
      (∃ t, exec (.laneCheckEnd l d g []) s = .next t ∧
        t.grpOf l d g = { s.grpOf l d g with due := false, checking := false, replays := [] } ∧
        s.changesRegs [(.lnkState, 0, 2 * l + d)] t ∧ s.changes [.regs, .lnk] t) ∧
      (∀ n, n < 32 → (s.grpOf l d g).failed = [] → (s.grpOf l d g).roles = [] →
        ∃ t, exec (.laneCheckEnd l d g [n]) s = .next t ∧
          t.grpOf l d g = { s.grpOf l d g with
            due := false, checking := false, replays := [], failed := [n], roles := [(n, 32)] } ∧
          t.fld F.LNK_E_SPARE 0 0 = 1 ∧ s.changes [.regs, .lnk] t) ∧
      (∀ a b c, a < b → b < c → c < 32 → (s.grpOf l d g).failed = [] → (s.grpOf l d g).roles = [] →
        ∃ t, exec (.laneCheckEnd l d g [a, b, c]) s = .next t ∧ (t.grpOf l d g).retired = true ∧
          t.fld F.LNK_E_RETIRE 0 0 = 1 ∧ s.changes [.emitted, .regs, .prt, .memc, .que, .pmc, .lnk] t)) ∧
    (∃ t, exec (.forwardedClockLoss l d g) s = .next t ∧ (t.grpOf l d g).retired = true ∧ t.fld F.LNK_E_RETIRE 0 0 = 1 ∧
      t.lost l d = s.lost l d + 1 ∧
      (s.lost l d < 8 → s.lost l (1 - d) < 9 → t.fld F.LNK_GRP_LOST 0 (2 * l + d) = s.lost l d + 1 ∧
        t.fld F.LNK_LINK_STATE 0 (2 * l + d) = 2 ∧ t.failed = false) ∧
      (s.lost l d = 8 → t.fld F.LNK_LINK_STATE 0 (2 * l) = 3 ∧ t.fld F.LNK_LINK_STATE 0 (2 * l + 1) = 3 ∧
        t.fld F.LNK_E_FENCE 0 0 = 1 ∧ t.failed = true ∧ t.fld F.TOP_FAIL_CAUSE 0 0 = 2 ∧ t.fld F.TOP_FAIL_INFO 0 0 = l ∧
        ∀ ch, ch < Config.channels s.part → ∀ q ∈ (t.chan ch).queue, t.cut q.die (chanDie ch) = false) ∧
      s.changes [.emitted, .regs, .prt, .memc, .que, .pmc, .lnk] t))

/-! ### Bring-up, resets and configuration -/

/-- The block as a cold start leaves it, at a stage and with a cause: its registers at their reset values but for the stage,
the boot report, the links' and the Weir's state and the brake, and everything outside the standby domain fresh. -/
def Sys2Proof.Machine.State.coldStart (s : State) (stage cause : Nat) (t : State) : Prop :=
  t.fld F.TOP_STAGE 0 0 = stage ∧ t.fld F.TOP_LAST_RESET 0 0 = cause ∧ t.top.boot = b2n (stage = 1) ∧
  t.top.stopped = true ∧ t.top.waits = none ∧ t.sec.xts = [] ∧ t.sec.sessions = [] ∧ t.sec.svn = s.sec.svn ∧
  (∀ r v i, v < 128 → i < 8192 → r ∉ ([.topBoot, .secBoot, .lnkState, .weirStatus, .pwrStatus] : List Reg) →
    t.regN r v i = (regReset s.part r).toNat) ∧
  (∀ c ∈ ([.prt, .memc, .pte, .que, .pmc, .hmp, .mac, .cas, .aqd, .cell, .tam, .sta, .pool, .dma, .pwr, .lnk] : List Comp),
    State.reset.same t c)

/-- Cold starts: of the 54 V input, of MOD_RESET_N and of TOP_RST_COLD, with external memory kept until it is zeroed; and the
loss of the 54 V input, which takes memory with it and leaves the standby domain (R481, R482, R486, R487, R495). Bring-up
goes from stage to stage: the ROM takes the first copy in boot flash that passes its checks, or stops at stage 2; the rails
wait for airflow; the links train and the dies are identified, or the module fails; memory training takes the channels out of
self-refresh, and a bad channel fails the module; it is followed by the zeroing of memory in a cold start and by the scrubs
that wait in another, and the module is READY (R166, R167, R390, R391, R449, R456, R482, R483, R489). With no bring-up under way
the command does nothing. -/
def Obligations.ColdStartAndBringup : Prop :=
  ((∀ (c : Instr) (cause : Nat) (env : Env) (s : State), s.top.p54v = true →
     (c = .modResetN env ∧ cause = 1) ∨ (∃ value, c = .topRstCold value env ∧ cause = 2) →
     ∃ t, exec c s = .next t ∧ s.coldStart 1 cause t ∧ t.mem = s.mem ∧ t.mgmt = s.mgmt) ∧
   (∀ (s : State), s.top.p54v = false →
     (s.top.standby = true → ∃ t, exec .p54vGood s = .next t ∧ s.coldStart 1 0 t ∧ t.top.p54v = true ∧ t.mem = s.mem) ∧
     (s.top.standby = false →
       ∃ t, exec .p54vGood s = .next t ∧ t.top = { s.top with p54v := true } ∧ s.changes [.top] t) ∧
     (∃ t, exec .standbyPowerUp s = .next t ∧ t.top = { s.top with standby := true } ∧ t.mgmt = {} ∧
       s.changes [.top, .mgmt] t)) ∧
   (∀ (s : State), s.top.p54v = true →
     (∃ t, exec .standbyPowerUp s = .next t ∧ s.coldStart 1 0 t ∧ t.mgmt = {}) ∧
     (∃ t, exec .p54vLoss s = .next t ∧ s.coldStart 0 0 t ∧ t.top.p54v = false ∧ t.mem = [] ∧ t.mgmt = s.mgmt))) ∧
  (∀ (b : BootIn) (env : Env) (s : State), s.top.boot ≠ 0 → s.top.p54v = true →
     (∀ u, s.fld F.TOP_STAGE 0 0 = 1 → u = s.flashWrite b.flash → u.romCheck copyA = 0 →
       ∃ t, exec (.bringupStageAdvance b env) s = .next t ∧ t.fld F.TOP_STAGE 0 0 = 3 ∧ t.fld F.SEC_BOOT_COPY 0 0 = 0 ∧
         t.fld F.SEC_BOOT_SLOT 0 0 = leAt (u.copyHead copyA) 6 1 % 4 ∧ t.fld F.SEC_BOOT_RESULT 0 0 = 0 ∧
         t.sec.body = u.copyDigest copyA ∧ t.sec.udsShut = true ∧ t.sec.flash = u.sec.flash ∧ t.top = s.top) ∧
     (∀ u, s.fld F.TOP_STAGE 0 0 = 1 → u = s.flashWrite b.flash → u.romCheck copyA ≠ 0 → u.romCheck copyB = 0 →
       ∃ t, exec (.bringupStageAdvance b env) s = .next t ∧ t.fld F.TOP_STAGE 0 0 = 3 ∧ t.fld F.SEC_BOOT_COPY 0 0 = 1 ∧
         t.fld F.SEC_BOOT_SLOT 0 0 = leAt (u.copyHead copyB) 6 1 % 4 ∧ t.fld F.SEC_BOOT_RESULT 0 0 = u.romCheck copyA ∧
         t.sec.body = u.copyDigest copyB ∧ t.sec.udsShut = true ∧ t.sec.flash = u.sec.flash ∧ t.top = s.top) ∧
     (∀ u, s.fld F.TOP_STAGE 0 0 = 1 → u = s.flashWrite b.flash → u.romCheck copyA ≠ 0 → u.romCheck copyB ≠ 0 →
       ∃ t, exec (.bringupStageAdvance b env) s = .next t ∧ t.fld F.TOP_STAGE 0 0 = 2 ∧ t.top.boot = 0 ∧
         t.fld F.SEC_BOOT_RESULT 0 0 = u.romCheck copyA) ∧
     (s.fld F.TOP_STAGE 0 0 = 3 →
       ∃ t, exec (.bringupStageAdvance b env) s = .next t ∧ t.top = s.top ∧
         t.fld F.TOP_STAGE 0 0 = (if s.top.airflow then 4 else 10) ∧
         s.changesRegs [(.topBoot, 0, 0)] t ∧ s.changes [.emitted, .regs] t) ∧
     (∀ u, s.fld F.TOP_STAGE 0 0 = 4 → u = State.trainLinks (s.setFld F.TOP_BOOT_MS 0 0 (satTo 0xFFFF b.ms)) b →
       (u.failed = true →
         ∃ t, exec (.bringupStageAdvance b env) s = .next t ∧ t.fld F.TOP_STAGE 0 0 = 9 ∧ t.top.boot = 0 ∧ t.lnk = u.lnk) ∧
       (u.failed = false →
         ∃ t, exec (.bringupStageAdvance b env) s = .next t ∧ t.lnk = u.lnk ∧
           t.fld F.LNK_ID_RESULT 0 0 = (identity s.part b).1 ∧ t.fld F.LNK_BAD_TIERS 0 0 = (identity s.part b).2 ∧
           ((identity s.part b).1 = 0 → t.fld F.TOP_STAGE 0 0 = 5 ∧ t.top = s.top) ∧
           ((identity s.part b).1 ≠ 0 → t.fld F.TOP_STAGE 0 0 = 8 ∧ t.top.boot = 0 ∧ t.fld F.LNK_E_IDENT 0 0 = 1))) ∧
     (s.fld F.TOP_STAGE 0 0 = 5 → ∀ ch, b.badChannels = [ch] → ch < Config.channels s.part → s.failed = false →
       ∃ t, exec (.bringupStageAdvance b env) s = .next t ∧ t.fld F.TOP_STAGE 0 0 = 9 ∧ t.top.boot = 0 ∧ t.failed = true ∧
         t.fld F.TOP_FAIL_CAUSE 0 0 = 3 ∧ t.fld F.TOP_FAIL_INFO 0 0 = ch ∧ (t.chan ch).failed = true ∧
         t.fld F.MEM_E_CHANNEL 0 0 = 1) ∧
     (s.fld F.TOP_STAGE 0 0 = 5 → b.badChannels = [] →
       ∃ t, exec (.bringupStageAdvance b env) s = .next t ∧
         t.fld F.TOP_STAGE 0 0 = (if s.top.boot = 1 ∨ s.top.scrubs ≠ [] then 6 else 7) ∧ t.mem = s.mem ∧
         (∀ ch, ch < Config.channels s.part → (t.chan ch).selfRefresh = false) ∧
         (s.top.boot ≠ 1 → s.top.scrubs = [] → t.top.boot = 0 ∧ t.top.stopped = false)) ∧
     (s.fld F.TOP_STAGE 0 0 = 6 → s.top.boot = 1 →
       ∃ t, exec (.bringupStageAdvance b env) s = .next t ∧ t.fld F.TOP_STAGE 0 0 = 7 ∧ t.top.boot = 0 ∧
         t.top.stopped = false ∧ t.mem = []) ∧
     (s.fld F.TOP_STAGE 0 0 = 6 → s.top.boot ≠ 1 →
       ∃ t, exec (.bringupStageAdvance b env) s = .next t ∧ t.fld F.TOP_STAGE 0 0 = 7 ∧
         t.top = { s.top with boot := 0, stopped := false, scrubs := [] } ∧ (s.top.scrubs = [] → t.mem = s.mem))) ∧
  (∀ (b : BootIn) (env : Env) (s : State), s.top.boot = 0 ∨ s.top.p54v = false →
     exec (.bringupStageAdvance b env) s = .next s)

/-- Warm and module resets: the registers, FLR and PERST_N begin QUIESCE with their cause and with memory in self-refresh;
without airflow the reset waits for its return; QUIESCE's end keeps the sticky errors, cluster time, the links and the Weir,
and clears the rest; a weaker reset than the one that runs or waits is ignored; a link reset takes the virtual functions, the
configuration registers and the sessions of the link, and the link comes up again (R306, R484, R486 to R491). -/
def Obligations.WarmAndModuleResets : Prop :=
  (∀ (c : Instr) (k cause value : Nat) (env : Env) (s : State),
    (c = .topRstWarm value env ∧ bit value 2 = false ∧ k = 2 ∧ cause = 4) ∨
    (c = .topRstModule value env ∧ bit value 2 = false ∧ bit value 1 = false ∧ k = 3 ∧ cause = 6) ∨
    (c = .pfFlr env ∧ k = 3 ∧ cause = 5) ∨ (c = .perstN env ∧ k = 2 ∧ cause = 3) →
    s.top.p54v = true → s.top.boot = 0 → s.top.waits = none → 3 ≤ s.fld F.TOP_STAGE 0 0 →
    (s.top.airflow = true →
      ∃ t, exec c s = .next t ∧ t.fld F.TOP_STAGE 0 0 = 11 ∧ t.fld F.TOP_LAST_RESET 0 0 = cause ∧ t.top.boot = k ∧
        t.top.stopped = true ∧ t.top.scrubs = s.toScrub ∧
        (∀ ch, ch < Config.channels s.part → (t.chan ch).selfRefresh = true) ∧
        (c = .perstN env → t.top.perst = false ∧ t.que.linkUp = false) ∧
        s.changes [.emitted, .free, .regs, .mem, .top, .prt, .memc, .que, .pmc, .sec] t) ∧
    (s.top.airflow = false →
      ∃ t, exec c s = .next t ∧ t.fld F.TOP_STAGE 0 0 = 10 ∧ t.top.waits = some (k, cause) ∧ t.top.stopped = true ∧
        s.changesRegs [(.topBoot, 0, 0)] t ∧ s.changes [.emitted, .regs, .top, .que] t)) ∧
  (∀ (c : Instr) (k value : Nat) (env : Env) (s : State),
    (c = .topRstWarm value env ∧ bit value 2 = false ∧ k = 2) ∨
    (c = .topRstModule value env ∧ bit value 2 = false ∧ bit value 1 = false ∧ k = 3) ∨ (c = .pfFlr env ∧ k = 3) →
    (s.top.boot ≠ 0 ∧ s.top.boot < k) ∨ (s.top.boot = 0 ∧ ∃ x, s.top.waits = some x ∧ x.1 ≠ 0 ∧ x.1 < k) →
    exec c s = .next s) ∧
  (∀ (env : Env) (s : State), s.top.boot = 1 →
    ∃ t, exec (.perstN env) s = .next t ∧ t.top = { s.top with perst := false } ∧ t.que = { s.que with linkUp := false } ∧
      s.changes [.top, .que] t) ∧
  (∀ (env : Env) (s : State), s.top.airflow = false →
    (∀ k cause, s.top.waits = some (k, cause) →
      ∃ t, exec (.airflowRestore env) s = .next t ∧ t.fld F.TOP_STAGE 0 0 = 11 ∧ t.top.airflow = true ∧ t.top.boot = k ∧
        t.top.waits = none ∧ t.fld F.TOP_LAST_RESET 0 0 = cause % 2 ^ 4) ∧
    (s.top.waits = none → s.fld F.TOP_STAGE 0 0 = 10 → s.top.boot ≠ 0 →
      ∃ t, exec (.airflowRestore env) s = .next t ∧ t.fld F.TOP_STAGE 0 0 = 4 ∧ t.top = { s.top with airflow := true } ∧
        s.changesRegs [(.topBoot, 0, 0)] t ∧ s.changes [.emitted, .regs, .top] t) ∧
    (s.top.waits = none → s.top.boot = 0 →
      ∃ t, exec (.airflowRestore env) s = .next t ∧ t.top = { s.top with airflow := true } ∧ s.changes [.top] t)) ∧
  (∀ (s : State), s.fld F.TOP_STAGE 0 0 = 11 → s.top.boot = 2 ∨ s.top.boot = 3 →
    ∃ t, exec .quiesceEnd s = .next t ∧
      t.fld F.TOP_STAGE 0 0 = (if s.top.boot = 2 then 3 else if s.top.airflow then 4 else 10) ∧
      t.top = s.top ∧ t.mem = s.mem ∧ t.pmc = s.pmc ∧ t.weir = s.weir ∧ t.lnk = s.lnk ∧ t.clp.time = s.clp.time ∧
      (∀ n, n < 64 → t.tdi n = 0) ∧ t.failed = false ∧
      (∀ r v i, v < 128 → i < 8192 → (errFirstOf r).isSome = true → t.regN r v i = s.regN r v i) ∧
      (∀ c ∈ ([.pte, .cas, .aqd, .cell, .tam, .sta, .pool, .dma] : List Comp), State.reset.same t c)) ∧
  (∀ (env : Env) (s : State), s.top.perst = true → s.top.boot = 0 ∨ s.top.boot = 3 →
    ∃ t, exec (.linkReset env) s = .next t ∧ t.que.linkUp = false ∧ t.prt.vfEnable = false ∧ t.sec.streams = [] ∧
      (∀ fn, t.cfg fn = {}) ∧ (∀ x ∈ t.sec.sessions, x.transport ≠ 0) ∧
      (s.top.boot = 0 → t.fld F.TOP_LAST_RESET 0 0 = 7) ∧ t.top = s.top) ∧
  (∀ (s : State), ∃ t, exec .perstNRise s = .next t ∧ t.top = { s.top with perst := true } ∧ s.changes [.top] t) ∧
  (∀ (cxl : Bool) (s : State),
    ∃ t, exec (.pcieLinkUp cxl) s = .next t ∧ t.que.linkUp = true ∧ t.fld F.QUE_CXL_CACHE 0 0 = b2n cxl ∧
      s.changesRegs [(.queCapLink, 0, 0)] t ∧ s.changes [.regs, .que] t)

/-- Configuration requests: answered with Request Retry Status until the configuration space is up, unsupported for a
function that does not exist, and otherwise with the fields of the function's capabilities and BARs and with the SR-IOV fields of
the part (R14, R304, R305, R328, R368, R484); a field that software writes takes a value the spec lists for it, and keeps its reset
value while a Function Level Reset of the virtual function runs (R377); VF Enable makes the virtual functions exist or resets
their partitions, and a stream of the IDE capability is enabled or disabled (R368, R373, R397). Any other register reads a value
that the model leaves open (log entry 3). Without power or under PERST_N nothing answers. -/
def Obligations.ConfigurationRequests : Prop :=
  ∀ (fn : Nat) (env : Env) (s : State), s.top.p54v = true → s.top.perst = true →
    (∀ req, s.fld F.TOP_STAGE 0 0 = 0 ∨ s.fld F.TOP_STAGE 0 0 = 1 →
      ∃ t, exec (.configRequest fn req env) s = .next t ∧ t.emitted = s.emitted ++ [.config fn none] ∧
        s.changes [.emitted] t) ∧
    (∀ req, 2 ≤ s.fld F.TOP_STAGE 0 0 → fn ≠ 0 → s.vfExists fn = false →
      ∃ t, exec (.configRequest fn req env) s = .next t ∧ t.emitted = s.emitted ++ [.unsupported fn 0] ∧
        s.changes [.emitted] t) ∧
    (2 ≤ s.fld F.TOP_STAGE 0 0 → fn = 0 ∨ s.vfExists fn = true →
      (∀ f, ∃ t, exec (.configRequest fn (.get f) env) s = .next t ∧
        t.emitted = s.emitted ++ [.config fn (some (s.cfgGet fn f))] ∧ s.changes [.emitted] t) ∧
      (∀ f v, fn = 0 ∨ s.resetting (fn - 1) = false ∨ (sget {} s.prt.resets (fn - 1)).trigger ≠ 1 →
        ∃ t l, exec (.configRequest fn (.set f v) env) s = .next t ∧ t.cfg fn = (s.cfg fn).set fn v f ∧
          (∀ g, g ≠ fn → t.cfg g = s.cfg g) ∧ t.emitted = s.emitted ++ l ++ [.config fn (some 0)] ∧
          s.changes [.emitted, .regs, .prt, .pmc] t) ∧
      (∀ f v, fn ≠ 0 → s.resetting (fn - 1) = true → (sget {} s.prt.resets (fn - 1)).trigger = 1 →
        ∃ t, exec (.configRequest fn (.set f v) env) s = .next t ∧ t.emitted = s.emitted ++ [.config fn (some 0)] ∧
          s.changes [.emitted] t) ∧
      (∀ k, ∃ t, exec (.configRequest fn (.sriov k) env) s = .next t ∧
        t.emitted = s.emitted ++ [.config fn (some (if fn = 0 then s.sriov k else 0))] ∧ s.changes [.emitted] t) ∧
      (∀ r, ∃ t x, exec (.configRequest fn (.read r) env) s = .next t ∧ x < 2 ^ 32 ∧
        t.emitted = s.emitted ++ [.config fn (some x)] ∧ s.changes [.emitted, .free] t) ∧
      (∀ r v, ∃ t, exec (.configRequest fn (.write r v) env) s = .next t ∧ t.emitted = s.emitted ++ [.config fn (some 0)] ∧
        s.changes [.emitted] t) ∧
      (fn = 0 → ∃ t, exec (.configRequest fn (.vfEnable true) env) s = .next t ∧ t.prt = { s.prt with vfEnable := true } ∧
        t.emitted = s.emitted ++ [.config 0 (some 0)] ∧ s.changes [.emitted, .prt] t) ∧
      (fn = 0 → ∃ t l, exec (.configRequest fn (.vfEnable false) env) s = .next t ∧ t.prt.vfEnable = false ∧
        t.emitted = s.emitted ++ l ++ [.config 0 (some 0)] ∧
        (s.prt.vfEnable = true → s.prt.numVfs ≤ 64 → ∀ n, n < s.prt.numVfs → s.partEnabled n = true → t.resetting n = true) ∧
        s.changes [.emitted, .regs, .prt, .que, .pmc, .clp, .cas] t) ∧
      (fn ≠ 0 → ∀ on, ∃ t, exec (.configRequest fn (.vfEnable on) env) s = .next t ∧
        t.emitted = s.emitted ++ [.config fn (some 0)] ∧ s.changes [.emitted] t) ∧
      (∀ k en tee, fn = 0 → k < 9 →
        ∃ t, exec (.configRequest fn (.ideStream k en tee) env) s = .next t ∧
          t.stream k = (if en then { s.stream k with enabled := true, tee := tee } else {}) ∧
          (∀ j, j ≠ k → t.stream j = s.stream j) ∧ t.emitted = s.emitted ++ [.config 0 (some 0)] ∧
          s.changes [.emitted, .sec] t) ∧
      (∀ k en tee, fn ≠ 0 ∨ 9 ≤ k →
        ∃ t, exec (.configRequest fn (.ideStream k en tee) env) s = .next t ∧
          t.emitted = s.emitted ++ [.config fn (some 0)] ∧ s.changes [.emitted] t)) ∧
    (∀ req u, u = { s with top := { s.top with p54v := false } } ∨ u = { s with top := { s.top with perst := false } } →
      exec (.configRequest fn req env) u = .next u)

/-! ### Security -/

/-- SPDM on a transport: the version starts the negotiation again, capabilities and algorithms follow in their order and no
other, and once it is over the certificate slot 0, its digest, the challenge and the measurements are answered, a portion that a
message cannot hold waiting for chunks; a slot other than 0, an index past the measurements, or a request before its time, is an
error, and a transport that is not up answers nothing (R392 to R394). SPDM
sessions: a key exchange opens one while fewer than eight are open, FINISH establishes it, and in an established session
heartbeats, key updates, IDE_KM over the physical function's mailbox and its end are answered; chunks make a large request
whole, and a large response is fetched by them (R394, R395). -/
def Obligations.SpdmResponder : Prop :=
  (∀ (tr : Nat) (s : State),
     (s.spdmOpen tr = true →
       (∃ t, exec (.getVersion tr) s = .next t ∧ t.spdmStage tr = 1 ∧
         t.emitted = s.emitted ++ [.spdm tr (.version [0x12, 0x13])] ∧ s.changes [.emitted, .sec] t) ∧
       (∀ c k r, (c = .getCapabilities tr ∧ k = 1 ∧ r = .capabilities spdmCaps 4096) ∨
           (c = .negotiateAlgorithms tr ∧ k = 2 ∧ r = .algorithms spdmAlgs) →
         (s.spdmStage tr = k →
           ∃ t, exec c s = .next t ∧ t.spdmStage tr = k + 1 ∧ t.emitted = s.emitted ++ [.spdm tr r] ∧
             s.changes [.emitted, .sec] t) ∧
         (s.spdmStage tr ≠ k →
           ∃ t, exec c s = .next t ∧ t.emitted = s.emitted ++ [.spdm tr (.error .unexpectedRequest)] ∧
             s.changes [.emitted] t)) ∧
       (s.spdmStage tr = 3 →
         (∃ t, exec (.getDigests tr) s = .next t ∧
           t.emitted = s.emitted ++ [.spdm tr (.digests 1 (Config.sha384 s.chain))] ∧ s.changes [.emitted] t) ∧
         (∀ slot off len, slot ≠ 0 ∨ s.chain.length ≤ off →
           ∃ t, exec (.getCertificate tr slot off len) s = .next t ∧
             t.emitted = s.emitted ++ [.spdm tr (.error .invalidRequest)] ∧ s.changes [.emitted] t) ∧
         (∀ off len, off < s.chain.length → len ≤ spdmRoom →
           ∃ t, exec (.getCertificate tr 0 off len) s = .next t ∧
             t.emitted = s.emitted ++ [.spdm tr (.certificate ((s.chain.drop off).take len)
               (s.chain.length - off - ((s.chain.drop off).take len).length))] ∧ s.changes [.emitted] t) ∧
         (∀ off len, off < s.chain.length → spdmRoom < ((s.chain.drop off).take (len % 65536)).length →
           ∃ t, exec (.getCertificate tr 0 off len) s = .next t ∧
             sget [] t.sec.chunkOut tr = (s.chain.drop off).take (len % 65536) ∧
             t.emitted = s.emitted ++ [.spdm tr (.error (.largeResponse 1))] ∧ s.changes [.emitted, .sec] t) ∧
         (∀ slot nonce, slot ≠ 0 → ∀ c ∈ ([.challenge tr slot nonce, .keyExchange tr slot nonce] : List Instr),
           ∃ t, exec c s = .next t ∧ t.emitted = s.emitted ++ [.spdm tr (.error .invalidRequest)] ∧ s.changes [.emitted] t) ∧
         (∀ nonce,
           ∃ t, exec (.challenge tr 0 nonce) s = .next t ∧ t.emitted = s.emitted ++
             [.spdm tr (.challengeAuth (Config.sha384 s.chain) (s.signed (Config.sha384 s.chain ++ nonce)))] ∧
             s.changes [.emitted] t) ∧
         (∀ op nonce l, (op = 0 ∧ l = []) ∨ (1 ≤ op ∧ op ≤ 6 ∧ l = [s.measurement op]) ∨
             (op = 0xFF ∧ l = (upFrom 1 6).map s.measurement) →
           ∃ t sig, exec (.getMeasurements tr op nonce) s = .next t ∧
             t.emitted = s.emitted ++ [.spdm tr (.measurements 6 l sig)] ∧ s.changes [.emitted] t) ∧
         (∀ op nonce, 6 < op → op ≠ 0xFF →
           ∃ t, exec (.getMeasurements tr op nonce) s = .next t ∧
             t.emitted = s.emitted ++ [.spdm tr (.error .invalidRequest)] ∧ s.changes [.emitted] t))) ∧
     (∀ slot off len op id seq km nonce bytes, ∀ c ∈ ([.getDigests tr, .getCertificate tr slot off len, .challenge tr slot nonce,
         .getMeasurements tr op nonce, .keyExchange tr slot nonce, .finish tr id, .heartbeat tr id, .keyUpdate tr id op,
         .endSession tr id, .vendorDefinedRequest tr id km, .chunkSend tr seq bytes, .chunkGet tr seq] : List Instr),
       (s.spdmOpen tr = true → s.spdmStage tr ≠ 3 →
         ∃ t, exec c s = .next t ∧ t.emitted = s.emitted ++ [.spdm tr (.error .unexpectedRequest)] ∧ s.changes [.emitted] t) ∧
       (s.spdmOpen tr = false → exec c s = .next s)) ∧
     (s.spdmOpen tr = false → ∀ c ∈ ([.getVersion tr, .getCapabilities tr, .negotiateAlgorithms tr] : List Instr),
       exec c s = .next s)) ∧
  (∀ (tr id : Nat) (s : State), s.spdmOpen tr = true → s.spdmStage tr = 3 →
     (∀ nonce, s.sec.sessions.length < 8 →
       ∃ t sig, exec (.keyExchange tr 0 nonce) s = .next t ∧
         t.sec.sessions = s.sec.sessions ++ [{ id := s.sec.nextSession, transport := tr }] ∧
         t.sec.nextSession = s.sec.nextSession + 1 ∧
         t.emitted = s.emitted ++ [.spdm tr (.keyExchange s.sec.nextSession sig)] ∧ s.changes [.emitted, .sec] t) ∧
     (∀ nonce, 8 ≤ s.sec.sessions.length →
       ∃ t, exec (.keyExchange tr 0 nonce) s = .next t ∧
         t.emitted = s.emitted ++ [.spdm tr (.error .sessionLimitExceeded)] ∧ s.changes [.emitted] t) ∧
     (∀ x, s.session tr id = some x → x.finished = false →
       ∃ t, exec (.finish tr id) s = .next t ∧ t.session tr id = some { x with finished := true } ∧
         t.emitted = s.emitted ++ [.spdm tr .finish] ∧ s.changes [.emitted, .sec] t) ∧
     (∀ x, s.session tr id = some x → x.finished = true →
       (∃ t, exec (.finish tr id) s = .next t ∧ t.emitted = s.emitted ++ [.spdm tr (.error .unexpectedRequest)] ∧
         s.changes [.emitted] t) ∧
       (∃ t, exec (.heartbeat tr id) s = .next t ∧ t.emitted = s.emitted ++ [.spdm tr .heartbeatAck] ∧
         s.changes [.emitted] t) ∧
       (∀ op, 1 ≤ op → op ≤ 3 →
         ∃ t, exec (.keyUpdate tr id op) s = .next t ∧
           t.session tr id = some { x with updates :=
             (if op = 3 then x.updates.1 else x.updates.1 + 1, if op = 2 then x.updates.2 + 1 else x.updates.2) } ∧
           t.emitted = s.emitted ++ [.spdm tr (.keyUpdateAck op)] ∧ s.changes [.emitted, .sec] t) ∧
       (tr ≠ 0 → ∀ km, ∃ t, exec (.vendorDefinedRequest tr id km) s = .next t ∧
         t.emitted = s.emitted ++ [.spdm tr (.error .invalidRequest)] ∧ s.changes [.emitted] t) ∧
       (∃ t, exec (.endSession tr id) s = .next t ∧ t.session tr id = none ∧
         t.emitted = s.emitted ++ [.spdm tr .endSessionAck] ∧ s.changes [.emitted, .sec] t) ∧
       (tr = 0 →
         (∃ t, exec (.vendorDefinedRequest tr id .query) s = .next t ∧ t.emitted = s.emitted ++ [.spdm tr (.ideQuery 9)] ∧
           s.changes [.emitted] t) ∧
         (∀ k set dir sub, k < 9 → set < 2 → dir < 2 → sub < 3 →
           ∃ t, exec (.vendorDefinedRequest tr id (.keyProg k set dir sub)) s = .next t ∧
             ideKey set dir sub ∈ (t.stream k).keyed ∧ (t.stream k).going = (s.stream k).going ∧
             t.emitted = s.emitted ++ [.spdm tr (.ideKeyAck true)] ∧ s.changes [.emitted, .sec] t) ∧
         (∀ k set dir sub, ideKey set dir sub ∉ (s.stream k).keyed →
           ∃ t, exec (.vendorDefinedRequest tr id (.setGo k set dir sub)) s = .next t ∧
             t.emitted = s.emitted ++ [.spdm tr (.ideGoStopAck false)] ∧ s.changes [.emitted] t) ∧
         (∀ k set dir sub, ideKey set dir sub ∈ (s.stream k).keyed →
           ∃ t, exec (.vendorDefinedRequest tr id (.setGo k set dir sub)) s = .next t ∧
             ideKey set dir sub ∈ (t.stream k).going ∧
             (t.stream k).secure = ((s.stream k).enabled && (t.stream k).whole) ∧
             t.emitted = s.emitted ++ [.spdm tr (.ideGoStopAck true)] ∧ s.changes [.emitted, .sec] t) ∧
         (∀ k set dir sub,
           ∃ t, exec (.vendorDefinedRequest tr id (.setStop k set dir sub)) s = .next t ∧
             ideKey set dir sub ∉ (t.stream k).going ∧ ideKey set dir sub ∉ (t.stream k).keyed ∧
             (t.stream k).secure = ((s.stream k).secure && (t.stream k).whole) ∧
             t.emitted = s.emitted ++ [.spdm tr (.ideGoStopAck true)] ∧ s.changes [.emitted, .sec] t))) ∧
     (s.session tr id = none → ∀ op km, ∀ c ∈ ([.finish tr id, .heartbeat tr id, .keyUpdate tr id op, .endSession tr id,
         .vendorDefinedRequest tr id km] : List Instr),
       ∃ t, exec c s = .next t ∧ t.emitted = s.emitted ++ [.spdm tr (.error .invalidSession)] ∧ s.changes [.emitted] t) ∧
     (∀ seq bytes, bytes.length ≤ spdmRoom →
       ∃ t, exec (.chunkSend tr seq bytes) s = .next t ∧
         sget [] t.sec.chunkIn tr = (if seq = 0 then bytes else sget [] s.sec.chunkIn tr ++ bytes) ∧
         t.emitted = s.emitted ++ [.spdm tr (.chunkSendAck seq)] ∧ s.changes [.emitted, .sec] t) ∧
     (∀ seq d, d = sget [] s.sec.chunkOut tr → spdmRoom * seq < d.length →
       ∃ t, exec (.chunkGet tr seq) s = .next t ∧ t.emitted = s.emitted ++
           [.spdm tr (.chunk seq (decide (d.length ≤ spdmRoom * (seq + 1))) ((d.drop (spdmRoom * seq)).take spdmRoom))] ∧
         s.changes [.emitted, .sec] t))

/-- A device interface: the queries say what it is; a lock that R397 allows draws a new key, zeroes what the partition's
tables map, but for what lies behind a fenced die link, where no other access waits at the channels, and binds the stream; the report and the start belong to a locked interface; a stop is a partition reset that
answers at its end; and a stream that fails its integrity check takes every interface bound to it into ERROR, which is stated
where no core, order or transfer of theirs runs (R395 to R400). An interface that does not exist, or whose link is down, answers
nothing. -/
def Obligations.DeviceInterfaces : Prop :=
  (∀ (n : Nat) (s : State), n < 64 → s.tdiOpen n = true →
    (∃ t, exec (.getTdispVersion n) s = .next t ∧ t.emitted = s.emitted ++ [.tdisp n .version] ∧ s.changes [.emitted] t) ∧
    (∃ t, exec (.getTdispCapabilities n) s = .next t ∧ t.emitted = s.emitted ++ [.tdisp n (.capabilities tdispMsgs)] ∧
      s.changes [.emitted] t) ∧
    (∃ t, exec (.getDeviceInterfaceState n) s = .next t ∧ t.emitted = s.emitted ++ [.tdisp n (.state (s.tdi n))] ∧
      s.changes [.emitted] t) ∧
    (∀ stream env, s.tdi n ≠ 0 →
      ∃ t, exec (.lockInterfaceRequest n stream env) s = .next t ∧
        t.emitted = s.emitted ++ [.tdisp n (.error .invalidInterfaceState)] ∧ s.changes [.emitted] t) ∧
    (∀ stream env, s.tdi n = 0 → s.lockRefused n stream = true →
      ∃ t, exec (.lockInterfaceRequest n stream env) s = .next t ∧
        t.emitted = s.emitted ++ [.tdisp n (.error .invalidDeviceConfiguration)] ∧ s.changes [.emitted] t) ∧
    (∀ stream env u tree, s.tdi n = 0 → s.lockRefused n stream = false → s.tree env n = (u, tree) →
      ∃ t l, exec (.lockInterfaceRequest n stream env) s = .next t ∧ t.tdi n = 1 ∧ t.fld F.SEC_STREAM 0 n = stream ∧
        t.xtsKey n = s.sec.drawn + 1 ∧ t.sec.drawn = s.sec.drawn + 1 ∧ t.emitted = s.emitted ++ l ++ [.tdisp n .locked] ∧
        ((∀ ch, (s.chan ch).queue = []) → ∀ e ∈ tree.leaves, bit e.2.2 3 = false → ∀ i, i < 2 ^ (9 * e.2.1) → ∀ ch off,
          dpaRoute s.part (bits e.2.2 51 12 * 4096 + 4096 * i) = some (ch, off) → s.cut .plinth (chanDie ch) = false →
          ∀ j, j < 4096 → t.byte (physKey ch off + j) = 0) ∧
        s.changes [.emitted, .free, .regs, .mem, .prt, .memc, .que, .pmc, .sec] t) ∧
    (s.tdi n = 1 ∨ s.tdi n = 2 →
      ∃ t, exec (.getDeviceInterfaceReport n) s = .next t ∧ t.emitted = s.emitted ++
        [.tdisp n (.report [(0, 0x100000, true), (2, 0x1000000, true)] (s.reportArea n))] ∧ s.changes [.emitted] t) ∧
    (s.tdi n ≠ 1 → s.tdi n ≠ 2 →
      ∃ t, exec (.getDeviceInterfaceReport n) s = .next t ∧
        t.emitted = s.emitted ++ [.tdisp n (.error .invalidInterfaceState)] ∧ s.changes [.emitted] t) ∧
    (s.tdi n = 1 →
      ∃ t l, exec (.startInterfaceRequest n) s = .next t ∧ t.tdi n = 2 ∧
        t.emitted = s.emitted ++ l ++ [.tdisp n .started] ∧ s.changesRegs [(.secConf, 0, n)] t ∧
        s.changes [.emitted, .regs, .que] t) ∧
    (s.tdi n ≠ 1 →
      ∃ t, exec (.startInterfaceRequest n) s = .next t ∧
        t.emitted = s.emitted ++ [.tdisp n (.error .invalidInterfaceState)] ∧ s.changes [.emitted] t) ∧
    (∀ env, s.tdi n = 0 →
      ∃ t, exec (.stopInterfaceRequest n env) s = .next t ∧ t.emitted = s.emitted ++ [.tdisp n .stopped] ∧
        s.changes [.emitted] t) ∧
    (∀ env, s.tdi n ≠ 0 → s.partEnabled n = true → s.resetting n = false →
      ∃ t, exec (.stopInterfaceRequest n env) s = .next t ∧ (sget {} t.prt.resets n).phase = 1 ∧
        (sget {} t.prt.resets n).trigger = 2 ∧ (sget {} t.prt.resets n).reply = true ∧
        s.changes [.emitted, .regs, .prt, .que, .pmc, .clp, .cas] t)) ∧
  (∀ (n stream : Nat) (env : Env) (s : State), s.tdiOpen n = false →
    ∀ c ∈ ([.getTdispVersion n, .getTdispCapabilities n, .getDeviceInterfaceState n, .lockInterfaceRequest n stream env,
      .getDeviceInterfaceReport n, .startInterfaceRequest n, .stopInterfaceRequest n env] : List Instr), exec c s = .next s) ∧
  (∀ (k : Nat) (env : Env) (s : State), (s.stream k).enabled = false ∨ (s.stream k).secure = false →
    exec (.ideIntegrityFailure k env) s = .next s) ∧
  (∀ (k : Nat) (env : Env) (s : State), (s.stream k).enabled = true → (s.stream k).secure = true →
    ∃ t, exec (.ideIntegrityFailure k env) s = .next t ∧ (t.stream k).secure = false ∧
      (s.boundTo k = [] → t.fld F.SEC_E_IDE 0 0 = 1 ∧ s.changes [.regs, .sec] t) ∧
      (s.dma.runs = [] → s.pool = [] → ∀ n ∈ s.boundTo k, t.tdi n = 3) ∧
      s.changes [.emitted, .free, .regs, .mem, .prt, .memc, .que, .pmc, .clp, .hmp, .cas, .pool, .dma, .sec] t)

/-- Security operations and fuses: a key-release blob that opens puts its key into its slot, one that does not leaves the
slot; an ingest without a key ends NO_KEY and writes nothing; the end of an operation shows its status; and fuses are blown
up to the target, never above the running image's version (R391, R407 to R410). -/
def Obligations.SecurityOperations : Prop :=
  (∀ (n : Nat) (env : Env) (s u : State) (r : Resp) (b blob : List Byte), s.sop n 1 = some b →
    s.readVa env (otherRq n .plinth) (leAt b 8 8) 256 = (u, r, blob) →
    (∀ key, r = .okay → blobOk blob = true → Config.openBlob (sget 0 u.sec.xts n) blob = some key →
      ∃ t, exec (.keyInstall n env) s = .next t ∧ sget none t.sec.slots (4 * n + leAt b 1 1) = some (fit 32 key) ∧
        sget none t.sec.ops n = some ⟨b, some 0⟩ ∧ t.mem = u.mem ∧
        s.changes [.emitted, .free, .regs, .mem, .prt, .memc, .que, .pmc, .sec] t) ∧
    (r = .okay → blobOk blob = false →
      ∃ t, exec (.keyInstall n env) s = .next t ∧ t.sec.slots = s.sec.slots ∧ sget none t.sec.ops n = some ⟨b, some 1⟩) ∧
    (r ≠ .okay →
      ∃ t, exec (.keyInstall n env) s = .next t ∧ t.sec.slots = s.sec.slots ∧ sget none t.sec.ops n = some ⟨b, some 5⟩)) ∧
  (∀ (n : Nat) (env : Env) (s : State) (b : List Byte), s.sop n 2 = some b →
    (sget none s.sec.slots (4 * n + leAt b 1 1) = none →
      ∃ t, exec (.ingest n env) s = .next t ∧ sget none t.sec.ops n = some ⟨b, some 3⟩ ∧ s.changes [.sec] t) ∧
    (∀ key u st, sget none s.sec.slots (4 * n + leAt b 1 1) = some key →
      s.segments env n key (leAt b 16 8) (leAt b 4 4 / 64) (leAt b 8 8) (leAt b 4 4) = (u, st) →
      ∃ t, exec (.ingest n env) s = .next t ∧ sget none t.sec.ops n = some ⟨b, some st⟩ ∧ t.mem = u.mem ∧
        t.sec.slots = s.sec.slots ∧ s.changes [.emitted, .free, .regs, .mem, .prt, .memc, .que, .pmc, .sec] t)) ∧
  (∀ (n st : Nat) (s : State) (b : List Byte), n < 64 → sget none s.sec.ops n = some ⟨b, some st⟩ →
    ∃ t, exec (.secOpComplete n) s = .next t ∧ t.fld F.SEC_OP_BUSY (n + 1) 0 = 0 ∧
      t.fld F.SEC_OP_STATUS (n + 1) 0 = st % 2 ^ 8 ∧ sget none t.sec.ops n = none ∧
      (st ≠ 0 → t.fld F.SEC_E_OP 0 0 = 1) ∧ (st = 0 → s.changesRegs [(.secOpCtrl, n + 1, 0)] t) ∧
      s.changes [.regs, .sec] t) ∧
  (∀ (value : Nat) (s : State), value % 256 ≤ s.fld F.SEC_SVN_IMG 0 0 →
    ∃ t, exec (.secSvnBurn value) s = .next t ∧ t.sec = { s.sec with svn := max s.sec.svn (value % 256) } ∧
      t.fld F.SEC_SVN_FUSE 0 0 = max s.sec.svn (value % 256) % 2 ^ 8 ∧
      s.changesRegs [(.secBoot, 0, 0)] t ∧ s.changes [.regs, .sec] t) ∧
  (∀ (value : Nat) (s : State), s.fld F.SEC_SVN_IMG 0 0 < value % 256 →
    ∃ t, exec (.secSvnBurn value) s = .next t ∧ t.fld F.SEC_E_CMD 0 0 = 1 ∧ t.sec = s.sec ∧ s.changes [.regs] t)

/-! ### The Weir -/

/-- The powered Weir holds the command `o`, of operation `op`, and is not in its fault state. -/
def Sys2Proof.Machine.State.weirHolds (s : State) (op : Nat) (o : WeirOrder) : Prop :=
  s.weir.order = some o ∧ o.op = op ∧ s.weir.powered = true ∧ s.weir.fault = false

/-- The command has ended with a status. -/
def Sys2Proof.Machine.State.weirEnded (s : State) (st : Nat) (t : State) : Prop :=
  t.fld F.WEIR_BUSY 0 0 = 0 ∧ t.fld F.WEIR_CMD_STATUS 0 0 = st ∧ t.weir.order = none ∧
  s.changes [.emitted, .regs, .prt, .que, .pmc, .weir] t

/-- The Weir's commands: OPEN and CLOSE write their record behind those that wait, and begin or end the session; READ loads a
committed record, ACK frees those up to it, and READ_KEY loads the key; an image is refused while the seal is closed; each
says with its status what it could not do, with eight records waiting of which none can make room, or in the fault state, among
others; and a Weir without power, or that holds another command or none, runs nothing (R416 to R422, R424, R426). Waiting records count against the room of the log, and
sessions are numbered from 1: the model's choices (log entry 30). -/
def Obligations.WeirCommands : Prop :=
  (∀ (w : WeirIn) (s : State) (o : WeirOrder), s.weirHolds 1 o →
    (o.part < Config.parts s.part → s.weir.session o.part = none → s.weir.sessions.length + 4 ≤ s.weir.room →
      s.weir.waiting.length < 8 →
      ∃ t x r, exec (.weirOpen w) s = .next t ∧ s.weirEnded 0 t ∧ t.weir.session o.part = some x ∧
        x.number = s.weir.nextSession + 1 ∧ x.occ = 0 ∧ t.weir.nextSeq = s.weir.nextSeq + 1 ∧
        t.weir.waiting = s.weir.waiting ++ [r] ∧ r.kind = 1 ∧ r.part = o.part ∧ r.seq = s.weir.nextSeq) ∧
    (∀ x, o.part < Config.parts s.part → s.weir.session o.part = some x →
      ∃ t, exec (.weirOpen w) s = .next t ∧ s.weirEnded 2 t ∧ t.weir.nextSeq = s.weir.nextSeq) ∧
    (Config.parts s.part ≤ o.part → ∃ t, exec (.weirOpen w) s = .next t ∧ s.weirEnded 3 t ∧
      t.weir.nextSeq = s.weir.nextSeq) ∧
    (o.part < Config.parts s.part → s.weir.session o.part = none → s.weir.room < s.weir.sessions.length + 4 →
      ∃ t, exec (.weirOpen w) s = .next t ∧ s.weirEnded 1 t ∧ t.weir.nextSeq = s.weir.nextSeq ∧
        (s.weirLink = true → t.fld F.WEIR_E_FULL 0 0 = 1))) ∧
  (∀ (w : WeirIn) (s : State) (o : WeirOrder) (x : WeirSession), s.weirHolds 2 o → o.part < Config.parts s.part →
    s.weir.session o.part = some x → s.weir.waiting.length < 8 →
    ∃ t r, exec (.weirClose w) s = .next t ∧ s.weirEnded 0 t ∧ t.weir.session o.part = none ∧
      t.weir.waiting = s.weir.waiting ++ [r] ∧ r.kind = 3 ∧ r.part = o.part ∧ r.seq = s.weir.nextSeq) ∧
  (∀ (w : WeirIn) (s : State) (o : WeirOrder), s.weirHolds 2 o →
    (o.part < Config.parts s.part → s.weir.session o.part = none →
      ∃ t, exec (.weirClose w) s = .next t ∧ s.weirEnded 2 t ∧ t.weir.nextSeq = s.weir.nextSeq) ∧
    (Config.parts s.part ≤ o.part →
      ∃ t, exec (.weirClose w) s = .next t ∧ s.weirEnded 3 t ∧ t.weir.nextSeq = s.weir.nextSeq)) ∧
  (∀ (w : WeirIn) (s : State) (o : WeirOrder) (c : Instr), 8 ≤ s.weir.waiting.length → s.weir.spare = none →
    o.part < Config.parts s.part →
    (c = .weirOpen w ∧ s.weirHolds 1 o ∧ s.weir.session o.part = none ∧ s.weir.sessions.length + 4 ≤ s.weir.room) ∨
    (c = .weirClose w ∧ s.weirHolds 2 o ∧ (s.weir.session o.part).isSome = true) →
    ∃ t, exec c s = .next t ∧ s.weirEnded 7 t ∧ t.weir.nextSeq = s.weir.nextSeq ∧ t.weir.waiting = s.weir.waiting) ∧
  (∀ (w : WeirIn) (env : Env) (s : State) (op : Nat) (c : Instr),
    (op, c) ∈ ([(1, .weirOpen w), (2, .weirClose w), (3, .weirRead w), (4, .weirAck w), (5, .readKey w), (6, .fwLoad w env),
      (7, .calLoad w env)] : List (Nat × Instr)) →
    (∀ o, s.weir.order = some o → o.op = op → s.weir.powered = true → s.weir.fault = true → op ≠ 3 → op ≠ 5 →
      ∃ t, exec c s = .next t ∧ s.weirEnded 8 t ∧ t.weir.log = s.weir.log ∧ t.weir.nextSeq = s.weir.nextSeq) ∧
    (s.weir.powered = false ∨ s.weir.order = none ∨ (∃ o, s.weir.order = some o ∧ o.op ≠ op) → exec c s = .next s)) ∧
  (∀ (w : WeirIn) (s : State) (o : WeirOrder), s.weirHolds 3 o →
    (∀ e, s.weir.log.find? (fun e => e.1 = o.arg % 2 ^ 32) = some e →
      ∃ t, exec (.weirRead w) s = .next t ∧ s.weirEnded 0 t ∧ t.weir.highRead = max s.weir.highRead (o.arg % 2 ^ 32) ∧
        t.weir.log = s.weir.log ∧ ∀ i, i < 40 → t.fld F.WEIR_RECORD 0 i = leAt e.2 (4 * i) 4) ∧
    (s.weir.log.find? (fun e => e.1 = o.arg % 2 ^ 32) = none →
      ∃ t, exec (.weirRead w) s = .next t ∧ s.weirEnded 6 t ∧ t.weir.log = s.weir.log)) ∧
  (∀ (w : WeirIn) (s : State) (o : WeirOrder), s.weirHolds 4 o →
    (o.arg % 2 ^ 32 ≤ s.weir.highRead →
      ∃ t, exec (.weirAck w) s = .next t ∧ s.weirEnded 0 t ∧
        t.weir.log = s.weir.log.filter (fun e => o.arg % 2 ^ 32 < e.1)) ∧
    (s.weir.highRead < o.arg % 2 ^ 32 →
      ∃ t, exec (.weirAck w) s = .next t ∧ s.weirEnded 6 t ∧ t.weir.log = s.weir.log)) ∧
  (∀ (w : WeirIn) (s : State) (o : WeirOrder), s.weirHolds 5 o →
    ∃ t, exec (.readKey w) s = .next t ∧ s.weirEnded 0 t ∧ t.weir.log = s.weir.log ∧
      ∀ i, i < 40 → t.fld F.WEIR_RECORD 0 i = leAt (fit 96 Config.weirKey) (4 * i) 4) ∧
  (∀ (w : WeirIn) (env : Env) (s : State) (o : WeirOrder) (fw : Bool) (c : Instr),
    (fw = true ∧ c = .fwLoad w env ∧ s.weirHolds 6 o) ∨ (fw = false ∧ c = .calLoad w env ∧ s.weirHolds 7 o) →
    (w.jumper = false → ∃ t, exec c s = .next t ∧ s.weirEnded 4 t ∧ t.weir.sealCount = s.weir.sealCount) ∧
    (∀ h body, w.jumper = true → s.weir.sealCount < 0xFFFF → env.hostFail = [] → h = hostBytes env o.arg 256 →
      body = hostBytes env (o.arg + 256) (leAt h 8 4) → o.arg % 64 = 0 →
      (if fw then leAt h 8 4 ≤ 0x40000 ∧ leAt h 8 4 % 4096 = 0 else leAt h 8 4 = 4096) →
      weirImageOk h body (if fw then 0x45575847 else 0x4C435847) = true →
      s.weir.sessions.length + 1 ≤ s.weir.room → s.weir.waiting.length < 8 →
      ∃ t r, exec c s = .next t ∧ s.weirEnded 0 t ∧ t.weir.sealCount = s.weir.sealCount + 1 ∧
        t.weir.waiting = s.weir.waiting ++ [r] ∧ r.kind = 6 ∧
        (if fw then t.weir.nextFw = some (Config.sha384 body) ∧ t.weir.calDigest = s.weir.calDigest
          else t.weir.calDigest = Config.sha384 body ∧ t.weir.nextFw = s.weir.nextFw)))

/-- What the Weir does by itself: it commits its oldest waiting record while its capacitor holds enough, and defers the
commit otherwise; a second failed readback is its fault state; an open session gets a record every period; it follows the
owners of the pools while its link is up; it loses the link with the command that ran, and delivers what it held when the
link returns; it halts with its power, and starts again from its newest record (R413, R414, R417, R420, R422 to R426). -/
def Obligations.WeirByItself : Prop :=
  (∀ (w : WeirIn) (s : State) (r : WeirRec) (rest : List WeirRec), s.weir.waiting = r :: rest → s.weir.commit = none →
    s.weir.fault = false → s.weir.powered = true →
    (3600 ≤ w.uj →
      ∃ t, exec (.commitRetry w) s = .next t ∧ t.weir.commit = some 0 ∧ t.weir.waiting = s.weir.waiting ∧
        s.changes [.regs, .weir] t) ∧
    (w.uj < 3600 → s.weir.deferring = false → s.weirLink = true →
      ∃ t, exec (.commitRetry w) s = .next t ∧ t.weir.commit = none ∧ t.weir.deferring = true ∧
        t.fld F.WEIR_E_DEFER 0 0 = 1 ∧ s.changes [.emitted, .regs, .prt, .que, .pmc, .weir] t)) ∧
  (∀ (w : WeirIn) (s : State) (r : WeirRec) (rest : List WeirRec) (k : Nat), s.weir.waiting = r :: rest →
    s.weir.commit = some k →
    (∃ t, exec (.commitDone true w) s = .next t ∧ t.weir.log = s.weir.log ++ [(r.seq, r.bytes)] ∧ t.weir.waiting = rest ∧
      s.changes [.emitted, .regs, .prt, .que, .pmc, .weir] t) ∧
    (k = 0 → ∃ t, exec (.commitDone false w) s = .next t ∧ t.weir.commit = some 1 ∧ t.weir.log = s.weir.log) ∧
    (k ≠ 0 → ∃ t, exec (.commitDone false w) s = .next t ∧ t.weir.commit = none ∧ t.weir.fault = true ∧
      t.weir.log = s.weir.log ∧ (s.weirLink = true → t.fld F.WEIR_E_NVM 0 0 = 1 ∧ t.fld F.WEIR_FAULT 0 0 = 1))) ∧
  (∀ (n : Nat) (w : WeirIn) (s : State) (x : WeirSession), s.weir.powered = true → s.weir.session n = some x →
    s.fld F.WEIR_INTERVAL_MIN 0 0 ≠ 0 → x.since + s.fld F.WEIR_INTERVAL_MIN 0 0 * 60000 ≤ s.weir.wtime + w.ms →
    s.weir.sessions.length + 1 ≤ s.weir.room → s.weir.waiting.length < 8 →
    ∃ t r, exec (.intervalRecord n w) s = .next t ∧ t.weir.waiting = s.weir.waiting ++ [r] ∧ r.kind = 2 ∧ r.part = n ∧
      r.seq = s.weir.nextSeq ∧ t.weir.wtime = s.weir.wtime + w.ms ∧ t.weir.energy = (s.weir.energy + w.mj) % 2 ^ 64 ∧
      s.changes [.emitted, .regs, .prt, .que, .pmc, .weir] t) ∧
  (∀ (w : WeirIn) (s : State), s.weir.powered = true → s.weirLink = true →
    (∃ t, exec (.ownerMessage w) s = .next t ∧
      t.weir.owners = (upFrom 0 (Config.pools s.part)).map (fun p => (s.owner p).getD 0xFF) ∧
      t.fld F.WEIR_ENERGY 0 0 = (s.weir.energy + w.mj) % 2 ^ 64 ∧ s.changes [.regs, .weir] t) ∧
    (∃ t, exec (.weirLinkDown w) s = .next t ∧ t.weirLink = false ∧ t.weir.owners = [] ∧ t.weir.order = none ∧
      t.fld F.WEIR_BUSY 0 0 = 0 ∧ (s.flag F.WEIR_BUSY 0 0 = true → t.fld F.WEIR_CMD_STATUS 0 0 = 9) ∧
      t.fld F.WEIR_E_LINK 0 0 = 1 ∧ s.changes [.regs, .weir] t)) ∧
  (∀ (w : WeirIn) (s : State), s.weir.powered = true → s.weirLink = false →
    ∃ t, exec (.weirLinkUp w) s = .next t ∧ t.weirLink = true ∧ t.weir.late = [] ∧ t.weir.held = none ∧
      t.fld F.WEIR_ENERGY 0 0 = (s.weir.energy + w.mj) % 2 ^ 64 ∧
      s.changes [.emitted, .regs, .prt, .que, .pmc, .weir] t) ∧
  (∀ (w : WeirIn) (s : State), s.weir.powered = true →
    ∃ t, exec (.standbyLoss w) s = .next t ∧ t.top = { s.top with standby := false } ∧ t.mgmt = {} ∧
      t.weir.powered = false ∧ t.weir.waiting = [] ∧ t.weir.commit = none ∧ t.weirLink = false ∧
      (∃ l, t.weir.log = s.weir.log ++ l) ∧ s.changes [.regs, .top, .weir, .mgmt] t) ∧
  (∀ (w : WeirIn) (s : State), s.weir.powered = false → s.top.standby = true →
    s.weir.sessions.length + 1 ≤ s.weir.room → s.weir.waiting.length < 8 →
    ∃ t r, exec (.weirPowerUp w) s = .next t ∧ t.weir.powered = true ∧ t.weir.fault = false ∧
      t.weir.wtime = (s.weir.newest.map (·.2.1)).getD 0 ∧ t.weir.energy = (s.weir.newest.map (·.2.2)).getD 0 ∧
      t.weir.fwDigest = s.weir.nextFw.getD s.weir.fwDigest ∧ t.weir.waiting = s.weir.waiting ++ [r] ∧ r.kind = 4 ∧
      s.changes [.emitted, .regs, .prt, .que, .pmc, .weir] t)

/-! ### The management endpoint -/

/-- The management endpoint answers while the standby rail is good: its MCTP control messages, its PLDM terminus and its
types, its sensors as the registers hold them once the firmware runs, and its event receiver; what it does not know it refuses;
the console takes characters only where debug is enabled and the firmware runs (R500, R501). The code numbers in the answers are PRESUMED (log entry 32). -/
def Obligations.ManagementEndpoint : Prop :=
  (∀ (s : State), s.top.standby = true →
    (∀ e, 1 ≤ e → e < 0xFF →
      ∃ t, exec (.mctpControlMessage (.setEndpointId e)) s = .next t ∧ t.mgmt = { s.mgmt with eid := e } ∧
        t.emitted = s.emitted ++ [.mctp 0 [0, e, 0]] ∧ s.changes [.emitted, .mgmt] t) ∧
    (∃ t, exec (.mctpControlMessage .getEndpointId) s = .next t ∧ t.emitted = s.emitted ++ [.mctp 0 [s.mgmt.eid, 0, 0]] ∧
      s.changes [.emitted] t) ∧
    (∀ req l, (req, l) ∈ ([(.getVersion, []), (.getMessageTypes, [0, 1, 5, 6])] : List (MctpReq × List Nat)) →
      ∃ t, exec (.mctpControlMessage req) s = .next t ∧ t.emitted = s.emitted ++ [.mctp 0 l] ∧ s.changes [.emitted] t) ∧
    (∀ e, e = 0 ∨ 0xFF ≤ e →
      (∃ t, exec (.mctpControlMessage (.setEndpointId e)) s = .next t ∧ t.emitted = s.emitted ++ [.mctp 2 []] ∧
        s.changes [.emitted] t) ∧
      (∃ t, exec (.setTid e) s = .next t ∧ t.emitted = s.emitted ++ [.pldm (.done false)] ∧ s.changes [.emitted] t)) ∧
    (∀ n, n ≠ 0 → n ≠ 2 → ∀ c ∈ ([.getPldmVersion n, .getPldmCommands n] : List Instr),
      ∃ t, exec c s = .next t ∧ t.emitted = s.emitted ++ [.pldm (.done false)] ∧ s.changes [.emitted] t) ∧
    (∀ n, 6 ≤ n →
      ∃ t, exec (.getSensorReading n) s = .next t ∧ t.emitted = s.emitted ++ [.pldm (.done false)] ∧ s.changes [.emitted] t) ∧
    (∀ n, ∃ t, exec (.mctpControlMessage (.other n)) s = .next t ∧ t.emitted = s.emitted ++ [.mctp 5 []] ∧
      s.changes [.emitted] t) ∧
    (∀ tid, 1 ≤ tid → tid < 0xFF →
      ∃ t, exec (.setTid tid) s = .next t ∧ t.mgmt = { s.mgmt with tid := tid } ∧
        t.emitted = s.emitted ++ [.pldm (.done true)] ∧ s.changes [.emitted, .mgmt] t) ∧
    (∀ r, ∃ t, exec (.setEventReceiver r) s = .next t ∧ t.mgmt = { s.mgmt with receiver := r } ∧
      t.emitted = s.emitted ++ [.pldm (.done true)] ∧ s.changes [.emitted, .mgmt] t) ∧
    (∀ c r, (c, r) ∈ ([(.getTid, .tid s.mgmt.tid), (.getPldmVersion 0, .version 0), (.getPldmVersion 2, .version 2),
        (.getPldmTypes, .types [0, 2]), (.getPldmCommands 0, .commands [1, 2, 3, 4, 5]),
        (.getPldmCommands 2, .commands [0x04, 0x11, 0x21, 0x50, 0x51]), (.getPdrRepositoryInfo, .repository 11)] :
        List (Instr × PldmResp)) →
      ∃ t, exec c s = .next t ∧ t.emitted = s.emitted ++ [.pldm r] ∧ s.changes [.emitted] t) ∧
    (∀ n, 1 ≤ n → n ≤ 11 →
      ∃ t, exec (.getPdr n) s = .next t ∧
        t.emitted = s.emitted ++ [.pldm (.pdr n (decide (7 ≤ n)) (if n ≤ 6 then n - 1 else n - 7))] ∧ s.changes [.emitted] t) ∧
    (∀ n, n = 0 ∨ 12 ≤ n →
      ∃ t, exec (.getPdr n) s = .next t ∧ t.emitted = s.emitted ++ [.pldm (.done false)] ∧ s.changes [.emitted] t) ∧
    (∀ n f, (n, f) ∈ ([(0, F.PWR_INPUT_DW), (1, F.PWR_LIMIT_W), (2, F.PWR_T_TIER), (3, F.PWR_T_PLINTH), (4, F.PWR_T_MEM),
        (5, F.PWR_T_VR)] : List (Nat × Fld)) →
      ∃ t, exec (.getSensorReading n) s = .next t ∧ s.changes [.emitted] t ∧
        t.emitted = s.emitted ++ [.pldm (.reading (if 3 ≤ s.fld F.TOP_STAGE 0 0 then some (s.fld f 0 0) else none))]) ∧
    (s.fld F.TOP_STAGE 0 0 < 3 →
      ∃ t, exec .getStateSensorReadings s = .next t ∧ s.changes [.emitted] t ∧
        t.emitted = s.emitted ++ [.pldm (.states [none, none, none, none, none])]) ∧
    (3 ≤ s.fld F.TOP_STAGE 0 0 →
      ∃ t, exec .getStateSensorReadings s = .next t ∧ s.changes [.emitted] t ∧
        t.emitted = s.emitted ++ [.pldm (.states [some (s.fld F.TOP_STAGE 0 0), some (s.fld F.PWR_AIRFLOW_STATE 0 0),
          some (s.fld F.PWR_TRIPPED 0 0), some (s.fld F.TOP_FAILED 0 0), some (b2n s.pwr.alert)])])) ∧
  (∀ (s : State), s.top.standby = false → ∀ tid r n req c,
    c ∈ ([.getTid, .setTid tid, .getPldmVersion n, .getPldmTypes, .getPldmCommands n, .getPdrRepositoryInfo, .getPdr n,
      .getSensorReading n, .getStateSensorReadings, .setEventReceiver r, .mctpControlMessage req] : List Instr) →
    exec c s = .next s) ∧
  (∀ (c : Nat) (s : State),
    (s.firmware = true → s.debugOn = true →
      ∃ t, exec (.uartRx c) s = .next t ∧ t.top = { s.top with console := s.top.console ++ [c % 256] } ∧ s.changes [.top] t) ∧
    (s.firmware = false ∨ s.debugOn = false → exec (.uartRx c) s = .next s))
end

