-- ==== Sys2Proof/Laws/Bits.lean ====
section
/-! SUPPORT. Laws of bit fields: a field after a field was written. -/

namespace Sys2Proof.Machine

theorem bits_lt (w hi lo : Nat) : bits w hi lo < 2 ^ (hi + 1 - lo) := Nat.mod_lt _ (Nat.two_pow_pos _)

/-- A word is its parts above, in and below a field. -/
theorem bits_split (w hi lo : Nat) (h : lo ≤ hi) :
    w = (w / 2 ^ (hi + 1)) * 2 ^ (hi + 1) + bits w hi lo * 2 ^ lo + w % 2 ^ lo := by
  have e : 2 ^ (hi + 1) = 2 ^ lo * 2 ^ (hi + 1 - lo) := by rw [← Nat.pow_add]; congr 1; omega
  have a := Nat.div_add_mod w (2 ^ lo)
  have b := Nat.div_add_mod (w / 2 ^ lo) (2 ^ (hi + 1 - lo))
  rw [Nat.div_div_eq_div_mul, ← e] at b
  unfold bits
  rw [Nat.shiftRight_eq_div_pow]
  have c : w / 2 ^ (hi + 1) * 2 ^ (hi + 1) + w / 2 ^ lo % 2 ^ (hi + 1 - lo) * 2 ^ lo
      = 2 ^ lo * (2 ^ (hi + 1 - lo) * (w / 2 ^ (hi + 1)) + w / 2 ^ lo % 2 ^ (hi + 1 - lo)) := by
    rw [e, Nat.mul_add, Nat.mul_comm (w / _), Nat.mul_assoc, Nat.mul_comm (_ % _)]
  rw [c, b]
  omega

/-- A word after a field of it was written, by its parts. -/
theorem setBits_eq (w hi lo v : Nat) (h : lo ≤ hi) :
    setBits w hi lo v
      = (w / 2 ^ (hi + 1)) * 2 ^ (hi + 1) + (v % 2 ^ (hi + 1 - lo)) * 2 ^ lo + w % 2 ^ lo := by
  have s := bits_split w hi lo h
  unfold setBits
  rw [Nat.shiftLeft_eq, Nat.shiftLeft_eq]
  generalize hx : bits w hi lo = x at s ⊢
  generalize (w / 2 ^ (hi + 1)) * 2 ^ (hi + 1) = a at s ⊢
  generalize w % 2 ^ lo = c at s ⊢
  omega

theorem field_part (a c v hi lo : Nat) (h : lo ≤ hi) (hv : v < 2 ^ (hi + 1 - lo)) (hc : c < 2 ^ lo) :
    bits (a * 2 ^ (hi + 1) + v * 2 ^ lo + c) hi lo = v := by
  have e : 2 ^ (hi + 1) = 2 ^ (hi + 1 - lo) * 2 ^ lo := by rw [← Nat.pow_add]; congr 1; omega
  unfold bits
  rw [Nat.shiftRight_eq_div_pow, e]
  have : a * (2 ^ (hi + 1 - lo) * 2 ^ lo) + v * 2 ^ lo + c = c + (v + a * 2 ^ (hi + 1 - lo)) * 2 ^ lo := by
    rw [Nat.add_mul, Nat.mul_assoc]; omega
  rw [this, Nat.add_mul_div_right _ _ (Nat.two_pow_pos _), Nat.div_eq_of_lt hc, Nat.zero_add, Nat.add_mul_mod_self_right,
    Nat.mod_eq_of_lt hv]

/-- A field reads as what was written to it, cut to its width. -/
@[simp] theorem bits_setBits_same (w hi lo v : Nat) (h : lo ≤ hi) :
    bits (setBits w hi lo v) hi lo = v % 2 ^ (hi + 1 - lo) := by
  rw [setBits_eq w hi lo v h]
  exact field_part _ _ _ hi lo h (Nat.mod_lt _ (Nat.two_pow_pos _)) (Nat.mod_lt _ (Nat.two_pow_pos _))

theorem two_pow_split {a b : Nat} (h : a ≤ b) : 2 ^ b = 2 ^ a * 2 ^ (b - a) := by
  rw [← Nat.pow_add]; congr 1; omega

/-- A field below the written one is as before. -/
theorem bits_setBits_below (w hi lo v hi' lo' : Nat) (h : lo ≤ hi) (hl : lo' ≤ hi') (hb : hi' < lo) :
    bits (setBits w hi lo v) hi' lo' = bits w hi' lo' := by
  have key : ∀ x, bits x hi' lo' = bits (x % 2 ^ lo) hi' lo' := by
    intro x
    unfold bits
    rw [Nat.shiftRight_eq_div_pow, Nat.shiftRight_eq_div_pow]
    have e : lo = lo' + ((hi' + 1 - lo') + (lo - (hi' + 1))) := by omega
    have e1 : 2 ^ lo = 2 ^ lo' * (2 ^ (hi' + 1 - lo') * 2 ^ (lo - (hi' + 1))) := by
      rw [← Nat.pow_add, ← Nat.pow_add]; congr 1
    rw [e1, Nat.mod_mul_right_div_self, Nat.mod_mul_right_mod]
  rw [key, key w, setBits_eq w hi lo v h]
  congr 1
  have e : 2 ^ (hi + 1) = 2 ^ lo * 2 ^ (hi + 1 - lo) := two_pow_split (by omega)
  rw [e]
  have : w / (2 ^ lo * 2 ^ (hi + 1 - lo)) * (2 ^ lo * 2 ^ (hi + 1 - lo)) + v % 2 ^ (hi + 1 - lo) * 2 ^ lo + w % 2 ^ lo
      = w % 2 ^ lo + 2 ^ lo * (w / (2 ^ lo * 2 ^ (hi + 1 - lo)) * 2 ^ (hi + 1 - lo) + v % 2 ^ (hi + 1 - lo)) := by
    rw [Nat.mul_add, Nat.mul_comm (v % _), Nat.mul_left_comm]; omega
  rw [this, Nat.add_mul_mod_self_left, Nat.mod_mod]

/-- A field above the written one is as before. -/
theorem bits_setBits_above (w hi lo v hi' lo' : Nat) (h : lo ≤ hi) (ha : hi < lo') :
    bits (setBits w hi lo v) hi' lo' = bits w hi' lo' := by
  have key : ∀ x, x / 2 ^ (hi + 1) = w / 2 ^ (hi + 1) → bits x hi' lo' = bits w hi' lo' := by
    intro x hx
    unfold bits
    rw [Nat.shiftRight_eq_div_pow, Nat.shiftRight_eq_div_pow, two_pow_split (show hi + 1 ≤ lo' by omega),
      ← Nat.div_div_eq_div_mul, ← Nat.div_div_eq_div_mul, hx]
  apply key
  rw [setBits_eq w hi lo v h]
  have e : 2 ^ (hi + 1) = 2 ^ (hi + 1 - lo) * 2 ^ lo := by rw [← Nat.pow_add]; congr 1; omega
  have b : v % 2 ^ (hi + 1 - lo) * 2 ^ lo + w % 2 ^ lo < 2 ^ (hi + 1) := by
    have h1 : v % 2 ^ (hi + 1 - lo) < 2 ^ (hi + 1 - lo) := Nat.mod_lt _ (Nat.two_pow_pos _)
    have h2 : w % 2 ^ lo < 2 ^ lo := Nat.mod_lt _ (Nat.two_pow_pos _)
    have h3 : (v % 2 ^ (hi + 1 - lo) + 1) * 2 ^ lo ≤ 2 ^ (hi + 1 - lo) * 2 ^ lo := Nat.mul_le_mul_right _ h1
    rw [e]; rw [Nat.add_mul] at h3; omega
  rw [Nat.add_assoc, Nat.add_comm, Nat.add_mul_div_right _ _ (Nat.two_pow_pos _), Nat.div_eq_of_lt b, Nat.zero_add]

/-- A word below `2 ^ n` stays below it when a field within it is written. -/
theorem setBits_lt (w hi lo v n : Nat) (h : lo ≤ hi) (hn : hi < n) (hw : w < 2 ^ n) : setBits w hi lo v < 2 ^ n := by
  rw [setBits_eq w hi lo v h]
  have e : 2 ^ (hi + 1) = 2 ^ (hi + 1 - lo) * 2 ^ lo := by rw [← Nat.pow_add]; congr 1; omega
  have b : v % 2 ^ (hi + 1 - lo) * 2 ^ lo + w % 2 ^ lo < 2 ^ (hi + 1) := by
    have h1 : v % 2 ^ (hi + 1 - lo) < 2 ^ (hi + 1 - lo) := Nat.mod_lt _ (Nat.two_pow_pos _)
    have h2 : w % 2 ^ lo < 2 ^ lo := Nat.mod_lt _ (Nat.two_pow_pos _)
    have h3 : (v % 2 ^ (hi + 1 - lo) + 1) * 2 ^ lo ≤ 2 ^ (hi + 1 - lo) * 2 ^ lo := Nat.mul_le_mul_right _ h1
    rw [e]; rw [Nat.add_mul] at h3; omega
  have f := two_pow_split (show hi + 1 ≤ n by omega)
  have g : w / 2 ^ (hi + 1) < 2 ^ (n - (hi + 1)) := by
    apply Nat.div_lt_of_lt_mul; rw [← f]; exact hw
  have k : (w / 2 ^ (hi + 1) + 1) * 2 ^ (hi + 1) ≤ 2 ^ (n - (hi + 1)) * 2 ^ (hi + 1) := Nat.mul_le_mul_right _ g
  rw [Nat.add_mul, Nat.mul_comm (2 ^ (n - (hi + 1)))] at k
  rw [f]; omega

end Sys2Proof.Machine
end

