-- ==== Sys2Proof/Laws/Changes.lean ====
section
/-! SUPPORT. What the shared operations may change: one frame for each of them, which later proofs cite. -/

namespace Sys2Proof.Machine

@[simp] theorem State.changes_refl (s : State) (l : List Comp) : s.changes l s := by
  intro c _; cases c <;> rfl

theorem State.changes_mono {s t : State} {l l' : List Comp} (h : ∀ c ∈ l, c ∈ l') (h1 : s.changes l t) : s.changes l' t :=
  fun c hc => h1 c fun hm => hc (h c hm)

theorem State.changes_trans {s t u : State} {l : List Comp} (h1 : s.changes l t) (h2 : t.changes l u) : s.changes l u := by
  intro c hc
  have a := h1 c hc
  have b := h2 c hc
  cases c <;> exact b.trans a

/-- A frame through a conditional. -/
theorem State.changes_ite {s t u : State} {l : List Comp} {p : Prop} [Decidable p] (h1 : s.changes l t) (h2 : s.changes l u) :
    s.changes l (if p then t else u) := by split <;> assumption

/-- A frame through a fold. -/
theorem State.changes_foldl {α : Type} {l : List Comp} (f : State → α → State) (h : ∀ (s : State) (a : α), s.changes l (f s a)) (xs : List α)
    (s : State) : s.changes l (xs.foldl f s) := by
  induction xs generalizing s with
  | nil => exact s.changes_refl l
  | cons x xs ih => exact State.changes_trans (h s x) (ih _)

theorem State.changesRegs_refl (s : State) (l : List (Reg × Nat × Nat)) : s.changesRegs l s := fun _ _ _ _ => rfl

theorem State.changesRegs_trans {s t u : State} {l : List (Reg × Nat × Nat)} (h1 : s.changesRegs l t) (h2 : t.changesRegs l u) :
    s.changesRegs l u := fun r v i h => (h2 r v i h).trans (h1 r v i h)

/-! ### Registers -/

theorem State.setReg_changes (s : State) (r : Reg) (v i : Nat) (w : RegWord) : s.changes [.regs] (s.setReg r v i w) := by
  intro c hc; cases c <;> first | rfl | exact absurd (by decide) hc

theorem State.setRegN_changes (s : State) (r : Reg) (v i w : Nat) : s.changes [.regs] (s.setRegN r v i w) :=
  s.setReg_changes r v i _

theorem State.setFld_changes (s : State) (f : Fld) (v i w : Nat) : s.changes [.regs] (s.setFld f v i w) :=
  s.setRegN_changes _ _ _ _

theorem State.satInc_changes (s : State) (f : Fld) (v i n : Nat) : s.changes [.regs] (s.satInc f v i n) :=
  s.setFld_changes _ _ _ _

theorem State.errOne_changes (s : State) (a b : Reg) (n cap v i : Nat) : s.changes [.regs] (s.errOne a b n cap v i) := by
  simp only [State.errOne]
  split
  · exact State.changes_trans (s.setRegN_changes _ _ _ _) (State.setRegN_changes _ _ _ _ _)
  · exact s.setRegN_changes _ _ _ _

theorem State.queErr_changes (s : State) (fn b ring index stamp : Nat) : s.changes [.regs] (s.queErr fn b ring index stamp) :=
  s.errOne_changes _ _ _ _ _ _

theorem State.errIn_changes (s : State) (a b : Reg) (n cap : Nat) (vs : List Nat) (i : Nat) :
    s.changes [.regs] (s.errIn a b n cap vs i) :=
  State.changes_foldl _ (fun s v => s.errOne_changes a b n cap v i) vs s

theorem State.errClear_changes (s : State) (a b : Reg) (w v i : Nat) : s.changes [.regs] (s.errClear a b w v i) := by
  simp only [State.errClear]
  split
  · exact State.changes_trans (s.setRegN_changes _ _ _ _) (State.setRegN_changes _ _ _ _ _)
  · exact s.setRegN_changes _ _ _ _

theorem State.memErr_changes (s : State) (b dpa part ch : Nat) : s.changes [.regs] (s.memErr b dpa part ch) :=
  s.errOne_changes _ _ _ _ _ _

/-! ### Outputs, free values, counters -/

theorem State.emit_changes (s : State) (e : Emission) : s.changes [.emitted] (s.emit e) := by
  intro c hc; cases c <;> first | rfl | exact absurd (by decide) hc

theorem State.emitFor_changes (s : State) (p : Nat) (e : Emission) : s.changes [.emitted] (s.emitFor p e) := s.emit_changes _

theorem State.emitFn_changes (s : State) (fn : Nat) (e : Emission) : s.changes [.emitted] (s.emitFn fn e) := s.emit_changes _

theorem State.bump_changes (s : State) : s.changes [.free] s.bump := by
  intro c hc; cases c <;> first | rfl | exact absurd (by decide) hc

theorem State.count_changes (s : State) (code unit : Nat) (ps : List Nat) (n : Nat) :
    s.changes [.pmc] (s.count code unit ps n) := by
  simp only [State.count]
  split
  · exact s.changes_refl _
  · intro c hc; cases c <;> first | rfl | exact absurd (by decide) hc

/-! ### Interrupts, rings and events -/

theorem State.setRing_changes (s : State) (fn r : Nat) (x : Ring) : s.changes [.que] (s.setRing fn r x) := by
  intro c hc; cases c <;> first | rfl | exact absurd (by decide) hc

theorem State.setVec_changes (s : State) (fn v : Nat) (x : Vec) : s.changes [.que] (s.setVec fn v x) := by
  intro c hc; cases c <;> first | rfl | exact absurd (by decide) hc

theorem State.countUnwritten_changes (s : State) (fn : Nat) : s.changes [.prt] (s.countUnwritten fn) := by
  intro c hc; cases c <;> first | rfl | exact absurd (by decide) hc

theorem State.msixSend_changes (s : State) (fn v : Nat) : s.changes [.emitted, .regs, .pmc] (s.msixSend fn v) := by
  simp only [State.msixSend]
  split
  · exact s.changes_refl _
  · split
    · exact State.changes_mono (by simp) (s.setRegN_changes _ _ _ _)
    · exact State.changes_trans (State.changes_mono (by simp) (s.emit_changes _))
        (State.changes_mono (by simp) (State.count_changes _ _ _ _ _))

theorem State.vecRecord_changes (s : State) (fn v : Nat) (irq : Bool) :
    s.changes [.emitted, .regs, .que, .pmc] (s.vecRecord fn v irq) := by
  simp only [State.vecRecord]
  split
  · exact s.changes_refl _
  · split
    · exact State.changes_trans (State.changes_mono (by simp) (s.setVec_changes _ _ _))
        (State.changes_mono (by simp) (State.msixSend_changes _ _ _))
    · exact State.changes_mono (by simp) (s.setVec_changes _ _ _)

/-- What raising an event may change. -/
theorem State.eventTo_changes (s : State) (fn src code : Nat) (d : List Byte) :
    s.changes [.emitted, .regs, .prt, .que, .pmc] (s.eventTo fn src code d) := by
  simp only [State.eventTo]
  split
  · exact State.changes_trans (State.changes_mono (by simp) (s.satInc_changes _ _ _ _))
      (State.changes_mono (by simp) (State.setRing_changes _ _ _ _))
  · split
    · exact State.changes_mono (by simp) (s.countUnwritten_changes fn)
    · exact State.changes_trans (State.changes_mono (by simp) (s.emitFn_changes _ _))
        (State.changes_trans (State.changes_mono (by simp) (State.setRing_changes _ _ _ _))
          (State.changes_trans (State.changes_mono (by simp) (State.setFld_changes _ _ _ _ _))
            (State.changes_mono (by simp) (State.vecRecord_changes _ _ _ _))))

theorem State.event_changes (s : State) (part code : Nat) (d : List Byte) :
    s.changes [.emitted, .regs, .prt, .que, .pmc] (s.event part code d) :=
  State.changes_ite (s.eventTo_changes _ _ _ _) (s.changes_refl _)

theorem State.eventPf_changes (s : State) (code : Nat) (d : List Byte) :
    s.changes [.emitted, .regs, .prt, .que, .pmc] (s.eventPf code d) := s.eventTo_changes _ _ _ _

theorem State.eventFor_changes (s : State) (part code : Nat) (d : List Byte) :
    s.changes [.emitted, .regs, .prt, .que, .pmc] (s.eventFor part code d) :=
  State.changes_ite (s.event_changes _ _ _) (s.eventPf_changes _ _)

theorem State.stateSensor_changes (s : State) (n v : Nat) : s.changes [.emitted] (s.stateSensor n v) := by
  simp only [State.stateSensor]
  split
  · exact State.changes_ite (s.emit_changes _) (s.changes_refl _)
  · exact s.changes_refl _

/-- What the failure of the module may change. -/
theorem State.failModule_changes (s : State) (cause info : Nat) :
    s.changes [.emitted, .regs, .prt, .que, .pmc] (s.failModule cause info) := by
  simp only [State.failModule]
  refine State.changes_ite (s.changes_refl _) ?_
  refine State.changes_trans (State.changes_mono (by simp) (s.setFld_changes F.TOP_FAILED 0 0 1)) ?_
  refine State.changes_trans (State.changes_mono (by simp) (State.setFld_changes _ F.TOP_FAIL_CAUSE 0 0 cause)) ?_
  refine State.changes_trans (State.changes_mono (by simp) (State.setFld_changes _ F.TOP_FAIL_INFO 0 0 info)) ?_
  refine State.changes_trans (State.changes_mono (by simp) (State.errOne_changes _ .topErrSts .topErrFirst 1
    (pack [(F.TOP_EF_VALID, 1), (F.TOP_EF_CAUSE, 1)]) 0 0)) ?_
  exact State.changes_trans (State.changes_mono (by simp) (State.stateSensor_changes _ 3 1)) (State.eventPf_changes _ _ _)

/-- What the error of a ring may change. -/
theorem State.ringError_changes (s : State) (fn r cause i : Nat) :
    s.changes [.emitted, .regs, .prt, .que, .pmc] (s.ringError fn r cause i) := by
  simp only [State.ringError]
  have h : s.changes [.regs] (if r = 16 then s.setFld F.QUE_EQ_STATE fn 0 3 else s.setFld F.QUE_RING_STATE fn r 3) :=
    State.changes_ite (s.setFld_changes _ _ _ _) (s.setFld_changes _ _ _ _)
  refine State.changes_ite (s.changes_refl _) ?_
  refine State.changes_trans (State.changes_mono (by simp) h) ?_
  refine State.changes_trans (State.changes_mono (by simp) (State.queErr_changes _ fn 1 r i 0)) ?_
  exact State.changes_ite (State.eventPf_changes _ _ _) (State.event_changes _ _ _ _)

theorem State.ringSettle_changes (s : State) (fn r : Nat) : s.changes [.regs] (s.ringSettle fn r) :=
  State.changes_ite (s.setFld_changes _ _ _ _) (s.changes_refl _)

theorem State.tagRecord_changes (s : State) (env : Env) (r : List Byte) : s.changes [.emitted, .regs] (s.tagRecord env r) := by
  simp only [State.tagRecord]
  refine State.changes_ite (State.changes_mono (by simp) (s.satInc_changes _ _ _ _)) ?_
  exact State.changes_trans (State.changes_mono (by simp) (s.emit_changes _))
    (State.changes_mono (by simp) (State.setFld_changes _ _ _ _ _))

/-- A frame that goes on from a ring's new state. -/
theorem State.changes_of_setRing {s t : State} {l : List Comp} (fn r : Nat) (x : Ring) (hq : .que ∈ l)
    (h : (s.setRing fn r x).changes l t) : s.changes l t :=
  State.changes_trans (State.changes_mono (by simpa using hq) (s.setRing_changes fn r x)) h

/-- What the completion of a descriptor may change. -/
theorem State.complete_changes (s : State) (env : Env) (k : Ticket) (cls status info : Nat) :
    s.changes [.emitted, .regs, .prt, .que, .pmc] (s.complete env k cls status info) := by
  simp only [State.complete]
  split
  · exact s.changes_refl _
  refine State.changes_of_setRing k.fn k.ring
    { s.ring k.fn k.ring with inflight := (s.ring k.fn k.ring).inflight.erase k.idx } (by simp) ?_
  generalize s.setRing k.fn k.ring
    { s.ring k.fn k.ring with inflight := (s.ring k.fn k.ring).inflight.erase k.idx } = s1
  split
  · exact State.changes_mono (by simp) (s1.ringSettle_changes _ _)
  split
  · exact State.changes_trans (State.changes_mono (by simp) (s1.countUnwritten_changes k.fn))
      (State.changes_mono (by simp) (State.ringSettle_changes _ k.fn k.ring))
  split
  · exact State.changes_of_setRing k.fn k.ring { s1.ring k.fn k.ring with cqDead := true } (by simp)
      (State.changes_trans (State.ringError_changes _ k.fn k.ring 3 _)
        (State.changes_mono (by simp) (State.ringSettle_changes _ _ _)))
  · generalize completionRecord _ _ _ _ _ _ _ _ _ = rec
    generalize s1.fld F.QUE_RING_CQ_BUS k.fn k.ring * 4096 + _ = a
    generalize ((s.ring k.fn k.ring).cqNext + 1) % 65536 = n
    refine State.changes_trans (State.changes_mono (by simp) (s1.emitFn_changes k.fn (.hostWrite a rec false))) ?_
    generalize s1.emitFn k.fn _ = s2
    refine State.changes_of_setRing k.fn k.ring { s2.ring k.fn k.ring with cqNext := n } (by simp) ?_
    generalize s2.setRing k.fn k.ring _ = s3
    generalize s3.fld F.QUE_RING_VEC k.fn k.ring = v
    refine State.changes_trans (State.changes_mono (by simp) (s3.vecRecord_changes k.fn v k.irq)) ?_
    generalize s3.vecRecord k.fn v k.irq = s4
    split
    · exact State.changes_trans (State.changes_mono (by simp) (s4.tagRecord_changes env _))
        (State.changes_mono (by simp) (State.ringSettle_changes _ k.fn k.ring))
    · exact State.changes_mono (by simp) (s4.ringSettle_changes k.fn k.ring)

end Sys2Proof.Machine
end

