-- ==== Sys2Proof/Laws/Sparse.lean ====
section
/-! SUPPORT. Laws of the sparse tables: a read after a write, and that every operation keeps the canonical form. -/

namespace Sys2Proof.Machine

variable {α : Type}

@[simp] theorem sget_nil (d : α) (k : Nat) : sget d [] k = d := rfl

theorem sget_sdrop_same (d : α) (m : List (Nat × α)) (k : Nat) : sget d (sdrop m k) k = d := by
  induction m with
  | nil => rfl
  | cons e m ih =>
    by_cases h : e.1 = k
    · simpa [sdrop, h] using ih
    · have h' : ¬ k = e.1 := fun q => h q.symm
      simpa [sdrop, h, sget, h'] using ih

theorem sget_sdrop_ne (d : α) (m : List (Nat × α)) {k k' : Nat} (h : k' ≠ k) : sget d (sdrop m k) k' = sget d m k' := by
  induction m with
  | nil => rfl
  | cons e m ih =>
    by_cases h1 : e.1 = k
    · have h2 : ¬ k' = e.1 := by omega
      simp only [sdrop, sget] at ih ⊢
      rw [List.filter_cons_of_neg (by simp [h1]), if_neg h2]
      exact ih
    · simp only [sdrop, sget] at ih ⊢
      rw [List.filter_cons_of_pos (by simp [h1])]
      simp only [sget, ih]

theorem sget_sins_same (d : α) (m : List (Nat × α)) (k : Nat) (v : α) (h : ∀ e ∈ m, e.1 ≠ k) :
    sget d (sins k v m) k = v := by
  induction m with
  | nil => simp [sins, sget]
  | cons e m ih =>
    simp only [sins]
    split
    · simp [sget]
    · have h1 : ¬ k = e.1 := fun q => h e (by simp) q.symm
      simp [sget, h1, ih (fun x hx => h x (by simp [hx]))]

theorem sget_sins_ne (d : α) (m : List (Nat × α)) {k k' : Nat} (v : α) (h : k' ≠ k) :
    sget d (sins k v m) k' = sget d m k' := by
  induction m with
  | nil => simp [sins, sget, h]
  | cons e m ih =>
    simp only [sins]
    split
    · simp [sget, h]
    · simp [sget, ih]

theorem mem_sdrop {m : List (Nat × α)} {k : Nat} {e : Nat × α} : e ∈ sdrop m k ↔ e ∈ m ∧ e.1 ≠ k := by
  simp [sdrop]

variable [DecidableEq α]

/-- What a table holds after a write: the value written at its key. -/
@[simp] theorem sget_sput_same (d : α) (m : List (Nat × α)) (k : Nat) (v : α) : sget d (sput d m k v) k = v := by
  unfold sput
  split
  · rename_i h
    simp [sget_sdrop_same, h]
  · exact sget_sins_same d _ k v fun e he => (mem_sdrop.mp he).2

/-- What a table holds after a write: every other key as before. -/
theorem sget_sput_ne (d d' : α) (m : List (Nat × α)) {k k' : Nat} (v : α) (h : k' ≠ k) :
    sget d' (sput d m k v) k' = sget d' m k' := by
  unfold sput
  split
  · exact sget_sdrop_ne d' m h
  · rw [sget_sins_ne d' _ v h, sget_sdrop_ne d' m h]

/-- Both at once. -/
theorem sget_sput (d : α) (m : List (Nat × α)) (k k' : Nat) (v : α) :
    sget d (sput d m k v) k' = if k' = k then v else sget d m k' := by
  by_cases h : k' = k
  · simp [h]
  · simp [h, sget_sput_ne d d m v h]

/-- Every key lies at or above `lo`. -/
theorem swfFrom_some {d : α} {lo : Nat} {m : List (Nat × α)} (h : swfFrom d (some lo) m = true) :
    ∀ e ∈ m, lo < e.1 ∧ e.2 ≠ d := by
  induction m generalizing lo with
  | nil => simp
  | cons e m ih =>
    simp only [swfFrom, Bool.and_eq_true, decide_eq_true_eq] at h
    intro x hx
    rcases List.mem_cons.mp hx with rfl | hx
    · exact ⟨h.1.1, h.1.2⟩
    · have := ih h.2 x hx
      exact ⟨by omega, this.2⟩

theorem swfFrom_mono {d : α} {lo lo' : Nat} {m : List (Nat × α)} (hl : lo' ≤ lo) (h : swfFrom d (some lo) m = true) :
    swfFrom d (some lo') m = true := by
  cases m with
  | nil => rfl
  | cons e m =>
    simp only [swfFrom, Bool.and_eq_true, decide_eq_true_eq] at h ⊢
    exact ⟨⟨by omega, h.1.2⟩, h.2⟩

theorem swfFrom_none {d : α} {lo : Nat} {m : List (Nat × α)} (h : swfFrom d (some lo) m = true) :
    swfFrom d none m = true := by
  cases m with
  | nil => rfl
  | cons e m =>
    simp only [swfFrom, Bool.and_eq_true, decide_eq_true_eq] at h ⊢
    exact ⟨⟨trivial, h.1.2⟩, h.2⟩

theorem swfFrom_filter {d : α} (p : Nat × α → Bool) {lo : Nat} {m : List (Nat × α)} (h : swfFrom d (some lo) m = true) :
    swfFrom d (some lo) (m.filter p) = true := by
  induction m generalizing lo with
  | nil => rfl
  | cons e m ih =>
    simp only [swfFrom, Bool.and_eq_true, decide_eq_true_eq] at h
    by_cases hp : p e = true
    · rw [List.filter_cons_of_pos hp]
      simp only [swfFrom, Bool.and_eq_true, decide_eq_true_eq]
      exact ⟨h.1, ih h.2⟩
    · rw [List.filter_cons_of_neg hp]
      exact ih (swfFrom_mono (Nat.le_of_lt h.1.1) h.2)

theorem swf_cons {d : α} {e : Nat × α} {m : List (Nat × α)} :
    swf d (e :: m) = true ↔ e.2 ≠ d ∧ swfFrom d (some e.1) m = true := by
  simp [swf, swfFrom]

/-- Removing pairs keeps the canonical form. -/
theorem swf_filter {d : α} (p : Nat × α → Bool) {m : List (Nat × α)} (h : swf d m = true) : swf d (m.filter p) = true := by
  cases m with
  | nil => rfl
  | cons e m =>
    have h' := swf_cons.mp h
    by_cases hp : p e = true
    · rw [List.filter_cons_of_pos hp]
      exact swf_cons.mpr ⟨h'.1, swfFrom_filter p h'.2⟩
    · rw [List.filter_cons_of_neg hp]
      exact swfFrom_none (swfFrom_filter p h'.2)

/-- Keeping pairs by key keeps the canonical form. -/
theorem swf_sfilter {d : α} (p : Nat → Bool) {m : List (Nat × α)} (h : swf d m = true) : swf d (sfilter p m) = true :=
  swf_filter _ h

theorem swfFrom_sins {d : α} {lo k : Nat} {v : α} {m : List (Nat × α)} (hk : lo < k) (hv : v ≠ d)
    (hn : ∀ e ∈ m, e.1 ≠ k) (h : swfFrom d (some lo) m = true) : swfFrom d (some lo) (sins k v m) = true := by
  induction m generalizing lo with
  | nil => simp [sins, swfFrom, hk, hv]
  | cons e m ih =>
    simp only [swfFrom, Bool.and_eq_true, decide_eq_true_eq] at h
    simp only [sins]
    split
    · rename_i hlt
      simp only [swfFrom, Bool.and_eq_true, decide_eq_true_eq]
      exact ⟨⟨hk, hv⟩, ⟨⟨hlt, h.1.2⟩, h.2⟩⟩
    · have h1 : e.1 ≠ k := hn e (by simp)
      simp only [swfFrom, Bool.and_eq_true, decide_eq_true_eq]
      exact ⟨h.1, ih (by omega) (fun x hx => hn x (by simp [hx])) h.2⟩

/-- A write keeps the canonical form. -/
theorem swf_sput {d : α} {m : List (Nat × α)} (k : Nat) (v : α) (h : swf d m = true) : swf d (sput d m k v) = true := by
  unfold sput
  split
  · exact swf_filter _ h
  · rename_i hv
    have hd : swf d (sdrop m k) = true := swf_filter _ h
    have hn : ∀ e ∈ sdrop m k, e.1 ≠ k := fun e he => (mem_sdrop.mp he).2
    generalize sdrop m k = l at hd hn
    cases l with
    | nil => simp [sins, swf, swfFrom, hv]
    | cons e l =>
      have h' := swf_cons.mp hd
      simp only [sins]
      split
      · rename_i hlt
        refine swf_cons.mpr ⟨hv, ?_⟩
        simp only [swfFrom, Bool.and_eq_true, decide_eq_true_eq]
        exact ⟨⟨hlt, h'.1⟩, h'.2⟩
      · have h1 : e.1 ≠ k := hn e (by simp)
        exact swf_cons.mpr ⟨h'.1, swfFrom_sins (by omega) hv (fun x hx => hn x (by simp [hx])) h'.2⟩

/-- A run of writes keeps the canonical form. -/
theorem swf_sputRun {d : α} {m : List (Nat × α)} (k : Nat) (vs : List α) (h : swf d m = true) :
    swf d (sputRun d m k vs) = true := by
  induction vs generalizing m k with
  | nil => exact h
  | cons v vs ih => exact ih (k + 1) (swf_sput k v h)

/-- A run of writes leaves every key outside it. -/
theorem sget_sputRun_out (d d' : α) (m : List (Nat × α)) (k k' : Nat) (vs : List α) (h : k' < k ∨ k + vs.length ≤ k') :
    sget d' (sputRun d m k vs) k' = sget d' m k' := by
  induction vs generalizing m k with
  | nil => rfl
  | cons v vs ih =>
    simp only [List.length_cons] at h
    rw [sputRun, ih _ (k + 1) (by omega), sget_sput_ne d d' m v (by omega)]

/-- A run of writes puts its values at consecutive keys. -/
theorem sget_sputRun_in (d : α) (m : List (Nat × α)) (k i : Nat) (vs : List α) (h : i < vs.length) :
    sget d (sputRun d m k vs) (k + i) = vs.getD i d := by
  induction vs generalizing m k i with
  | nil => simp at h
  | cons v vs ih =>
    cases i with
    | zero =>
      rw [sputRun, sget_sputRun_out d d _ _ _ _ (by omega)]
      simp
    | succ i =>
      simp only [List.length_cons] at h
      have := ih (sput d m k v) (k + 1) i (by omega)
      rw [sputRun, show k + (i + 1) = k + 1 + i by omega, this]
      simp

end Sys2Proof.Machine
end

