-- ==== Sys2Proof/Laws/Memory.lean ====
section
/-! SUPPORT. Laws of device memory: every operation on it keeps its canonical form, and a byte reads as it was written. -/

namespace Sys2Proof.Machine

/-- A byte reads as it was stored, and every other byte as before. -/
theorem State.byte_setByte (s : State) (k k' : Nat) (b : Byte) :
    (s.setByte k b).byte k' = if k' = k then b else s.byte k' := by
  simp [State.byte, State.setByte, sget_sput]

theorem State.setByte_wf (s : State) (k : Nat) (b : Byte) (h : Memory.wf s.mem = true) :
    Memory.wf (s.setByte k b).mem = true := swf_sput k b h

theorem slice_length : ∀ (bs : List Byte) (o n : Nat), (slice bs o n).length = n
  | _, _, 0 => rfl
  | bs, o, n + 1 => congrArg Nat.succ (slice_length bs (o + 1) n)

theorem fit_length (n : Nat) (bs : List Byte) : (fit n bs).length = n := slice_length bs 0 n

/-- A half that is written leaves every byte outside it. -/
theorem State.byte_putHalf_out (s : State) (q k k' : Nat) (d : List Byte) (h : k' < k ∨ k + 32 ≤ k') :
    (s.putHalf q k d).byte k' = s.byte k' :=
  sget_sputRun_out _ _ _ _ _ _ (by rw [fit_length]; exact h)

theorem State.putHalf_wf (s : State) (q k : Nat) (d : List Byte) (h : Memory.wf s.mem = true) :
    Memory.wf (s.putHalf q k d).mem = true := swf_sputRun _ _ h

end Sys2Proof.Machine
end

