-- ==== Sys2Proof/Laws/MemoryOps.lean ====
section
/-! SUPPORT. What the operations on device memory may change: each of them keeps the canonical form of memory and
leaves every part of the state but those of `memComps`. -/

namespace Sys2Proof.Machine

/-- The parts of the state an access to memory may change. -/
def memComps : List Comp := [.emitted, .free, .regs, .mem, .prt, .memc, .que, .pmc, .sec]

/-- What an access to memory may do to the state. -/
def State.memStep (s t : State) : Prop := (Memory.wf s.mem = true → Memory.wf t.mem = true) ∧ s.changes memComps t

theorem State.memStep_refl (s : State) : s.memStep s := ⟨id, s.changes_refl _⟩

theorem State.memStep_trans {s t u : State} (h1 : s.memStep t) (h2 : t.memStep u) : s.memStep u :=
  ⟨h2.1 ∘ h1.1, State.changes_trans h1.2 h2.2⟩

/-- What leaves memory alone and changes only parts of `memComps`. -/
theorem State.memStep_of_changes {s t : State} (l : List Comp) (hl : ∀ c ∈ l, c ∈ memComps) (hm : .mem ∉ l)
    (h : s.changes l t) : s.memStep t :=
  ⟨fun hw => by have := h .mem hm; simp only [State.same] at this; rw [this]; exact hw, State.changes_mono hl h⟩

theorem State.memErr_memStep (s : State) (b dpa part ch : Nat) : s.memStep (s.memErr b dpa part ch) :=
  State.memStep_of_changes [.regs] (by decide) (by decide) (s.memErr_changes _ _ _ _)

theorem State.satInc_memStep (s : State) (f : Fld) (v i n : Nat) : s.memStep (s.satInc f v i n) :=
  State.memStep_of_changes [.regs] (by decide) (by decide) (s.satInc_changes _ _ _ _)

theorem State.eventFor_memStep (s : State) (part code : Nat) (d : List Byte) : s.memStep (s.eventFor part code d) :=
  State.memStep_of_changes [.emitted, .regs, .prt, .que, .pmc] (by decide) (by decide) (s.eventFor_changes _ _ _)

theorem State.count_memStep (s : State) (code unit : Nat) (ps : List Nat) (n : Nat) : s.memStep (s.count code unit ps n) :=
  State.memStep_of_changes [.pmc] (by decide) (by decide) (s.count_changes _ _ _ _)

theorem State.emit_memStep (s : State) (e : Emission) : s.memStep (s.emit e) :=
  State.memStep_of_changes [.emitted] (by decide) (by decide) (s.emit_changes _)

theorem State.emitFor_memStep (s : State) (p : Nat) (e : Emission) : s.memStep (s.emitFor p e) :=
  State.memStep_of_changes [.emitted] (by decide) (by decide) (s.emitFor_changes _ _)

theorem State.bump_memStep (s : State) : s.memStep s.bump :=
  State.memStep_of_changes [.free] (by decide) (by decide) s.bump_changes

/-- The bytes of memory become others, in canonical form. -/
theorem State.setMem_memStep (s : State) (k : Nat) (d : List Byte) : s.memStep { s with mem := sputRun 0 s.mem k d } :=
  ⟨fun h => swf_sputRun k d h, fun c hc => by cases c <;> first | rfl | exact absurd (by decide) hc⟩

theorem State.putHalf_memStep (s : State) (q k : Nat) (d : List Byte) : s.memStep (s.putHalf q k d) :=
  ⟨fun h => s.putHalf_wf q k d h, fun c hc => by cases c <;> first | rfl | exact absurd (by decide) hc⟩

/-- A step that leaves memory itself and every part but those of `memComps`. -/
theorem State.memStep_rfl {s t : State} (hm : t.mem = s.mem) (h : s.changes memComps t) : s.memStep t :=
  ⟨fun hw => by rw [hm]; exact hw, h⟩

theorem State.setChan_memStep (s : State) (ch : Nat) (c : ChanSt) : s.memStep (s.setChan ch c) :=
  State.memStep_rfl rfl fun c hc => by cases c <;> first | rfl | exact absurd (by decide) hc

theorem State.setCodeword_memStep (s : State) (w : Nat) (x : CodewordSt) : s.memStep (s.setCodeword w x) :=
  State.memStep_rfl rfl fun c hc => by cases c <;> first | rfl | exact absurd (by decide) hc

theorem State.setQue_memStep (s : State) (q : QueSt) : s.memStep { s with que := q } :=
  State.memStep_rfl rfl fun c hc => by cases c <;> first | rfl | exact absurd (by decide) hc

theorem State.pcieGrant_memStep (s : State) (i n : Nat) : s.memStep (s.pcieGrant i n) := by
  simp only [State.pcieGrant]
  exact s.setQue_memStep _

theorem State.strike_memStep (s : State) (env : Env) (w : Nat) : s.memStep (s.strike env w) := by
  simp only [State.strike]
  split
  · exact s.memStep_refl
  · split
    · exact s.setCodeword_memStep _ _
    · exact s.memStep_refl

theorem State.takeFlaws_memStep (s : State) (k : Nat) (e : Flaws) : s.memStep (s.takeFlaws k e) := by
  simp only [State.takeFlaws]
  split
  · exact s.setCodeword_memStep _ _
  · exact State.memStep_trans (s.setCodeword_memStep _ _) (State.setMem_memStep _ _ _)

/-- A read of one codeword. -/
theorem State.look_memStep (s : State) (env : Env) (k : Nat) : s.memStep (s.look env k).1 := by
  have h := s.strike_memStep env (k / 32)
  simp only [State.look]
  split
  · exact h
  · split
    · exact State.memStep_trans h (State.takeFlaws_memStep _ _ _)
    · exact State.memStep_trans h (State.takeFlaws_memStep _ _ _)
    · exact h

theorem State.noteCe_memStep (s : State) (rq : Rq) (dpa ch : Nat) (a : Look) : s.memStep (s.noteCe rq dpa ch a) := by
  simp only [State.noteCe]
  split
  · exact State.memStep_trans (s.satInc_memStep F.MEM_CE_COUNT 0 ch 1) (State.memErr_memStep _ 0 dpa rq.attr ch)
  · exact s.memStep_refl

theorem State.noteUe_memStep (s : State) (rq : Rq) (dpa ch b ev : Nat) (a : Look) :
    s.memStep (s.noteUe rq dpa ch b ev a) := by
  simp only [State.noteUe]
  split
  · exact State.memStep_trans (s.satInc_memStep F.MEM_UE_COUNT 0 ch 1)
      (State.memStep_trans (State.memErr_memStep _ b dpa rq.attr ch) (State.eventFor_memStep _ ev _ _))
  · exact s.memStep_refl

theorem State.noteLook_memStep (s : State) (rq : Rq) (dpa ch : Nat) (a b : Look) : s.memStep (s.noteLook rq dpa ch a b) :=
  State.memStep_trans (s.noteCe_memStep rq dpa ch a) (State.memStep_trans (State.noteCe_memStep _ rq (dpa + 32) ch b)
    (State.memStep_trans (State.noteUe_memStep _ rq dpa ch 1 _ a) (State.noteUe_memStep _ rq (dpa + 32) ch 1 _ b)))

theorem State.activate_memStep (s : State) (ch off : Nat) (ps : List Nat) : s.memStep (s.activate ch off ps) := by
  have h := State.memStep_trans (s.count_memStep 0x0303 ch ps 1) (State.bump_memStep _)
  simp only [State.activate]
  split
  · exact s.bump_memStep
  · split
    · exact State.memStep_trans h (State.memStep_trans (State.setChan_memStep _ _ _)
        (State.memStep_trans (State.count_memStep _ _ _ _ _) (State.emit_memStep _ _)))
    · exact State.memStep_trans h (State.setChan_memStep _ _ _)

/-- The controller's read. -/
theorem State.readAt_memStep (s : State) (env : Env) (rq : Rq) (dpa ch off : Nat) :
    s.memStep (s.readAt env rq dpa ch off).1 := by
  have h0 := State.memStep_trans (s.count_memStep 0x0301 ch (ofPart rq.attr) 1) (State.activate_memStep _ ch off (ofPart rq.attr))
  have h1 := State.look_memStep ((s.count 0x0301 ch (ofPart rq.attr) 1).activate ch off (ofPart rq.attr)) env (physKey ch off)
  have h2 := State.look_memStep (((s.count 0x0301 ch (ofPart rq.attr) 1).activate ch off (ofPart rq.attr)).look env (physKey ch off)).1
    env (physKey ch off + 32)
  have h3 := State.memStep_trans h0 (State.memStep_trans h1 h2)
  simp only [State.readAt]
  split <;> exact State.memStep_trans h3 (State.noteLook_memStep _ _ _ _ _ _)

/-- The store of a half. -/
theorem State.landHalf_memStep (s : State) (rq : Rq) (k : Nat) (d : List Byte) (m : List Bool) :
    s.memStep (s.landHalf rq k d m) := by
  simp only [State.landHalf]
  split
  · exact s.memStep_refl
  · split <;> exact s.putHalf_memStep _ _ _

theorem State.lookPart_memStep (s : State) (env : Env) (k : Nat) (m : List Bool) : s.memStep (s.lookPart env k m).1 := by
  simp only [State.lookPart]
  split
  · exact s.strike_memStep _ _
  · exact s.look_memStep _ _

/-- The controller's write. -/
theorem State.writeAt_memStep (s : State) (env : Env) (rq : Rq) (dpa ch off : Nat) (d : List Byte) (m : List Bool) :
    s.memStep (s.writeAt env rq dpa ch off d m).1 := by
  have h0 := State.memStep_trans (s.count_memStep 0x0302 ch (ofPart rq.attr) 1) (State.activate_memStep _ ch off (ofPart rq.attr))
  have h1 := State.lookPart_memStep ((s.count 0x0302 ch (ofPart rq.attr) 1).activate ch off (ofPart rq.attr)) env (physKey ch off)
    (m.take 32)
  have h2 := State.lookPart_memStep (((s.count 0x0302 ch (ofPart rq.attr) 1).activate ch off (ofPart rq.attr)).lookPart env
    (physKey ch off) (m.take 32)).1 env (physKey ch off + 32) (m.drop 32)
  have h3 := State.memStep_trans h0 (State.memStep_trans h1 h2)
  simp only [State.writeAt]
  split
  · exact State.memStep_trans h3 (State.noteLook_memStep _ _ _ _ _ _)
  · exact State.memStep_trans (State.memStep_trans h3 (State.noteLook_memStep _ _ _ _ _ _))
      (State.memStep_trans (State.landHalf_memStep _ _ _ _ _) (State.landHalf_memStep _ _ _ _ _))

theorem State.wake_memStep (s : State) (ch : Nat) : s.memStep (s.wake ch) := by
  simp only [State.wake]
  split
  · exact State.memStep_trans (s.emit_memStep _) (State.setChan_memStep _ _ _)
  · exact s.memStep_refl

theorem State.enqueue_memStep (s : State) (ch : Nat) (q : MemReq) : s.memStep (s.enqueue ch q) :=
  State.memStep_trans (s.wake_memStep ch) (State.setChan_memStep _ _ _)

theorem State.grant_memStep (s : State) (ch : Nat) (q : MemReq) : s.memStep (s.grant ch q) := by
  simp only [State.grant]
  split
  · exact s.setChan_memStep _ _
  · exact State.memStep_trans (s.setChan_memStep _ _) (State.count_memStep _ _ _ _ _)

theorem State.serve_memStep (s : State) (env : Env) (ch : Nat) (q : MemReq) : s.memStep (s.serve env ch q) := by
  simp only [State.serve]
  split
  · exact State.memStep_trans (s.writeAt_memStep env _ _ _ _ _ _) (State.emit_memStep _ _)
  · exact State.memStep_trans (s.readAt_memStep env _ _ _ _) (State.emit_memStep _ _)

theorem State.grantTo_memStep (env : Env) (ch id : Nat) : ∀ (n : Nat) (s : State), s.memStep (s.grantTo env ch id n) := by
  intro n
  induction n with
  | zero => exact fun s => s.memStep_refl
  | succ n ih =>
    intro s
    simp only [State.grantTo]
    split
    · exact s.memStep_refl
    · split
      · exact s.grant_memStep _ _
      · exact State.memStep_trans (State.memStep_trans (s.grant_memStep _ _) (State.serve_memStep _ _ _ _)) (ih _)

theorem State.compete_memStep (s : State) (env : Env) (rq : Rq) (ch off : Nat) (w : Bool) (m : List Bool) :
    s.memStep (s.compete env rq ch off w m) :=
  State.memStep_trans (s.enqueue_memStep _ _) (State.grantTo_memStep _ _ _ _ _)

/-- A read of one unit. -/
theorem State.readUnitDpa_memStep (s : State) (env : Env) (rq : Rq) (dpa : Nat) :
    s.memStep (s.readUnitDpa env rq dpa).1 := by
  simp only [State.readUnitDpa]
  split
  · exact s.memErr_memStep 4 dpa rq.attr 0
  · split
    · exact s.memStep_refl
    · exact State.memStep_trans (s.compete_memStep env rq _ _ _ _) (State.readAt_memStep _ _ _ _ _ _)

/-- A write of one unit. -/
theorem State.writeUnitDpa_memStep (s : State) (env : Env) (rq : Rq) (dpa : Nat) (d : List Byte) (m : List Bool) :
    s.memStep (s.writeUnitDpa env rq dpa d m).1 := by
  simp only [State.writeUnitDpa]
  split
  · exact s.memErr_memStep 4 dpa rq.attr 0
  · split
    · exact s.memStep_refl
    · exact State.memStep_trans (s.compete_memStep env rq _ _ _ _) (State.writeAt_memStep _ _ _ _ _ _ _ _)

theorem State.tdiBreak_memStep (s : State) (p : Nat) : s.memStep (s.tdiBreak p) := by
  simp only [State.tdiBreak]
  split
  · refine State.memStep_of_changes [.regs, .sec] (by decide) (by decide) ?_
    refine State.changes_trans (State.changes_mono (by simp) (s.setFld_changes F.SEC_TDI_STATE 0 p 3)) ?_
    generalize s.setFld F.SEC_TDI_STATE 0 p 3 = s1
    intro c hc; cases c <;> first | exact absurd (by decide) hc | rfl
  · exact s.memStep_refl

/-- A walk of the tables. -/
theorem State.walk_memStep (env : Env) (rq : Rq) (va : Nat) : ∀ (n : Nat) (s : State) (tbl : Nat),
    s.memStep (s.walk env rq va n tbl).1 := by
  intro n
  induction n with
  | zero => exact fun s _ => s.memStep_refl
  | succ n ih =>
    intro s tbl
    have h := s.readUnitDpa_memStep env (walkRq rq.part rq.die) ((tbl + 8 * bits va (20 + 9 * n) (12 + 9 * n)) / 64 * 64)
    simp only [State.walk]
    split
    · rename_i h2
      rw [h2] at h
      split
      · exact h
      · split
        · exact h
        · exact State.memStep_trans h (ih _ _)
    · rename_i h2
      rw [h2] at h
      split
      · exact State.memStep_trans h (State.tdiBreak_memStep _ _)
      · exact h

/-- A translation. -/
theorem State.translate_memStep (s : State) (env : Env) (rq : Rq) (va : Nat) (w : Bool) :
    s.memStep (s.translate env rq va w).1 := by
  have h := State.walk_memStep env rq va 4 s ((s.fld F.MEM_PT_DPA 0 rq.part) <<< 12)
  simp only [State.translate]
  split
  · exact s.memStep_refl
  split
  · exact s.memStep_refl
  split
  · rename_i h2; rw [h2] at h; exact h
  · rename_i h2; rw [h2] at h
    refine State.memStep_trans h (State.memStep_of_changes [.memc] (by decide) (by decide) ?_)
    intro c hc; cases c <;> first | exact absurd (by decide) hc | rfl

theorem State.faultResp_memStep (s : State) (rq : Rq) (r : Resp) : s.memStep (s.faultResp rq r) := by
  simp only [State.faultResp]
  split
  · exact State.memStep_trans (s.memErr_memStep 3 _ rq.attr 0) (State.bump_memStep _)
  · exact s.memStep_refl

/-- What keeps an access from the host bus. -/
theorem State.busRefused_memStep (s : State) (rq : Rq) : s.memStep (s.busRefused rq).1 := by
  simp only [State.busRefused]
  split
  · exact State.memStep_trans (s.memErr_memStep 4 _ rq.attr 0) (State.bump_memStep _)
  · split <;> exact s.memStep_refl

/-- A read of the unit that holds a virtual address. -/
theorem State.readUnit_memStep (s : State) (env : Env) (rq : Rq) (va : Nat) : s.memStep (s.readUnit env rq va).1 := by
  have h := s.translate_memStep env rq (va / 64 * 64) false
  simp only [State.readUnit]
  split
  all_goals (rename_i h2; rw [h2] at h)
  · exact State.memStep_trans h (State.faultResp_memStep _ _ _)
  · exact State.memStep_trans h (State.readUnitDpa_memStep _ _ _ _)
  · rename_i s2 _
    have h3 := State.memStep_trans h (s2.busRefused_memStep rq)
    split
    all_goals (rename_i h4; rw [h4] at h3)
    · exact h3
    · split <;>
        exact State.memStep_trans h3 (State.memStep_trans (State.pcieGrant_memStep _ rq.attr 1) (State.emitFor_memStep _ rq.part _))

/-- A write of the unit that holds a virtual address. -/
theorem State.writeUnit_memStep (s : State) (env : Env) (rq : Rq) (va : Nat) (d : List Byte) (m : List Bool) :
    s.memStep (s.writeUnit env rq va d m).1 := by
  have h := s.translate_memStep env rq (va / 64 * 64) true
  simp only [State.writeUnit]
  split
  all_goals (rename_i h2; rw [h2] at h)
  · exact State.memStep_trans h (State.faultResp_memStep _ _ _)
  · exact State.memStep_trans h (State.writeUnitDpa_memStep _ _ _ _ _ _)
  · rename_i s2 _
    have h3 := State.memStep_trans h (s2.busRefused_memStep rq)
    split
    all_goals (rename_i h4; rw [h4] at h3)
    · exact h3
    · exact State.memStep_trans h3 (State.memStep_trans (State.pcieGrant_memStep _ rq.attr 1) (State.emitFor_memStep _ rq.part _))

theorem State.readUnits_memStep (env : Env) (rq : Rq) : ∀ (n : Nat) (s : State) (va : Nat),
    s.memStep (s.readUnits env rq va n).1 := by
  intro n
  induction n with
  | zero => exact fun s _ => s.memStep_refl
  | succ n ih => exact fun s va => State.memStep_trans (s.readUnit_memStep env rq va) (ih _ _)

theorem State.writeUnits_memStep (env : Env) (rq : Rq) (va : Nat) (bs : List Byte) : ∀ (n : Nat) (s : State) (u : Nat),
    s.memStep (s.writeUnits env rq va bs u n).1 := by
  intro n
  induction n with
  | zero => exact fun s _ => s.memStep_refl
  | succ n ih => exact fun s u => State.memStep_trans (s.writeUnit_memStep env rq u _ _) (ih _ _)

/-- A read through the tables: what it may do to the state. -/
theorem State.readVa_memStep (s : State) (env : Env) (rq : Rq) (va len : Nat) : s.memStep (s.readVa env rq va len).1 :=
  State.readUnits_memStep env rq _ s _

/-- A write through the tables: what it may do to the state. -/
theorem State.writeVa_memStep (s : State) (env : Env) (rq : Rq) (va : Nat) (bs : List Byte) :
    s.memStep (s.writeVa env rq va bs).1 :=
  State.writeUnits_memStep env rq va bs _ s _

end Sys2Proof.Machine
end

