-- ==== Sys2Proof/Laws/Calm.lean ====
section
/-! SUPPORT. An access that nothing disturbs: nothing else waits at its channel, no upset strikes its codewords and none of
their symbols is wrong. It is answered OKAY, a read with the bytes, and what it leaves is said once (`State.calmTo`). -/

namespace Sys2Proof.Machine

/-- What an undisturbed read leaves: outputs, free values, counters, and the channels' tags and activates apart, the state is
the one it found, and a channel where nothing waited has nothing waiting. -/
structure State.calmTo (s t : State) : Prop where
  rest : s.changes [.emitted, .free, .memc, .pmc] t
  words : t.memc.words = s.memc.words
  tlb : t.memc.tlb = s.memc.tlb
  queues : ∀ ch, (s.chan ch).queue = [] → (t.chan ch).queue = []

theorem State.calmTo_refl (s : State) : s.calmTo s := ⟨s.changes_refl _, rfl, rfl, fun _ h => h⟩

theorem State.calmTo_trans {s t u : State} (h : s.calmTo t) (h' : t.calmTo u) : s.calmTo u :=
  ⟨State.changes_trans h.rest h'.rest, h'.words.trans h.words, h'.tlb.trans h.tlb, fun ch hc => h'.queues ch (h.queues ch hc)⟩

theorem State.calmTo_of_memc {s t : State} (h : s.changes [.emitted, .free, .pmc] t) : s.calmTo t := by
  have hm : t.memc = s.memc := h .memc (by decide)
  refine ⟨State.changes_mono (by decide) h, by rw [hm], by rw [hm], fun ch hc => ?_⟩
  simpa only [State.chan, hm] using hc

theorem State.chan_setChan (s : State) (ch ch' : Nat) (c : ChanSt) :
    (s.setChan ch c).chan ch' = if ch' = ch then c else s.chan ch' := by
  simp only [State.chan, State.setChan, sget_sput]

theorem State.calmTo_setChan (s : State) (ch : Nat) (c : ChanSt) (h : (s.chan ch).queue = [] → c.queue = []) :
    s.calmTo (s.setChan ch c) := by
  refine ⟨fun x hx => ?_, rfl, rfl, fun ch' h' => ?_⟩
  · cases x <;> first | rfl | exact absurd (by decide) hx
  · rw [State.chan_setChan]
    split
    · subst_vars; exact h h'
    · exact h'

theorem State.calmTo_count (s : State) (code unit : Nat) (ps : List Nat) (n : Nat) : s.calmTo (s.count code unit ps n) :=
  State.calmTo_of_memc (State.changes_mono (by decide) (s.count_changes _ _ _ _))

theorem State.calmTo_emit (s : State) (e : Emission) : s.calmTo (s.emit e) :=
  State.calmTo_of_memc (State.changes_mono (by decide) (s.emit_changes _))

theorem State.calmTo_bump (s : State) : s.calmTo s.bump := State.calmTo_of_memc (State.changes_mono (by decide) s.bump_changes)

theorem State.calmTo_activates (s : State) (ch : Nat) (l : List (Nat × Nat)) :
    s.calmTo (s.setChan ch { s.chan ch with activates := l }) :=
  s.calmTo_setChan ch { s.chan ch with activates := l } fun h => h

theorem State.calmTo_activate (s : State) (ch off : Nat) (ps : List Nat) : s.calmTo (s.activate ch off ps) := by
  have h := State.calmTo_trans (s.calmTo_count 0x0303 ch ps 1) (State.calmTo_bump _)
  simp only [State.activate]
  split
  · exact s.calmTo_bump
  · split
    · exact State.calmTo_trans h (State.calmTo_trans (State.calmTo_activates _ _ _)
        (State.calmTo_trans (State.calmTo_count _ _ _ _ _) (State.calmTo_emit _ _)))
    · exact State.calmTo_trans h (State.calmTo_activates _ _ _)

/-! ### The grant of an access that waits alone -/

theorem ChanSt.requeue_queue (c : ChanSt) (l : List MemReq) : (c.requeue l).queue = l := rfl

theorem State.calmTo_grant_alone (s : State) (ch : Nat) (q : MemReq) (h : (s.chan ch).queue = [q]) :
    s.calmTo (s.grant ch q) ∧ ((s.grant ch q).chan ch).queue = [] := by
  have hw : (((readyReqs [] (s.chan ch).queue).map (·.part)).filter fun p => p ≠ q.part) = [] := by
    rw [h]; simp [readyReqs]
  have hg : ∃ c : ChanSt, c.queue = [] ∧ s.grant ch q = s.setChan ch c :=
    ⟨_, by rw [ChanSt.requeue_queue, h]; simp only [List.erase_cons_head], if_pos hw⟩
  obtain ⟨c, hc, e⟩ := hg
  rw [e]
  exact ⟨State.calmTo_setChan _ _ _ fun _ => hc, by rw [State.chan_setChan, if_pos rfl]; exact hc⟩

/-- Nothing else waits: the access has the next slot. -/
theorem State.calmTo_compete (s : State) (env : Env) (rq : Rq) (ch off : Nat) (w : Bool) (m : List Bool)
    (h : (s.chan ch).queue = []) :
    s.calmTo (s.compete env rq ch off w m) ∧ ((s.compete env rq ch off w m).chan ch).queue = [] := by
  simp only [State.compete]
  generalize hq : (MemReq.mk s.memc.nextId rq.cls rq.die rq.attr 0 0 0 off w [] m) = q
  have hid : q.id = s.memc.nextId := by rw [← hq]
  have hwake : s.calmTo (s.wake ch) ∧ ((s.wake ch).chan ch).queue = [] := by
    simp only [State.wake]
    split
    · refine ⟨State.calmTo_trans (s.calmTo_emit _) (State.calmTo_setChan _ _ _ (fun _ => h)), ?_⟩
      rw [State.chan_setChan, if_pos rfl]; exact h
    · exact ⟨s.calmTo_refl, h⟩
  have hen : ((s.enqueue ch q).chan ch).queue = [q] := by
    simp only [State.enqueue]
    rw [State.chan_setChan, if_pos rfl, ChanSt.requeue_queue, hwake.2]; rfl
  have hnext : ((s.enqueue ch q).chan ch).next = some q := by
    simp [ChanSt.next, hen, readyReqs, smallestTag]
  have hgo : (s.enqueue ch q).grantTo env ch s.memc.nextId ((s.enqueue ch q).chan ch).queue.length
      = (s.enqueue ch q).grant ch q := by
    rw [hen]; simp [State.grantTo, hnext, hid]
  rw [hgo]
  have hg := State.calmTo_grant_alone _ ch q hen
  refine ⟨⟨?_, ?_, ?_, fun ch' h' => ?_⟩, hg.2⟩
  · refine State.changes_trans (t := s.enqueue ch q) (State.changes_trans hwake.1.rest fun x hx => ?_) hg.1.rest
    cases x <;> first | rfl | exact absurd (by decide) hx
  · exact hg.1.words.trans hwake.1.words
  · exact hg.1.tlb.trans hwake.1.tlb
  · by_cases e : ch' = ch
    · subst e; exact hg.2
    · refine hg.1.queues ch' ?_
      simp only [State.enqueue]
      rw [State.chan_setChan, if_neg e]
      exact hwake.1.queues ch' h'

/-! ### Codewords, reads and writes -/

theorem State.codeword_of_calmTo {s t : State} (h : s.calmTo t) (w : Nat) : t.codeword w = s.codeword w := by
  simp only [State.codeword, h.words]

theorem State.seen_of_calmTo {s t : State} (h : s.calmTo t) (q k : Nat) : t.seen q k = s.seen q k := by
  have hs : t.sec = s.sec := h.rest .sec (by decide)
  have hm : t.mem = s.mem := h.rest .mem (by decide)
  simp only [State.seen, hs, hm]

theorem State.xtsKey_of_calmTo {s t : State} (h : s.calmTo t) (n : Nat) : t.xtsKey n = s.xtsKey n := by
  have hs : t.sec = s.sec := h.rest .sec (by decide)
  simp only [State.xtsKey, hs]

theorem State.fld_of_calmTo {s t : State} (h : s.calmTo t) (f : Fld) (v i : Nat) : t.fld f v i = s.fld f v i := by
  have hp : t.part = s.part := h.rest .part (by decide)
  have hr : t.regs = s.regs := h.rest .regs (by decide)
  simp only [State.fld, State.regN, State.reg, hr, hp]

theorem State.cut_of_calmTo {s t : State} (h : s.calmTo t) (a b : Die) : t.cut a b = s.cut a b := by
  have hp : t.part = s.part := h.rest .part (by decide)
  have hf : t.fenced = s.fenced := by
    funext l; simp only [State.fenced, State.fld_of_calmTo h]
  simp only [State.cut, hp, hf]

theorem State.look_clean (s : State) (env : Env) (k : Nat) (he : env.ecc = []) (h : (s.codeword (k / 32)).errs = []) :
    s.look env k = (s, .clean) := by simp [State.look, State.strike, he, h]

theorem State.noteLook_clean (s : State) (rq : Rq) (dpa ch : Nat) : s.noteLook rq dpa ch .clean .clean = s := by
  simp [State.noteLook, State.noteCe, State.noteUe]

/-- The codewords of the unit at an offset of a channel are sound. -/
def State.unitClean (s : State) (ch off : Nat) : Prop :=
  (s.codeword (physKey ch off / 32)).errs = [] ∧ (s.codeword ((physKey ch off + 32) / 32)).errs = []

theorem State.unitClean_of_calmTo {s t : State} (h : s.calmTo t) {ch off : Nat} (hc : s.unitClean ch off) : t.unitClean ch off := by
  simpa only [State.unitClean, State.codeword_of_calmTo h] using hc

theorem State.readAt_calm (s : State) (env : Env) (rq : Rq) (dpa ch off : Nat) (he : env.ecc = []) (hc : s.unitClean ch off) :
    s.calmTo (s.readAt env rq dpa ch off).1 ∧ (s.readAt env rq dpa ch off).2 =
      (.okay, s.seen (s.xtsKey rq.part) (physKey ch off) ++ s.seen (s.xtsKey rq.part) (physKey ch off + 32)) := by
  have h := State.calmTo_trans (s.calmTo_count 0x0301 ch (ofPart rq.attr) 1) (State.calmTo_activate _ ch off (ofPart rq.attr))
  have h' := State.unitClean_of_calmTo h hc
  simp only [State.readAt, State.look_clean _ env _ he h'.1, State.look_clean _ env _ he h'.2, State.noteLook_clean]
  simp [h, State.seen_of_calmTo h, State.xtsKey_of_calmTo h]

/-- A read of a unit that nothing disturbs. -/
theorem State.readUnitDpa_calm (s : State) (env : Env) (rq : Rq) (dpa ch off : Nat) (he : env.ecc = [])
    (hr : dpaRoute s.part dpa = some (ch, off)) (hx : s.cut rq.die (chanDie ch) = false) (hq : (s.chan ch).queue = [])
    (hc : s.unitClean ch off) :
    s.calmTo (s.readUnitDpa env rq dpa).1 ∧ (s.readUnitDpa env rq dpa).2 =
      (.okay, s.seen (s.xtsKey rq.part) (physKey ch off) ++ s.seen (s.xtsKey rq.part) (physKey ch off + 32)) := by
  have h := (s.calmTo_compete env rq ch off false [] hq).1
  have h' := State.readAt_calm _ env rq dpa ch off he (State.unitClean_of_calmTo h hc)
  simp only [State.readUnitDpa, hr, hx]
  refine ⟨State.calmTo_trans h h'.1, ?_⟩
  rw [if_neg Bool.false_ne_true, h'.2, State.xtsKey_of_calmTo h, State.seen_of_calmTo h, State.seen_of_calmTo h]

theorem State.writeAt_calm (s : State) (env : Env) (rq : Rq) (dpa ch off : Nat) (d : List Byte) (m : List Bool) (he : env.ecc = [])
    (hc : s.unitClean ch off) : (s.writeAt env rq dpa ch off d m).2 = .okay := by
  have h := State.calmTo_trans (s.calmTo_count 0x0302 ch (ofPart rq.attr) 1) (State.calmTo_activate _ ch off (ofPart rq.attr))
  have h' := State.unitClean_of_calmTo h hc
  have hl : ∀ (k : Nat) (m : List Bool), (((s.count 0x0302 ch (ofPart rq.attr) 1).activate ch off (ofPart rq.attr)).codeword (k / 32)).errs = [] →
      ((s.count 0x0302 ch (ofPart rq.attr) 1).activate ch off (ofPart rq.attr)).lookPart env k m
        = ((s.count 0x0302 ch (ofPart rq.attr) 1).activate ch off (ofPart rq.attr), .clean) := by
    intro k m hk
    simp only [State.lookPart, State.look_clean _ env k he hk]
    simp [State.strike, he]
  simp only [State.writeAt, hl _ _ h'.1, hl _ _ h'.2]
  simp

/-- A write of a unit that nothing disturbs is answered OKAY. -/
theorem State.writeUnitDpa_calm (s : State) (env : Env) (rq : Rq) (dpa ch off : Nat) (d : List Byte) (m : List Bool)
    (he : env.ecc = []) (hr : dpaRoute s.part dpa = some (ch, off)) (hx : s.cut rq.die (chanDie ch) = false)
    (hq : (s.chan ch).queue = []) (hc : s.unitClean ch off) : (s.writeUnitDpa env rq dpa d m).2 = .okay := by
  have h := (s.calmTo_compete env rq ch off true m hq).1
  simp only [State.writeUnitDpa, hr, hx, if_neg Bool.false_ne_true]
  exact State.writeAt_calm _ env rq dpa ch off d m he (State.unitClean_of_calmTo h hc)

/-! ### Through a translation that is held -/

/-- A virtual address that a held translation takes to a sound unit of memory, where nothing waits. -/
structure State.calmAt (s : State) (rq : Rq) (va dpa ch off : Nat) (write : Bool) : Prop where
  here : s.translate {} rq (va / 64 * 64) write = (s, .ok (.dev dpa))
  held : ¬ (64 ≤ rq.part ∨ (!s.partEnabled rq.part) = true ∨ (!s.flag F.MEM_PT_EN 0 rq.part) = true
    ∨ bits (va / 64 * 64) 63 48 ≠ 0) ∧ (s.tlbFind rq.part (va / 64 * 64)).isSome = true
  route : dpaRoute s.part dpa = some (ch, off)
  whole : s.cut rq.die (chanDie ch) = false
  alone : (s.chan ch).queue = []
  clean : (s.codeword (physKey ch off / 32)).errs = [] ∧ (s.codeword ((physKey ch off + 32) / 32)).errs = []

/-- What an undisturbed access rests on. -/
theorem State.calmAt_of_same {s t : State} (hp : t.part = s.part) (hg : t.pte = s.pte) (hr : t.regs = s.regs)
    (hw : t.memc.words = s.memc.words) (hl : t.memc.tlb = s.memc.tlb)
    (hq : ∀ ch, (s.chan ch).queue = [] → (t.chan ch).queue = []) {rq : Rq} {va dpa ch off : Nat} {w : Bool}
    (hs : s.calmAt rq va dpa ch off w) : t.calmAt rq va dpa ch off w := by
  have hf : ∀ f v i, t.fld f v i = s.fld f v i := fun f v i => by simp only [State.fld, State.regN, State.reg, hr, hp]
  have h1 : t.partEnabled = s.partEnabled := by funext n; simp only [State.partEnabled, State.partRec, hg]
  have h2 : ∀ f v i, t.flag f v i = s.flag f v i := by
    intro f v i; simp only [State.flag, hf]
  have h3 : t.tlbFind = s.tlbFind := by funext p v; simp only [State.tlbFind, hl]
  have h4 : t.fenced = s.fenced := by funext l; simp only [State.fenced, hf]
  have h5 : ∀ a b, t.cut a b = s.cut a b := fun a b => by simp only [State.cut, hp, h4]
  have h6 : ∀ k, t.codeword k = s.codeword k := fun k => by simp only [State.codeword, hw]
  have hh := hs.held
  have hn : ¬ (64 ≤ rq.part ∨ (!t.partEnabled rq.part) = true ∨ (!t.flag F.MEM_PT_EN 0 rq.part) = true
    ∨ bits (va / 64 * 64) 63 48 ≠ 0) := by rw [h1, h2]; exact hh.1
  refine ⟨?_, ⟨hn, by rw [h3]; exact hh.2⟩, by rw [hp]; exact hs.route, by rw [h5]; exact hs.whole,
    hq _ hs.alone, by simpa only [h6] using hs.clean⟩
  obtain ⟨e, he⟩ := Option.isSome_iff_exists.mp hh.2
  have h0 := hs.here
  simp only [State.translate, if_neg hh.1, he] at h0
  simp only [State.translate, if_neg hn, h3, he]
  exact Prod.ext rfl (Prod.ext_iff.mp h0).2

theorem State.calmAt_of_calmTo {s t : State} (h : s.calmTo t) {rq : Rq} {va dpa ch off : Nat} {w : Bool}
    (hs : s.calmAt rq va dpa ch off w) : t.calmAt rq va dpa ch off w :=
  State.calmAt_of_same (h.rest .part (by decide)) (h.rest .pte (by decide)) (h.rest .regs (by decide)) h.words h.tlb h.queues hs

theorem State.readUnit_calm (s : State) (env : Env) (rq : Rq) (va dpa ch off : Nat) (he : env.ecc = [])
    (hs : s.calmAt rq va dpa ch off false) :
    s.calmTo (s.readUnit env rq va).1 ∧ (s.readUnit env rq va).2 =
      (.okay, s.seen (s.xtsKey rq.part) (physKey ch off) ++ s.seen (s.xtsKey rq.part) (physKey ch off + 32)) := by
  have ht : s.translate env rq (va / 64 * 64) false = (s, .ok (.dev dpa)) := by
    obtain ⟨e, h'⟩ := Option.isSome_iff_exists.mp hs.held.2
    have h0 := hs.here
    simp only [State.translate, if_neg hs.held.1, h'] at h0 ⊢
    exact h0
  simp only [State.readUnit, ht]
  exact s.readUnitDpa_calm env rq dpa ch off he hs.route hs.whole hs.alone hs.clean

theorem State.writeUnit_calm (s : State) (env : Env) (rq : Rq) (va dpa ch off : Nat) (d : List Byte) (m : List Bool)
    (he : env.ecc = []) (hs : s.calmAt rq va dpa ch off true) : (s.writeUnit env rq va d m).2 = .okay := by
  have ht : s.translate env rq (va / 64 * 64) true = (s, .ok (.dev dpa)) := by
    obtain ⟨e, h'⟩ := Option.isSome_iff_exists.mp hs.held.2
    have h0 := hs.here
    simp only [State.translate, if_neg hs.held.1, h'] at h0 ⊢
    exact h0
  simp only [State.writeUnit, ht]
  exact s.writeUnitDpa_calm env rq dpa ch off d m he hs.route hs.whole hs.alone hs.clean

/-- A read within one unit that nothing disturbs gives its bytes. -/
theorem State.readVa_calm (s : State) (env : Env) (rq : Rq) (va len dpa ch off : Nat) (he : env.ecc = [])
    (hu : unitsOf va len = 1) (hs : s.calmAt rq (va / 64 * 64) dpa ch off false) :
    s.calmTo (s.readVa env rq va len).1 ∧ (s.readVa env rq va len).2 =
      (.okay, slice (s.seen (s.xtsKey rq.part) (physKey ch off) ++ s.seen (s.xtsKey rq.part) (physKey ch off + 32)) (va % 64) len) := by
  have h := s.readUnit_calm env rq (va / 64 * 64) dpa ch off he hs
  simp only [State.readVa, hu, State.readUnits]
  refine ⟨h.1, ?_⟩
  rw [(Prod.ext_iff.mp h.2).1, (Prod.ext_iff.mp h.2).2, List.append_nil]; rfl

/-- A write within one unit that nothing disturbs is answered OKAY. -/
theorem State.writeVa_calm (s : State) (env : Env) (rq : Rq) (va dpa ch off : Nat) (bs : List Byte) (he : env.ecc = [])
    (hu : unitsOf va bs.length = 1) (hs : s.calmAt rq (va / 64 * 64) dpa ch off true) : (s.writeVa env rq va bs).2 = .okay := by
  have h := s.writeUnit_calm env rq (va / 64 * 64) dpa ch off (unitPart va bs (va / 64 * 64)).1 (unitPart va bs (va / 64 * 64)).2 he hs
  simp only [State.writeVa, hu, State.writeUnits]
  rw [h]; rfl

/-- The same of several units in a row: `l` says where each lies. -/
theorem State.readUnits_calm (env : Env) (rq : Rq) (he : env.ecc = []) : ∀ (l : List (Nat × Nat × Nat)) (s : State) (va : Nat),
    (∀ x ∈ l.zipIdx, s.calmAt rq (va + 64 * x.2) x.1.1 x.1.2.1 x.1.2.2 false) →
    s.calmTo (s.readUnits env rq va l.length).1 ∧ (s.readUnits env rq va l.length).2 =
      (.okay, l.flatMap fun x => s.seen (s.xtsKey rq.part) (physKey x.2.1 x.2.2)
        ++ s.seen (s.xtsKey rq.part) (physKey x.2.1 x.2.2 + 32))
  | [], s, _, _ => ⟨s.calmTo_refl, rfl⟩
  | x :: l, s, va, h => by
    have h0 := s.readUnit_calm env rq va x.1 x.2.1 x.2.2 he (h (x, 0) (by simp [List.zipIdx_cons]))
    have ih := State.readUnits_calm env rq he l (s.readUnit env rq va).1 (va + 64) fun y hy => by
      have := h (y.1, y.2 + 1) (by
        rw [List.zipIdx_cons, List.mem_cons]; right
        rw [List.mem_zipIdx_iff_getElem?] at hy
        rw [List.mk_mem_zipIdx_iff_le_and_getElem?_sub]
        exact ⟨by omega, by simpa using hy⟩)
      rw [Nat.mul_add, Nat.mul_one, ← Nat.add_assoc, Nat.add_right_comm] at this
      exact State.calmAt_of_calmTo h0.1 this
    simp only [List.length_cons, State.readUnits]
    refine ⟨State.calmTo_trans h0.1 ih.1, ?_⟩
    rw [(Prod.ext_iff.mp h0.2).1, (Prod.ext_iff.mp h0.2).2, (Prod.ext_iff.mp ih.2).1, (Prod.ext_iff.mp ih.2).2]
    simp only [Resp.join, if_true, List.flatMap_cons, State.seen_of_calmTo h0.1, State.xtsKey_of_calmTo h0.1]

/-- A read of several whole units that nothing disturbs gives their bytes. -/
theorem State.readVa_units_calm (s : State) (env : Env) (rq : Rq) (va len : Nat) (l : List (Nat × Nat × Nat)) (he : env.ecc = [])
    (hu : unitsOf va len = l.length) (hs : ∀ x ∈ l.zipIdx, s.calmAt rq (va / 64 * 64 + 64 * x.2) x.1.1 x.1.2.1 x.1.2.2 false) :
    s.calmTo (s.readVa env rq va len).1 ∧ (s.readVa env rq va len).2 =
      (.okay, slice (l.flatMap fun x => s.seen (s.xtsKey rq.part) (physKey x.2.1 x.2.2)
        ++ s.seen (s.xtsKey rq.part) (physKey x.2.1 x.2.2 + 32)) (va % 64) len) := by
  have h := State.readUnits_calm env rq he l s (va / 64 * 64) hs
  simp only [State.readVa, hu]
  exact ⟨h.1, by rw [(Prod.ext_iff.mp h.2).1, (Prod.ext_iff.mp h.2).2]⟩

/-- A translation that is held is the one an access uses. -/
theorem State.translate_held (s : State) (env : Env) (rq : Rq) (va : Nat) (w : Bool) (e : TlbEnt)
    (h : ¬ (64 ≤ rq.part ∨ (!s.partEnabled rq.part) = true ∨ (!s.flag F.MEM_PT_EN 0 rq.part) = true ∨ bits va 63 48 ≠ 0))
    (he : s.tlbFind rq.part va = some e) : s.translate env rq va w = (s, leafTarget e.pte e.level va w) := by
  simp only [State.translate, if_neg h, he]

/-- A read through the Host Memory Port's window that nothing disturbs. -/
theorem State.hmpRead_calm (s : State) (env : Env) (part va dpa ch off : Nat) (he : env.ecc = [])
    (hs : s.calmAt (hmpRq part) va dpa ch off false) :
    s.calmTo (s.hmpRead env part va).1 ∧ (s.hmpRead env part va).2.1 = .okay := by
  obtain ⟨e, h'⟩ := Option.isSome_iff_exists.mp hs.held.2
  have ht : s.translate env (hmpRq part) (va / 64 * 64) false = (s, .ok (.dev dpa)) := by
    rw [← hs.here, s.translate_held _ _ _ _ e hs.held.1 h', s.translate_held _ _ _ _ e hs.held.1 h']
  have h := s.readUnitDpa_calm env (hmpRq part) dpa ch off he hs.route hs.whole hs.alone hs.clean
  simp only [State.hmpRead, State.hmpTarget, ht]
  exact ⟨h.1, by rw [h.2]⟩

/-- A page whose units nothing disturbs is read without a failure. -/
theorem State.pageUnits_calm (env : Env) (part va : Nat) (he : env.ecc = []) : ∀ (n : Nat) (s : State) (off : Nat),
    (∀ i, i < n → ∃ dpa ch o, s.calmAt (hmpRq part) (va + (off + 64 * i)) dpa ch o false) →
    (s.pageUnits env part va off n).2.2 = none
  | 0, _, _, _ => rfl
  | n + 1, s, off, h => by
    obtain ⟨dpa, ch, o, h0⟩ := h 0 (by omega)
    have hr := s.hmpRead_calm env part (va + off) dpa ch o he (by simpa using h0)
    have ih := State.pageUnits_calm env part va he n (s.hmpRead env part (va + off)).1 (off + 64) fun i hi => by
      obtain ⟨dpa, ch, o, h1⟩ := h (i + 1) (by omega)
      exact ⟨dpa, ch, o, State.calmAt_of_calmTo hr.1
        (by rw [show off + 64 + 64 * i = off + 64 * (i + 1) by omega]; exact h1)⟩
    simp only [State.pageUnits, hr.2, if_true]
    exact ih

/-! ### Walks of a partition's tables -/

/-- What an undisturbed read of the unit at a DPA gives; none where something could disturb it. -/
def State.quietUnit (s : State) (rq : Rq) (dpa : Nat) : Option (List Byte) :=
  match dpaRoute s.part dpa with
  | none => none
  | some (ch, off) =>
    if s.cut rq.die (chanDie ch) = false ∧ (s.chan ch).queue = [] ∧ (s.codeword (physKey ch off / 32)).errs = [] ∧
        (s.codeword ((physKey ch off + 32) / 32)).errs = [] then
      some (s.seen (s.xtsKey rq.part) (physKey ch off) ++ s.seen (s.xtsKey rq.part) (physKey ch off + 32))
    else none

theorem State.quietUnit_read {s w : State} (h : s.calmTo w) (env : Env) (rq : Rq) (dpa : Nat) (d : List Byte) (he : env.ecc = [])
    (hq : s.quietUnit rq dpa = some d) : ∃ w', w.readUnitDpa env rq dpa = (w', .okay, d) ∧ s.calmTo w' := by
  simp only [State.quietUnit] at hq
  split at hq
  · cases hq
  · rename_i ch off hr
    split at hq
    · rename_i hc
      cases hq
      have hp : w.part = s.part := h.rest .part (by decide)
      have h' := w.readUnitDpa_calm env rq dpa ch off he (by rw [hp]; exact hr) (by rw [State.cut_of_calmTo h]; exact hc.1)
        (h.queues ch hc.2.1) (State.unitClean_of_calmTo h ⟨hc.2.2.1, hc.2.2.2⟩)
      refine ⟨_, Prod.ext rfl ?_, State.calmTo_trans h h'.1⟩
      rw [h'.2, State.xtsKey_of_calmTo h, State.seen_of_calmTo h, State.seen_of_calmTo h]
    · cases hq

/-- The tree of tables that an undisturbed walk finds; none where something could disturb it. -/
def State.treeSeen (s : State) (rq : Rq) : Nat → Nat → Nat → Tree → Option Tree
  | 0, _, _, t => some t
  | l + 1, tbl, va, t =>
    (upFrom 0 64).foldlM (fun x u => (s.quietUnit rq (tbl + 64 * u)).bind fun d =>
      (upFrom 0 8).foldlM (fun y i =>
        let pte := leAt d (8 * i) 8
        let a := va + (8 * u + i) * 2 ^ pageBits l
        if pteFault pte l then some y
        else if bit pte 2 then some { y with leaves := y.leaves ++ [(a, l, pte)] }
        else State.treeSeen s rq l ((bits pte 51 12) <<< 12) a y) x) { t with pages := t.pages ++ [tbl] }

/-- A fold that keeps a state calm, one of trees beside it. -/
theorem foldl_of_foldlM {α : Type} {s : State} (f : State × Tree → α → State × Tree) (g : Tree → α → Option Tree)
    (h : ∀ w t t' a, s.calmTo w → g t a = some t' → ∃ w', f (w, t) a = (w', t') ∧ s.calmTo w') :
    ∀ (l : List α) (w : State) (t t' : Tree), s.calmTo w → l.foldlM g t = some t' →
      ∃ w', l.foldl f (w, t) = (w', t') ∧ s.calmTo w'
  | [], w, t, t', hw, e => by cases e; exact ⟨w, rfl, hw⟩
  | a :: l, w, t, t', hw, e => by
    rw [List.foldlM_cons, Option.bind_eq_bind, Option.bind_eq_some_iff] at e
    obtain ⟨t1, h1, h2⟩ := e
    obtain ⟨w1, e1, hw1⟩ := h w t t1 a hw h1
    obtain ⟨w2, e2, hw2⟩ := foldl_of_foldlM f g h l w1 t1 t' hw1 h2
    exact ⟨w2, by rw [List.foldl_cons, e1, e2], hw2⟩

/-- A walk of tables that nothing disturbs finds what they hold. -/
theorem State.treeWalk_calm (s : State) (env : Env) (rq : Rq) (he : env.ecc = []) : ∀ (l tbl va : Nat) (w : State) (t t' : Tree),
    s.calmTo w → s.treeSeen rq l tbl va t = some t' →
    ∃ w', State.treeWalk env rq l tbl va (w, t) = (w', t') ∧ s.calmTo w'
  | 0, _, _, w, _, _, hw, e => by cases e; exact ⟨w, rfl, hw⟩
  | l + 1, tbl, va, w, t, t', hw, e => by
    simp only [State.treeSeen] at e
    simp only [State.treeWalk]
    refine foldl_of_foldlM _ _ (fun w t t' u hw e => ?_) _ _ _ _ hw e
    obtain ⟨d, hd, e⟩ := Option.bind_eq_some_iff.mp e
    obtain ⟨w1, h1, hw1⟩ := State.quietUnit_read hw env rq _ d he hd
    simp only [h1]
    refine foldl_of_foldlM _ _ (fun w t t' i hw e => ?_) _ _ _ _ hw1 e
    revert e
    simp only
    split
    · intro e; cases e; exact ⟨w, rfl, hw⟩
    · split
      · intro e; cases e; exact ⟨w, rfl, hw⟩
      · exact fun e => State.treeWalk_calm s env rq he l _ _ _ _ _ hw e

end Sys2Proof.Machine
end

