-- ==== Sys2Proof/Laws/Regs.lean ====
section
/-! SUPPORT. Laws of the register file: a register or a field read after one was written. -/

namespace Sys2Proof.Machine

/-- A register reads as what was stored in it. -/
@[simp] theorem State.reg_setReg_same (s : State) (r : Reg) (v i : Nat) (w : RegWord) :
    (s.setReg r v i w).reg r v i = w := by
  simp [State.reg, State.setReg]

/-- Every other register is as before. -/
theorem State.reg_setReg_ne (s : State) (r r' : Reg) (v i v' i' : Nat) (w : RegWord)
    (h : regKey r' v' i' ≠ regKey r v i) : (s.setReg r v i w).reg r' v' i' = s.reg r' v' i' := by
  simp [State.reg, State.setReg, sget_sput_ne _ _ _ _ h]

@[simp] theorem State.regN_setRegN_same (s : State) (r : Reg) (v i w : Nat) :
    (s.setRegN r v i w).regN r v i = w % 2 ^ 64 := by
  simp [State.regN, State.setRegN]

theorem State.regN_setRegN_ne (s : State) (r r' : Reg) (v i v' i' w : Nat)
    (h : regKey r' v' i' ≠ regKey r v i) : (s.setRegN r v i w).regN r' v' i' = s.regN r' v' i' := by
  simp [State.regN, State.setRegN, State.reg_setReg_ne _ _ _ _ _ _ _ _ h]

theorem State.regN_lt (s : State) (r : Reg) (v i : Nat) : s.regN r v i < 2 ^ 64 := (s.reg r v i).isLt

/-- Registers of views below 128 and instances below 8192 are the same register only when all three agree. -/
theorem regKey_inj {r r' : Reg} {v v' i i' : Nat} (hv : v < 128) (hv' : v' < 128) (hi : i < 8192) (hi' : i' < 8192) :
    regKey r v i = regKey r' v' i' ↔ r.ctorIdx = r'.ctorIdx ∧ v = v' ∧ i = i' := by
  unfold regKey; omega

/-- A field reads as what was stored in it, cut to its width. -/
theorem State.fld_setFld_same (s : State) (f : Fld) (v i w : Nat) (hl : f.lo ≤ f.hi) (hh : f.hi < 64) :
    (s.setFld f v i w).fld f v i = w % 2 ^ (f.hi + 1 - f.lo) := by
  unfold State.fld State.setFld
  rw [State.regN_setRegN_same, Nat.mod_eq_of_lt (setBits_lt _ _ _ _ 64 hl hh (s.regN_lt _ _ _)),
    bits_setBits_same _ _ _ _ hl]

/-- Every field of the same register that does not overlap the stored one is as before. -/
theorem State.fld_setFld_disj (s : State) (f g : Fld) (v i w : Nat) (hr : g.reg = f.reg) (hl : f.lo ≤ f.hi)
    (hh : f.hi < 64) (hg : g.lo ≤ g.hi) (hd : g.hi < f.lo ∨ f.hi < g.lo) :
    (s.setFld f v i w).fld g v i = s.fld g v i := by
  unfold State.fld State.setFld
  rw [hr, State.regN_setRegN_same, Nat.mod_eq_of_lt (setBits_lt _ _ _ _ 64 hl hh (s.regN_lt _ _ _))]
  rcases hd with hd | hd
  · exact bits_setBits_below _ _ _ _ _ _ hl hg hd
  · exact bits_setBits_above _ _ _ _ _ _ hl hd

/-- Every field of another register is as before. -/
theorem State.fld_setFld_other (s : State) (f g : Fld) (v i v' i' w : Nat)
    (h : regKey g.reg v' i' ≠ regKey f.reg v i) : (s.setFld f v i w).fld g v' i' = s.fld g v' i' := by
  unfold State.fld State.setFld
  rw [State.regN_setRegN_ne _ _ _ _ _ _ _ _ h]

theorem State.regN_setFld_other (s : State) (f : Fld) (r : Reg) (v i v' i' w : Nat)
    (h : regKey r v' i' ≠ regKey f.reg v i) : (s.setFld f v i w).regN r v' i' = s.regN r v' i' :=
  State.regN_setRegN_ne _ _ _ _ _ _ _ _ h

/-- A field of a register that was stored whole. -/
theorem State.fld_setRegN_same (s : State) (r : Reg) (g : Fld) (v i w : Nat) (hr : g.reg = r) (hg : g.hi < 64)
    (hl : g.lo ≤ g.hi) : (s.setRegN r v i w).fld g v i = bits w g.hi g.lo := by
  unfold State.fld
  rw [hr, State.regN_setRegN_same]
  have hw : bits (w % 2 ^ 64) g.hi g.lo = bits w g.hi g.lo := by
    unfold bits
    rw [Nat.shiftRight_eq_div_pow, Nat.shiftRight_eq_div_pow]
    have e1 : 2 ^ 64 = 2 ^ g.lo * (2 ^ (g.hi + 1 - g.lo) * 2 ^ (64 - (g.hi + 1))) := by
      rw [← Nat.pow_add, ← Nat.pow_add]; congr 1; omega
    rw [e1, Nat.mod_mul_right_div_self, Nat.mod_mul_right_mod]
  exact hw

/-- A field of a register other than the one stored whole. -/
theorem State.fld_setRegN_other (s : State) (r : Reg) (g : Fld) (v i v' i' w : Nat)
    (h : regKey g.reg v' i' ≠ regKey r v i) : (s.setRegN r v i w).fld g v' i' = s.fld g v' i' := by
  unfold State.fld
  rw [State.regN_setRegN_ne _ _ _ _ _ _ _ _ h]

/-- What a read of a register gives depends on the register file and the part alone. -/
theorem State.regN_congr {s t : State} (hr : t.regs = s.regs) (hp : t.part = s.part) (r : Reg) (v i : Nat) :
    t.regN r v i = s.regN r v i := by
  simp [State.regN, State.reg, hr, hp]

theorem State.fld_congr {s t : State} (hr : t.regs = s.regs) (hp : t.part = s.part) (f : Fld) (v i : Nat) :
    t.fld f v i = s.fld f v i := by
  simp [State.fld, State.regN_congr hr hp]

/-- Setting a bit of an error-status register: the bits that were set stay, and the new one is set. -/
theorem State.errOne_sts (s : State) (sts first : Reg) (b cap v i : Nat) :
    (s.errOne sts first b cap v i).regN sts v i = (s.regN sts v i ||| 2 ^ b) % 2 ^ 64 := by
  simp only [State.errOne, State.regN_setRegN_same]

/-- The first error is captured, and a later one leaves the capture as it is (R90). -/
theorem State.errOne_first (s : State) (sts first : Reg) (b cap v i : Nat) (h : regKey first v i ≠ regKey sts v i) :
    (s.errOne sts first b cap v i).regN first v i
      = if s.regN sts v i = 0 then cap % 2 ^ 64 else s.regN first v i := by
  simp only [State.errOne, State.regN_setRegN_ne _ _ _ _ _ _ _ _ h]
  split <;> simp

/-- Everything but the two registers is as before. -/
theorem State.errOne_other (s : State) (sts first r : Reg) (b cap v i v' i' : Nat) (h : regKey r v' i' ≠ regKey sts v i)
    (h' : regKey r v' i' ≠ regKey first v i) : (s.errOne sts first b cap v i).regN r v' i' = s.regN r v' i' := by
  simp only [State.errOne, State.regN_setRegN_ne _ _ _ _ _ _ _ _ h]
  split
  · exact State.regN_setRegN_ne _ _ _ _ _ _ _ _ h'
  · rfl

end Sys2Proof.Machine
end

