-- ==== Sys2Proof/Laws/State.lean ====
section
/-! SUPPORT. What each update of one part of State leaves: one lemma for each field and each update. -/

namespace Sys2Proof.Machine

/-! ### State.setReg -/

@[simp] theorem State.setReg_part (s : State) (r : Reg) (v i : Nat) (w : RegWord) : (s.setReg r v i w).part = s.part := rfl
@[simp] theorem State.setReg_pending (s : State) (r : Reg) (v i : Nat) (w : RegWord) : (s.setReg r v i w).pending = s.pending := rfl
@[simp] theorem State.setReg_emitted (s : State) (r : Reg) (v i : Nat) (w : RegWord) : (s.setReg r v i w).emitted = s.emitted := rfl
@[simp] theorem State.setReg_free (s : State) (r : Reg) (v i : Nat) (w : RegWord) : (s.setReg r v i w).free = s.free := rfl
@[simp] theorem State.setReg_regs (s : State) (r : Reg) (v i : Nat) (w : RegWord) : (s.setReg r v i w).regs = sput (regReset s.part r) s.regs (regKey r v i) w := rfl
@[simp] theorem State.setReg_mem (s : State) (r : Reg) (v i : Nat) (w : RegWord) : (s.setReg r v i w).mem = s.mem := rfl
@[simp] theorem State.setReg_top (s : State) (r : Reg) (v i : Nat) (w : RegWord) : (s.setReg r v i w).top = s.top := rfl
@[simp] theorem State.setReg_prt (s : State) (r : Reg) (v i : Nat) (w : RegWord) : (s.setReg r v i w).prt = s.prt := rfl
@[simp] theorem State.setReg_memc (s : State) (r : Reg) (v i : Nat) (w : RegWord) : (s.setReg r v i w).memc = s.memc := rfl
@[simp] theorem State.setReg_pte (s : State) (r : Reg) (v i : Nat) (w : RegWord) : (s.setReg r v i w).pte = s.pte := rfl
@[simp] theorem State.setReg_que (s : State) (r : Reg) (v i : Nat) (w : RegWord) : (s.setReg r v i w).que = s.que := rfl
@[simp] theorem State.setReg_pmc (s : State) (r : Reg) (v i : Nat) (w : RegWord) : (s.setReg r v i w).pmc = s.pmc := rfl
@[simp] theorem State.setReg_clp (s : State) (r : Reg) (v i : Nat) (w : RegWord) : (s.setReg r v i w).clp = s.clp := rfl
@[simp] theorem State.setReg_hmp (s : State) (r : Reg) (v i : Nat) (w : RegWord) : (s.setReg r v i w).hmp = s.hmp := rfl
@[simp] theorem State.setReg_mac (s : State) (r : Reg) (v i : Nat) (w : RegWord) : (s.setReg r v i w).mac = s.mac := rfl
@[simp] theorem State.setReg_cas (s : State) (r : Reg) (v i : Nat) (w : RegWord) : (s.setReg r v i w).cas = s.cas := rfl
@[simp] theorem State.setReg_aqd (s : State) (r : Reg) (v i : Nat) (w : RegWord) : (s.setReg r v i w).aqd = s.aqd := rfl
@[simp] theorem State.setReg_cell (s : State) (r : Reg) (v i : Nat) (w : RegWord) : (s.setReg r v i w).cell = s.cell := rfl
@[simp] theorem State.setReg_tam (s : State) (r : Reg) (v i : Nat) (w : RegWord) : (s.setReg r v i w).tam = s.tam := rfl
@[simp] theorem State.setReg_sta (s : State) (r : Reg) (v i : Nat) (w : RegWord) : (s.setReg r v i w).sta = s.sta := rfl
@[simp] theorem State.setReg_pool (s : State) (r : Reg) (v i : Nat) (w : RegWord) : (s.setReg r v i w).pool = s.pool := rfl
@[simp] theorem State.setReg_dma (s : State) (r : Reg) (v i : Nat) (w : RegWord) : (s.setReg r v i w).dma = s.dma := rfl
@[simp] theorem State.setReg_sec (s : State) (r : Reg) (v i : Nat) (w : RegWord) : (s.setReg r v i w).sec = s.sec := rfl
@[simp] theorem State.setReg_weir (s : State) (r : Reg) (v i : Nat) (w : RegWord) : (s.setReg r v i w).weir = s.weir := rfl
@[simp] theorem State.setReg_pwr (s : State) (r : Reg) (v i : Nat) (w : RegWord) : (s.setReg r v i w).pwr = s.pwr := rfl
@[simp] theorem State.setReg_lnk (s : State) (r : Reg) (v i : Nat) (w : RegWord) : (s.setReg r v i w).lnk = s.lnk := rfl
@[simp] theorem State.setReg_mgmt (s : State) (r : Reg) (v i : Nat) (w : RegWord) : (s.setReg r v i w).mgmt = s.mgmt := rfl

/-! ### State.setRegN -/

@[simp] theorem State.setRegN_part (s : State) (r : Reg) (v i w : Nat) : (s.setRegN r v i w).part = s.part := rfl
@[simp] theorem State.setRegN_pending (s : State) (r : Reg) (v i w : Nat) : (s.setRegN r v i w).pending = s.pending := rfl
@[simp] theorem State.setRegN_emitted (s : State) (r : Reg) (v i w : Nat) : (s.setRegN r v i w).emitted = s.emitted := rfl
@[simp] theorem State.setRegN_free (s : State) (r : Reg) (v i w : Nat) : (s.setRegN r v i w).free = s.free := rfl
@[simp] theorem State.setRegN_regs (s : State) (r : Reg) (v i w : Nat) : (s.setRegN r v i w).regs = sput (regReset s.part r) s.regs (regKey r v i) (BitVec.ofNat 64 w) := rfl
@[simp] theorem State.setRegN_mem (s : State) (r : Reg) (v i w : Nat) : (s.setRegN r v i w).mem = s.mem := rfl
@[simp] theorem State.setRegN_top (s : State) (r : Reg) (v i w : Nat) : (s.setRegN r v i w).top = s.top := rfl
@[simp] theorem State.setRegN_prt (s : State) (r : Reg) (v i w : Nat) : (s.setRegN r v i w).prt = s.prt := rfl
@[simp] theorem State.setRegN_memc (s : State) (r : Reg) (v i w : Nat) : (s.setRegN r v i w).memc = s.memc := rfl
@[simp] theorem State.setRegN_pte (s : State) (r : Reg) (v i w : Nat) : (s.setRegN r v i w).pte = s.pte := rfl
@[simp] theorem State.setRegN_que (s : State) (r : Reg) (v i w : Nat) : (s.setRegN r v i w).que = s.que := rfl
@[simp] theorem State.setRegN_pmc (s : State) (r : Reg) (v i w : Nat) : (s.setRegN r v i w).pmc = s.pmc := rfl
@[simp] theorem State.setRegN_clp (s : State) (r : Reg) (v i w : Nat) : (s.setRegN r v i w).clp = s.clp := rfl
@[simp] theorem State.setRegN_hmp (s : State) (r : Reg) (v i w : Nat) : (s.setRegN r v i w).hmp = s.hmp := rfl
@[simp] theorem State.setRegN_mac (s : State) (r : Reg) (v i w : Nat) : (s.setRegN r v i w).mac = s.mac := rfl
@[simp] theorem State.setRegN_cas (s : State) (r : Reg) (v i w : Nat) : (s.setRegN r v i w).cas = s.cas := rfl
@[simp] theorem State.setRegN_aqd (s : State) (r : Reg) (v i w : Nat) : (s.setRegN r v i w).aqd = s.aqd := rfl
@[simp] theorem State.setRegN_cell (s : State) (r : Reg) (v i w : Nat) : (s.setRegN r v i w).cell = s.cell := rfl
@[simp] theorem State.setRegN_tam (s : State) (r : Reg) (v i w : Nat) : (s.setRegN r v i w).tam = s.tam := rfl
@[simp] theorem State.setRegN_sta (s : State) (r : Reg) (v i w : Nat) : (s.setRegN r v i w).sta = s.sta := rfl
@[simp] theorem State.setRegN_pool (s : State) (r : Reg) (v i w : Nat) : (s.setRegN r v i w).pool = s.pool := rfl
@[simp] theorem State.setRegN_dma (s : State) (r : Reg) (v i w : Nat) : (s.setRegN r v i w).dma = s.dma := rfl
@[simp] theorem State.setRegN_sec (s : State) (r : Reg) (v i w : Nat) : (s.setRegN r v i w).sec = s.sec := rfl
@[simp] theorem State.setRegN_weir (s : State) (r : Reg) (v i w : Nat) : (s.setRegN r v i w).weir = s.weir := rfl
@[simp] theorem State.setRegN_pwr (s : State) (r : Reg) (v i w : Nat) : (s.setRegN r v i w).pwr = s.pwr := rfl
@[simp] theorem State.setRegN_lnk (s : State) (r : Reg) (v i w : Nat) : (s.setRegN r v i w).lnk = s.lnk := rfl
@[simp] theorem State.setRegN_mgmt (s : State) (r : Reg) (v i w : Nat) : (s.setRegN r v i w).mgmt = s.mgmt := rfl

/-! ### State.setFld -/

@[simp] theorem State.setFld_part (s : State) (f : Fld) (v i w : Nat) : (s.setFld f v i w).part = s.part := rfl
@[simp] theorem State.setFld_pending (s : State) (f : Fld) (v i w : Nat) : (s.setFld f v i w).pending = s.pending := rfl
@[simp] theorem State.setFld_emitted (s : State) (f : Fld) (v i w : Nat) : (s.setFld f v i w).emitted = s.emitted := rfl
@[simp] theorem State.setFld_free (s : State) (f : Fld) (v i w : Nat) : (s.setFld f v i w).free = s.free := rfl
@[simp] theorem State.setFld_mem (s : State) (f : Fld) (v i w : Nat) : (s.setFld f v i w).mem = s.mem := rfl
@[simp] theorem State.setFld_top (s : State) (f : Fld) (v i w : Nat) : (s.setFld f v i w).top = s.top := rfl
@[simp] theorem State.setFld_prt (s : State) (f : Fld) (v i w : Nat) : (s.setFld f v i w).prt = s.prt := rfl
@[simp] theorem State.setFld_memc (s : State) (f : Fld) (v i w : Nat) : (s.setFld f v i w).memc = s.memc := rfl
@[simp] theorem State.setFld_pte (s : State) (f : Fld) (v i w : Nat) : (s.setFld f v i w).pte = s.pte := rfl
@[simp] theorem State.setFld_que (s : State) (f : Fld) (v i w : Nat) : (s.setFld f v i w).que = s.que := rfl
@[simp] theorem State.setFld_pmc (s : State) (f : Fld) (v i w : Nat) : (s.setFld f v i w).pmc = s.pmc := rfl
@[simp] theorem State.setFld_clp (s : State) (f : Fld) (v i w : Nat) : (s.setFld f v i w).clp = s.clp := rfl
@[simp] theorem State.setFld_hmp (s : State) (f : Fld) (v i w : Nat) : (s.setFld f v i w).hmp = s.hmp := rfl
@[simp] theorem State.setFld_mac (s : State) (f : Fld) (v i w : Nat) : (s.setFld f v i w).mac = s.mac := rfl
@[simp] theorem State.setFld_cas (s : State) (f : Fld) (v i w : Nat) : (s.setFld f v i w).cas = s.cas := rfl
@[simp] theorem State.setFld_aqd (s : State) (f : Fld) (v i w : Nat) : (s.setFld f v i w).aqd = s.aqd := rfl
@[simp] theorem State.setFld_cell (s : State) (f : Fld) (v i w : Nat) : (s.setFld f v i w).cell = s.cell := rfl
@[simp] theorem State.setFld_tam (s : State) (f : Fld) (v i w : Nat) : (s.setFld f v i w).tam = s.tam := rfl
@[simp] theorem State.setFld_sta (s : State) (f : Fld) (v i w : Nat) : (s.setFld f v i w).sta = s.sta := rfl
@[simp] theorem State.setFld_pool (s : State) (f : Fld) (v i w : Nat) : (s.setFld f v i w).pool = s.pool := rfl
@[simp] theorem State.setFld_dma (s : State) (f : Fld) (v i w : Nat) : (s.setFld f v i w).dma = s.dma := rfl
@[simp] theorem State.setFld_sec (s : State) (f : Fld) (v i w : Nat) : (s.setFld f v i w).sec = s.sec := rfl
@[simp] theorem State.setFld_weir (s : State) (f : Fld) (v i w : Nat) : (s.setFld f v i w).weir = s.weir := rfl
@[simp] theorem State.setFld_pwr (s : State) (f : Fld) (v i w : Nat) : (s.setFld f v i w).pwr = s.pwr := rfl
@[simp] theorem State.setFld_lnk (s : State) (f : Fld) (v i w : Nat) : (s.setFld f v i w).lnk = s.lnk := rfl
@[simp] theorem State.setFld_mgmt (s : State) (f : Fld) (v i w : Nat) : (s.setFld f v i w).mgmt = s.mgmt := rfl

/-! ### State.satInc -/

@[simp] theorem State.satInc_part (s : State) (f : Fld) (v i n : Nat) : (s.satInc f v i n).part = s.part := rfl
@[simp] theorem State.satInc_pending (s : State) (f : Fld) (v i n : Nat) : (s.satInc f v i n).pending = s.pending := rfl
@[simp] theorem State.satInc_emitted (s : State) (f : Fld) (v i n : Nat) : (s.satInc f v i n).emitted = s.emitted := rfl
@[simp] theorem State.satInc_free (s : State) (f : Fld) (v i n : Nat) : (s.satInc f v i n).free = s.free := rfl
@[simp] theorem State.satInc_mem (s : State) (f : Fld) (v i n : Nat) : (s.satInc f v i n).mem = s.mem := rfl
@[simp] theorem State.satInc_top (s : State) (f : Fld) (v i n : Nat) : (s.satInc f v i n).top = s.top := rfl
@[simp] theorem State.satInc_prt (s : State) (f : Fld) (v i n : Nat) : (s.satInc f v i n).prt = s.prt := rfl
@[simp] theorem State.satInc_memc (s : State) (f : Fld) (v i n : Nat) : (s.satInc f v i n).memc = s.memc := rfl
@[simp] theorem State.satInc_pte (s : State) (f : Fld) (v i n : Nat) : (s.satInc f v i n).pte = s.pte := rfl
@[simp] theorem State.satInc_que (s : State) (f : Fld) (v i n : Nat) : (s.satInc f v i n).que = s.que := rfl
@[simp] theorem State.satInc_pmc (s : State) (f : Fld) (v i n : Nat) : (s.satInc f v i n).pmc = s.pmc := rfl
@[simp] theorem State.satInc_clp (s : State) (f : Fld) (v i n : Nat) : (s.satInc f v i n).clp = s.clp := rfl
@[simp] theorem State.satInc_hmp (s : State) (f : Fld) (v i n : Nat) : (s.satInc f v i n).hmp = s.hmp := rfl
@[simp] theorem State.satInc_mac (s : State) (f : Fld) (v i n : Nat) : (s.satInc f v i n).mac = s.mac := rfl
@[simp] theorem State.satInc_cas (s : State) (f : Fld) (v i n : Nat) : (s.satInc f v i n).cas = s.cas := rfl
@[simp] theorem State.satInc_aqd (s : State) (f : Fld) (v i n : Nat) : (s.satInc f v i n).aqd = s.aqd := rfl
@[simp] theorem State.satInc_cell (s : State) (f : Fld) (v i n : Nat) : (s.satInc f v i n).cell = s.cell := rfl
@[simp] theorem State.satInc_tam (s : State) (f : Fld) (v i n : Nat) : (s.satInc f v i n).tam = s.tam := rfl
@[simp] theorem State.satInc_sta (s : State) (f : Fld) (v i n : Nat) : (s.satInc f v i n).sta = s.sta := rfl
@[simp] theorem State.satInc_pool (s : State) (f : Fld) (v i n : Nat) : (s.satInc f v i n).pool = s.pool := rfl
@[simp] theorem State.satInc_dma (s : State) (f : Fld) (v i n : Nat) : (s.satInc f v i n).dma = s.dma := rfl
@[simp] theorem State.satInc_sec (s : State) (f : Fld) (v i n : Nat) : (s.satInc f v i n).sec = s.sec := rfl
@[simp] theorem State.satInc_weir (s : State) (f : Fld) (v i n : Nat) : (s.satInc f v i n).weir = s.weir := rfl
@[simp] theorem State.satInc_pwr (s : State) (f : Fld) (v i n : Nat) : (s.satInc f v i n).pwr = s.pwr := rfl
@[simp] theorem State.satInc_lnk (s : State) (f : Fld) (v i n : Nat) : (s.satInc f v i n).lnk = s.lnk := rfl
@[simp] theorem State.satInc_mgmt (s : State) (f : Fld) (v i n : Nat) : (s.satInc f v i n).mgmt = s.mgmt := rfl

/-! ### State.emit -/

@[simp] theorem State.emit_part (s : State) (e : Emission) : (s.emit e).part = s.part := rfl
@[simp] theorem State.emit_pending (s : State) (e : Emission) : (s.emit e).pending = s.pending := rfl
@[simp] theorem State.emit_emitted (s : State) (e : Emission) : (s.emit e).emitted = s.emitted ++ [e] := rfl
@[simp] theorem State.emit_free (s : State) (e : Emission) : (s.emit e).free = s.free := rfl
@[simp] theorem State.emit_regs (s : State) (e : Emission) : (s.emit e).regs = s.regs := rfl
@[simp] theorem State.emit_mem (s : State) (e : Emission) : (s.emit e).mem = s.mem := rfl
@[simp] theorem State.emit_top (s : State) (e : Emission) : (s.emit e).top = s.top := rfl
@[simp] theorem State.emit_prt (s : State) (e : Emission) : (s.emit e).prt = s.prt := rfl
@[simp] theorem State.emit_memc (s : State) (e : Emission) : (s.emit e).memc = s.memc := rfl
@[simp] theorem State.emit_pte (s : State) (e : Emission) : (s.emit e).pte = s.pte := rfl
@[simp] theorem State.emit_que (s : State) (e : Emission) : (s.emit e).que = s.que := rfl
@[simp] theorem State.emit_pmc (s : State) (e : Emission) : (s.emit e).pmc = s.pmc := rfl
@[simp] theorem State.emit_clp (s : State) (e : Emission) : (s.emit e).clp = s.clp := rfl
@[simp] theorem State.emit_hmp (s : State) (e : Emission) : (s.emit e).hmp = s.hmp := rfl
@[simp] theorem State.emit_mac (s : State) (e : Emission) : (s.emit e).mac = s.mac := rfl
@[simp] theorem State.emit_cas (s : State) (e : Emission) : (s.emit e).cas = s.cas := rfl
@[simp] theorem State.emit_aqd (s : State) (e : Emission) : (s.emit e).aqd = s.aqd := rfl
@[simp] theorem State.emit_cell (s : State) (e : Emission) : (s.emit e).cell = s.cell := rfl
@[simp] theorem State.emit_tam (s : State) (e : Emission) : (s.emit e).tam = s.tam := rfl
@[simp] theorem State.emit_sta (s : State) (e : Emission) : (s.emit e).sta = s.sta := rfl
@[simp] theorem State.emit_pool (s : State) (e : Emission) : (s.emit e).pool = s.pool := rfl
@[simp] theorem State.emit_dma (s : State) (e : Emission) : (s.emit e).dma = s.dma := rfl
@[simp] theorem State.emit_sec (s : State) (e : Emission) : (s.emit e).sec = s.sec := rfl
@[simp] theorem State.emit_weir (s : State) (e : Emission) : (s.emit e).weir = s.weir := rfl
@[simp] theorem State.emit_pwr (s : State) (e : Emission) : (s.emit e).pwr = s.pwr := rfl
@[simp] theorem State.emit_lnk (s : State) (e : Emission) : (s.emit e).lnk = s.lnk := rfl
@[simp] theorem State.emit_mgmt (s : State) (e : Emission) : (s.emit e).mgmt = s.mgmt := rfl

/-! ### State.emitFor -/

@[simp] theorem State.emitFor_part (s : State) (p : Nat) (e : Emission) : (s.emitFor p e).part = s.part := rfl
@[simp] theorem State.emitFor_pending (s : State) (p : Nat) (e : Emission) : (s.emitFor p e).pending = s.pending := rfl
@[simp] theorem State.emitFor_free (s : State) (p : Nat) (e : Emission) : (s.emitFor p e).free = s.free := rfl
@[simp] theorem State.emitFor_regs (s : State) (p : Nat) (e : Emission) : (s.emitFor p e).regs = s.regs := rfl
@[simp] theorem State.emitFor_mem (s : State) (p : Nat) (e : Emission) : (s.emitFor p e).mem = s.mem := rfl
@[simp] theorem State.emitFor_top (s : State) (p : Nat) (e : Emission) : (s.emitFor p e).top = s.top := rfl
@[simp] theorem State.emitFor_prt (s : State) (p : Nat) (e : Emission) : (s.emitFor p e).prt = s.prt := rfl
@[simp] theorem State.emitFor_memc (s : State) (p : Nat) (e : Emission) : (s.emitFor p e).memc = s.memc := rfl
@[simp] theorem State.emitFor_pte (s : State) (p : Nat) (e : Emission) : (s.emitFor p e).pte = s.pte := rfl
@[simp] theorem State.emitFor_que (s : State) (p : Nat) (e : Emission) : (s.emitFor p e).que = s.que := rfl
@[simp] theorem State.emitFor_pmc (s : State) (p : Nat) (e : Emission) : (s.emitFor p e).pmc = s.pmc := rfl
@[simp] theorem State.emitFor_clp (s : State) (p : Nat) (e : Emission) : (s.emitFor p e).clp = s.clp := rfl
@[simp] theorem State.emitFor_hmp (s : State) (p : Nat) (e : Emission) : (s.emitFor p e).hmp = s.hmp := rfl
@[simp] theorem State.emitFor_mac (s : State) (p : Nat) (e : Emission) : (s.emitFor p e).mac = s.mac := rfl
@[simp] theorem State.emitFor_cas (s : State) (p : Nat) (e : Emission) : (s.emitFor p e).cas = s.cas := rfl
@[simp] theorem State.emitFor_aqd (s : State) (p : Nat) (e : Emission) : (s.emitFor p e).aqd = s.aqd := rfl
@[simp] theorem State.emitFor_cell (s : State) (p : Nat) (e : Emission) : (s.emitFor p e).cell = s.cell := rfl
@[simp] theorem State.emitFor_tam (s : State) (p : Nat) (e : Emission) : (s.emitFor p e).tam = s.tam := rfl
@[simp] theorem State.emitFor_sta (s : State) (p : Nat) (e : Emission) : (s.emitFor p e).sta = s.sta := rfl
@[simp] theorem State.emitFor_pool (s : State) (p : Nat) (e : Emission) : (s.emitFor p e).pool = s.pool := rfl
@[simp] theorem State.emitFor_dma (s : State) (p : Nat) (e : Emission) : (s.emitFor p e).dma = s.dma := rfl
@[simp] theorem State.emitFor_sec (s : State) (p : Nat) (e : Emission) : (s.emitFor p e).sec = s.sec := rfl
@[simp] theorem State.emitFor_weir (s : State) (p : Nat) (e : Emission) : (s.emitFor p e).weir = s.weir := rfl
@[simp] theorem State.emitFor_pwr (s : State) (p : Nat) (e : Emission) : (s.emitFor p e).pwr = s.pwr := rfl
@[simp] theorem State.emitFor_lnk (s : State) (p : Nat) (e : Emission) : (s.emitFor p e).lnk = s.lnk := rfl
@[simp] theorem State.emitFor_mgmt (s : State) (p : Nat) (e : Emission) : (s.emitFor p e).mgmt = s.mgmt := rfl

/-! ### State.emitFn -/

@[simp] theorem State.emitFn_part (s : State) (fn : Nat) (e : Emission) : (s.emitFn fn e).part = s.part := rfl
@[simp] theorem State.emitFn_pending (s : State) (fn : Nat) (e : Emission) : (s.emitFn fn e).pending = s.pending := rfl
@[simp] theorem State.emitFn_free (s : State) (fn : Nat) (e : Emission) : (s.emitFn fn e).free = s.free := rfl
@[simp] theorem State.emitFn_regs (s : State) (fn : Nat) (e : Emission) : (s.emitFn fn e).regs = s.regs := rfl
@[simp] theorem State.emitFn_mem (s : State) (fn : Nat) (e : Emission) : (s.emitFn fn e).mem = s.mem := rfl
@[simp] theorem State.emitFn_top (s : State) (fn : Nat) (e : Emission) : (s.emitFn fn e).top = s.top := rfl
@[simp] theorem State.emitFn_prt (s : State) (fn : Nat) (e : Emission) : (s.emitFn fn e).prt = s.prt := rfl
@[simp] theorem State.emitFn_memc (s : State) (fn : Nat) (e : Emission) : (s.emitFn fn e).memc = s.memc := rfl
@[simp] theorem State.emitFn_pte (s : State) (fn : Nat) (e : Emission) : (s.emitFn fn e).pte = s.pte := rfl
@[simp] theorem State.emitFn_que (s : State) (fn : Nat) (e : Emission) : (s.emitFn fn e).que = s.que := rfl
@[simp] theorem State.emitFn_pmc (s : State) (fn : Nat) (e : Emission) : (s.emitFn fn e).pmc = s.pmc := rfl
@[simp] theorem State.emitFn_clp (s : State) (fn : Nat) (e : Emission) : (s.emitFn fn e).clp = s.clp := rfl
@[simp] theorem State.emitFn_hmp (s : State) (fn : Nat) (e : Emission) : (s.emitFn fn e).hmp = s.hmp := rfl
@[simp] theorem State.emitFn_mac (s : State) (fn : Nat) (e : Emission) : (s.emitFn fn e).mac = s.mac := rfl
@[simp] theorem State.emitFn_cas (s : State) (fn : Nat) (e : Emission) : (s.emitFn fn e).cas = s.cas := rfl
@[simp] theorem State.emitFn_aqd (s : State) (fn : Nat) (e : Emission) : (s.emitFn fn e).aqd = s.aqd := rfl
@[simp] theorem State.emitFn_cell (s : State) (fn : Nat) (e : Emission) : (s.emitFn fn e).cell = s.cell := rfl
@[simp] theorem State.emitFn_tam (s : State) (fn : Nat) (e : Emission) : (s.emitFn fn e).tam = s.tam := rfl
@[simp] theorem State.emitFn_sta (s : State) (fn : Nat) (e : Emission) : (s.emitFn fn e).sta = s.sta := rfl
@[simp] theorem State.emitFn_pool (s : State) (fn : Nat) (e : Emission) : (s.emitFn fn e).pool = s.pool := rfl
@[simp] theorem State.emitFn_dma (s : State) (fn : Nat) (e : Emission) : (s.emitFn fn e).dma = s.dma := rfl
@[simp] theorem State.emitFn_sec (s : State) (fn : Nat) (e : Emission) : (s.emitFn fn e).sec = s.sec := rfl
@[simp] theorem State.emitFn_weir (s : State) (fn : Nat) (e : Emission) : (s.emitFn fn e).weir = s.weir := rfl
@[simp] theorem State.emitFn_pwr (s : State) (fn : Nat) (e : Emission) : (s.emitFn fn e).pwr = s.pwr := rfl
@[simp] theorem State.emitFn_lnk (s : State) (fn : Nat) (e : Emission) : (s.emitFn fn e).lnk = s.lnk := rfl
@[simp] theorem State.emitFn_mgmt (s : State) (fn : Nat) (e : Emission) : (s.emitFn fn e).mgmt = s.mgmt := rfl

/-! ### State.bump -/

@[simp] theorem State.bump_part (s : State) : s.bump.part = s.part := rfl
@[simp] theorem State.bump_pending (s : State) : s.bump.pending = s.pending := rfl
@[simp] theorem State.bump_emitted (s : State) : s.bump.emitted = s.emitted := rfl
@[simp] theorem State.bump_free (s : State) : s.bump.free = s.free + 1 := rfl
@[simp] theorem State.bump_regs (s : State) : s.bump.regs = s.regs := rfl
@[simp] theorem State.bump_mem (s : State) : s.bump.mem = s.mem := rfl
@[simp] theorem State.bump_top (s : State) : s.bump.top = s.top := rfl
@[simp] theorem State.bump_prt (s : State) : s.bump.prt = s.prt := rfl
@[simp] theorem State.bump_memc (s : State) : s.bump.memc = s.memc := rfl
@[simp] theorem State.bump_pte (s : State) : s.bump.pte = s.pte := rfl
@[simp] theorem State.bump_que (s : State) : s.bump.que = s.que := rfl
@[simp] theorem State.bump_pmc (s : State) : s.bump.pmc = s.pmc := rfl
@[simp] theorem State.bump_clp (s : State) : s.bump.clp = s.clp := rfl
@[simp] theorem State.bump_hmp (s : State) : s.bump.hmp = s.hmp := rfl
@[simp] theorem State.bump_mac (s : State) : s.bump.mac = s.mac := rfl
@[simp] theorem State.bump_cas (s : State) : s.bump.cas = s.cas := rfl
@[simp] theorem State.bump_aqd (s : State) : s.bump.aqd = s.aqd := rfl
@[simp] theorem State.bump_cell (s : State) : s.bump.cell = s.cell := rfl
@[simp] theorem State.bump_tam (s : State) : s.bump.tam = s.tam := rfl
@[simp] theorem State.bump_sta (s : State) : s.bump.sta = s.sta := rfl
@[simp] theorem State.bump_pool (s : State) : s.bump.pool = s.pool := rfl
@[simp] theorem State.bump_dma (s : State) : s.bump.dma = s.dma := rfl
@[simp] theorem State.bump_sec (s : State) : s.bump.sec = s.sec := rfl
@[simp] theorem State.bump_weir (s : State) : s.bump.weir = s.weir := rfl
@[simp] theorem State.bump_pwr (s : State) : s.bump.pwr = s.pwr := rfl
@[simp] theorem State.bump_lnk (s : State) : s.bump.lnk = s.lnk := rfl
@[simp] theorem State.bump_mgmt (s : State) : s.bump.mgmt = s.mgmt := rfl

/-! ### State.setByte -/

@[simp] theorem State.setByte_part (s : State) (k : Nat) (b : Byte) : (s.setByte k b).part = s.part := rfl
@[simp] theorem State.setByte_pending (s : State) (k : Nat) (b : Byte) : (s.setByte k b).pending = s.pending := rfl
@[simp] theorem State.setByte_emitted (s : State) (k : Nat) (b : Byte) : (s.setByte k b).emitted = s.emitted := rfl
@[simp] theorem State.setByte_free (s : State) (k : Nat) (b : Byte) : (s.setByte k b).free = s.free := rfl
@[simp] theorem State.setByte_regs (s : State) (k : Nat) (b : Byte) : (s.setByte k b).regs = s.regs := rfl
@[simp] theorem State.setByte_mem (s : State) (k : Nat) (b : Byte) : (s.setByte k b).mem = sput 0 s.mem k b := rfl
@[simp] theorem State.setByte_top (s : State) (k : Nat) (b : Byte) : (s.setByte k b).top = s.top := rfl
@[simp] theorem State.setByte_prt (s : State) (k : Nat) (b : Byte) : (s.setByte k b).prt = s.prt := rfl
@[simp] theorem State.setByte_memc (s : State) (k : Nat) (b : Byte) : (s.setByte k b).memc = s.memc := rfl
@[simp] theorem State.setByte_pte (s : State) (k : Nat) (b : Byte) : (s.setByte k b).pte = s.pte := rfl
@[simp] theorem State.setByte_que (s : State) (k : Nat) (b : Byte) : (s.setByte k b).que = s.que := rfl
@[simp] theorem State.setByte_pmc (s : State) (k : Nat) (b : Byte) : (s.setByte k b).pmc = s.pmc := rfl
@[simp] theorem State.setByte_clp (s : State) (k : Nat) (b : Byte) : (s.setByte k b).clp = s.clp := rfl
@[simp] theorem State.setByte_hmp (s : State) (k : Nat) (b : Byte) : (s.setByte k b).hmp = s.hmp := rfl
@[simp] theorem State.setByte_mac (s : State) (k : Nat) (b : Byte) : (s.setByte k b).mac = s.mac := rfl
@[simp] theorem State.setByte_cas (s : State) (k : Nat) (b : Byte) : (s.setByte k b).cas = s.cas := rfl
@[simp] theorem State.setByte_aqd (s : State) (k : Nat) (b : Byte) : (s.setByte k b).aqd = s.aqd := rfl
@[simp] theorem State.setByte_cell (s : State) (k : Nat) (b : Byte) : (s.setByte k b).cell = s.cell := rfl
@[simp] theorem State.setByte_tam (s : State) (k : Nat) (b : Byte) : (s.setByte k b).tam = s.tam := rfl
@[simp] theorem State.setByte_sta (s : State) (k : Nat) (b : Byte) : (s.setByte k b).sta = s.sta := rfl
@[simp] theorem State.setByte_pool (s : State) (k : Nat) (b : Byte) : (s.setByte k b).pool = s.pool := rfl
@[simp] theorem State.setByte_dma (s : State) (k : Nat) (b : Byte) : (s.setByte k b).dma = s.dma := rfl
@[simp] theorem State.setByte_sec (s : State) (k : Nat) (b : Byte) : (s.setByte k b).sec = s.sec := rfl
@[simp] theorem State.setByte_weir (s : State) (k : Nat) (b : Byte) : (s.setByte k b).weir = s.weir := rfl
@[simp] theorem State.setByte_pwr (s : State) (k : Nat) (b : Byte) : (s.setByte k b).pwr = s.pwr := rfl
@[simp] theorem State.setByte_lnk (s : State) (k : Nat) (b : Byte) : (s.setByte k b).lnk = s.lnk := rfl
@[simp] theorem State.setByte_mgmt (s : State) (k : Nat) (b : Byte) : (s.setByte k b).mgmt = s.mgmt := rfl

/-! ### State.setVec -/

@[simp] theorem State.setVec_part (s : State) (fn v : Nat) (x : Vec) : (s.setVec fn v x).part = s.part := rfl
@[simp] theorem State.setVec_pending (s : State) (fn v : Nat) (x : Vec) : (s.setVec fn v x).pending = s.pending := rfl
@[simp] theorem State.setVec_emitted (s : State) (fn v : Nat) (x : Vec) : (s.setVec fn v x).emitted = s.emitted := rfl
@[simp] theorem State.setVec_free (s : State) (fn v : Nat) (x : Vec) : (s.setVec fn v x).free = s.free := rfl
@[simp] theorem State.setVec_regs (s : State) (fn v : Nat) (x : Vec) : (s.setVec fn v x).regs = s.regs := rfl
@[simp] theorem State.setVec_mem (s : State) (fn v : Nat) (x : Vec) : (s.setVec fn v x).mem = s.mem := rfl
@[simp] theorem State.setVec_top (s : State) (fn v : Nat) (x : Vec) : (s.setVec fn v x).top = s.top := rfl
@[simp] theorem State.setVec_prt (s : State) (fn v : Nat) (x : Vec) : (s.setVec fn v x).prt = s.prt := rfl
@[simp] theorem State.setVec_memc (s : State) (fn v : Nat) (x : Vec) : (s.setVec fn v x).memc = s.memc := rfl
@[simp] theorem State.setVec_pte (s : State) (fn v : Nat) (x : Vec) : (s.setVec fn v x).pte = s.pte := rfl
@[simp] theorem State.setVec_pmc (s : State) (fn v : Nat) (x : Vec) : (s.setVec fn v x).pmc = s.pmc := rfl
@[simp] theorem State.setVec_clp (s : State) (fn v : Nat) (x : Vec) : (s.setVec fn v x).clp = s.clp := rfl
@[simp] theorem State.setVec_hmp (s : State) (fn v : Nat) (x : Vec) : (s.setVec fn v x).hmp = s.hmp := rfl
@[simp] theorem State.setVec_mac (s : State) (fn v : Nat) (x : Vec) : (s.setVec fn v x).mac = s.mac := rfl
@[simp] theorem State.setVec_cas (s : State) (fn v : Nat) (x : Vec) : (s.setVec fn v x).cas = s.cas := rfl
@[simp] theorem State.setVec_aqd (s : State) (fn v : Nat) (x : Vec) : (s.setVec fn v x).aqd = s.aqd := rfl
@[simp] theorem State.setVec_cell (s : State) (fn v : Nat) (x : Vec) : (s.setVec fn v x).cell = s.cell := rfl
@[simp] theorem State.setVec_tam (s : State) (fn v : Nat) (x : Vec) : (s.setVec fn v x).tam = s.tam := rfl
@[simp] theorem State.setVec_sta (s : State) (fn v : Nat) (x : Vec) : (s.setVec fn v x).sta = s.sta := rfl
@[simp] theorem State.setVec_pool (s : State) (fn v : Nat) (x : Vec) : (s.setVec fn v x).pool = s.pool := rfl
@[simp] theorem State.setVec_dma (s : State) (fn v : Nat) (x : Vec) : (s.setVec fn v x).dma = s.dma := rfl
@[simp] theorem State.setVec_sec (s : State) (fn v : Nat) (x : Vec) : (s.setVec fn v x).sec = s.sec := rfl
@[simp] theorem State.setVec_weir (s : State) (fn v : Nat) (x : Vec) : (s.setVec fn v x).weir = s.weir := rfl
@[simp] theorem State.setVec_pwr (s : State) (fn v : Nat) (x : Vec) : (s.setVec fn v x).pwr = s.pwr := rfl
@[simp] theorem State.setVec_lnk (s : State) (fn v : Nat) (x : Vec) : (s.setVec fn v x).lnk = s.lnk := rfl
@[simp] theorem State.setVec_mgmt (s : State) (fn v : Nat) (x : Vec) : (s.setVec fn v x).mgmt = s.mgmt := rfl

/-! ### State.setRing -/

@[simp] theorem State.setRing_part (s : State) (fn r : Nat) (x : Ring) : (s.setRing fn r x).part = s.part := rfl
@[simp] theorem State.setRing_pending (s : State) (fn r : Nat) (x : Ring) : (s.setRing fn r x).pending = s.pending := rfl
@[simp] theorem State.setRing_emitted (s : State) (fn r : Nat) (x : Ring) : (s.setRing fn r x).emitted = s.emitted := rfl
@[simp] theorem State.setRing_free (s : State) (fn r : Nat) (x : Ring) : (s.setRing fn r x).free = s.free := rfl
@[simp] theorem State.setRing_regs (s : State) (fn r : Nat) (x : Ring) : (s.setRing fn r x).regs = s.regs := rfl
@[simp] theorem State.setRing_mem (s : State) (fn r : Nat) (x : Ring) : (s.setRing fn r x).mem = s.mem := rfl
@[simp] theorem State.setRing_top (s : State) (fn r : Nat) (x : Ring) : (s.setRing fn r x).top = s.top := rfl
@[simp] theorem State.setRing_prt (s : State) (fn r : Nat) (x : Ring) : (s.setRing fn r x).prt = s.prt := rfl
@[simp] theorem State.setRing_memc (s : State) (fn r : Nat) (x : Ring) : (s.setRing fn r x).memc = s.memc := rfl
@[simp] theorem State.setRing_pte (s : State) (fn r : Nat) (x : Ring) : (s.setRing fn r x).pte = s.pte := rfl
@[simp] theorem State.setRing_pmc (s : State) (fn r : Nat) (x : Ring) : (s.setRing fn r x).pmc = s.pmc := rfl
@[simp] theorem State.setRing_clp (s : State) (fn r : Nat) (x : Ring) : (s.setRing fn r x).clp = s.clp := rfl
@[simp] theorem State.setRing_hmp (s : State) (fn r : Nat) (x : Ring) : (s.setRing fn r x).hmp = s.hmp := rfl
@[simp] theorem State.setRing_mac (s : State) (fn r : Nat) (x : Ring) : (s.setRing fn r x).mac = s.mac := rfl
@[simp] theorem State.setRing_cas (s : State) (fn r : Nat) (x : Ring) : (s.setRing fn r x).cas = s.cas := rfl
@[simp] theorem State.setRing_aqd (s : State) (fn r : Nat) (x : Ring) : (s.setRing fn r x).aqd = s.aqd := rfl
@[simp] theorem State.setRing_cell (s : State) (fn r : Nat) (x : Ring) : (s.setRing fn r x).cell = s.cell := rfl
@[simp] theorem State.setRing_tam (s : State) (fn r : Nat) (x : Ring) : (s.setRing fn r x).tam = s.tam := rfl
@[simp] theorem State.setRing_sta (s : State) (fn r : Nat) (x : Ring) : (s.setRing fn r x).sta = s.sta := rfl
@[simp] theorem State.setRing_pool (s : State) (fn r : Nat) (x : Ring) : (s.setRing fn r x).pool = s.pool := rfl
@[simp] theorem State.setRing_dma (s : State) (fn r : Nat) (x : Ring) : (s.setRing fn r x).dma = s.dma := rfl
@[simp] theorem State.setRing_sec (s : State) (fn r : Nat) (x : Ring) : (s.setRing fn r x).sec = s.sec := rfl
@[simp] theorem State.setRing_weir (s : State) (fn r : Nat) (x : Ring) : (s.setRing fn r x).weir = s.weir := rfl
@[simp] theorem State.setRing_pwr (s : State) (fn r : Nat) (x : Ring) : (s.setRing fn r x).pwr = s.pwr := rfl
@[simp] theorem State.setRing_lnk (s : State) (fn r : Nat) (x : Ring) : (s.setRing fn r x).lnk = s.lnk := rfl
@[simp] theorem State.setRing_mgmt (s : State) (fn r : Nat) (x : Ring) : (s.setRing fn r x).mgmt = s.mgmt := rfl

/-! ### State.withClp -/

@[simp] theorem State.withClp_part (s : State) (f : ClpSt → ClpSt) : (s.withClp f).part = s.part := rfl
@[simp] theorem State.withClp_pending (s : State) (f : ClpSt → ClpSt) : (s.withClp f).pending = s.pending := rfl
@[simp] theorem State.withClp_emitted (s : State) (f : ClpSt → ClpSt) : (s.withClp f).emitted = s.emitted := rfl
@[simp] theorem State.withClp_free (s : State) (f : ClpSt → ClpSt) : (s.withClp f).free = s.free := rfl
@[simp] theorem State.withClp_regs (s : State) (f : ClpSt → ClpSt) : (s.withClp f).regs = s.regs := rfl
@[simp] theorem State.withClp_mem (s : State) (f : ClpSt → ClpSt) : (s.withClp f).mem = s.mem := rfl
@[simp] theorem State.withClp_top (s : State) (f : ClpSt → ClpSt) : (s.withClp f).top = s.top := rfl
@[simp] theorem State.withClp_prt (s : State) (f : ClpSt → ClpSt) : (s.withClp f).prt = s.prt := rfl
@[simp] theorem State.withClp_memc (s : State) (f : ClpSt → ClpSt) : (s.withClp f).memc = s.memc := rfl
@[simp] theorem State.withClp_pte (s : State) (f : ClpSt → ClpSt) : (s.withClp f).pte = s.pte := rfl
@[simp] theorem State.withClp_que (s : State) (f : ClpSt → ClpSt) : (s.withClp f).que = s.que := rfl
@[simp] theorem State.withClp_pmc (s : State) (f : ClpSt → ClpSt) : (s.withClp f).pmc = s.pmc := rfl
@[simp] theorem State.withClp_clp (s : State) (f : ClpSt → ClpSt) : (s.withClp f).clp = f s.clp := rfl
@[simp] theorem State.withClp_hmp (s : State) (f : ClpSt → ClpSt) : (s.withClp f).hmp = s.hmp := rfl
@[simp] theorem State.withClp_mac (s : State) (f : ClpSt → ClpSt) : (s.withClp f).mac = s.mac := rfl
@[simp] theorem State.withClp_cas (s : State) (f : ClpSt → ClpSt) : (s.withClp f).cas = s.cas := rfl
@[simp] theorem State.withClp_aqd (s : State) (f : ClpSt → ClpSt) : (s.withClp f).aqd = s.aqd := rfl
@[simp] theorem State.withClp_cell (s : State) (f : ClpSt → ClpSt) : (s.withClp f).cell = s.cell := rfl
@[simp] theorem State.withClp_tam (s : State) (f : ClpSt → ClpSt) : (s.withClp f).tam = s.tam := rfl
@[simp] theorem State.withClp_sta (s : State) (f : ClpSt → ClpSt) : (s.withClp f).sta = s.sta := rfl
@[simp] theorem State.withClp_pool (s : State) (f : ClpSt → ClpSt) : (s.withClp f).pool = s.pool := rfl
@[simp] theorem State.withClp_dma (s : State) (f : ClpSt → ClpSt) : (s.withClp f).dma = s.dma := rfl
@[simp] theorem State.withClp_sec (s : State) (f : ClpSt → ClpSt) : (s.withClp f).sec = s.sec := rfl
@[simp] theorem State.withClp_weir (s : State) (f : ClpSt → ClpSt) : (s.withClp f).weir = s.weir := rfl
@[simp] theorem State.withClp_pwr (s : State) (f : ClpSt → ClpSt) : (s.withClp f).pwr = s.pwr := rfl
@[simp] theorem State.withClp_lnk (s : State) (f : ClpSt → ClpSt) : (s.withClp f).lnk = s.lnk := rfl
@[simp] theorem State.withClp_mgmt (s : State) (f : ClpSt → ClpSt) : (s.withClp f).mgmt = s.mgmt := rfl

/-! ### State.setLp -/

@[simp] theorem State.setLp_part (s : State) (n : Nat) (x : LpSt) : (s.setLp n x).part = s.part := rfl
@[simp] theorem State.setLp_pending (s : State) (n : Nat) (x : LpSt) : (s.setLp n x).pending = s.pending := rfl
@[simp] theorem State.setLp_emitted (s : State) (n : Nat) (x : LpSt) : (s.setLp n x).emitted = s.emitted := rfl
@[simp] theorem State.setLp_free (s : State) (n : Nat) (x : LpSt) : (s.setLp n x).free = s.free := rfl
@[simp] theorem State.setLp_regs (s : State) (n : Nat) (x : LpSt) : (s.setLp n x).regs = s.regs := rfl
@[simp] theorem State.setLp_mem (s : State) (n : Nat) (x : LpSt) : (s.setLp n x).mem = s.mem := rfl
@[simp] theorem State.setLp_top (s : State) (n : Nat) (x : LpSt) : (s.setLp n x).top = s.top := rfl
@[simp] theorem State.setLp_prt (s : State) (n : Nat) (x : LpSt) : (s.setLp n x).prt = s.prt := rfl
@[simp] theorem State.setLp_memc (s : State) (n : Nat) (x : LpSt) : (s.setLp n x).memc = s.memc := rfl
@[simp] theorem State.setLp_pte (s : State) (n : Nat) (x : LpSt) : (s.setLp n x).pte = s.pte := rfl
@[simp] theorem State.setLp_que (s : State) (n : Nat) (x : LpSt) : (s.setLp n x).que = s.que := rfl
@[simp] theorem State.setLp_pmc (s : State) (n : Nat) (x : LpSt) : (s.setLp n x).pmc = s.pmc := rfl
@[simp] theorem State.setLp_clp (s : State) (n : Nat) (x : LpSt) : (s.setLp n x).clp = s.clp := rfl
@[simp] theorem State.setLp_hmp (s : State) (n : Nat) (x : LpSt) : (s.setLp n x).hmp = s.hmp := rfl
@[simp] theorem State.setLp_cas (s : State) (n : Nat) (x : LpSt) : (s.setLp n x).cas = s.cas := rfl
@[simp] theorem State.setLp_aqd (s : State) (n : Nat) (x : LpSt) : (s.setLp n x).aqd = s.aqd := rfl
@[simp] theorem State.setLp_cell (s : State) (n : Nat) (x : LpSt) : (s.setLp n x).cell = s.cell := rfl
@[simp] theorem State.setLp_tam (s : State) (n : Nat) (x : LpSt) : (s.setLp n x).tam = s.tam := rfl
@[simp] theorem State.setLp_sta (s : State) (n : Nat) (x : LpSt) : (s.setLp n x).sta = s.sta := rfl
@[simp] theorem State.setLp_pool (s : State) (n : Nat) (x : LpSt) : (s.setLp n x).pool = s.pool := rfl
@[simp] theorem State.setLp_dma (s : State) (n : Nat) (x : LpSt) : (s.setLp n x).dma = s.dma := rfl
@[simp] theorem State.setLp_sec (s : State) (n : Nat) (x : LpSt) : (s.setLp n x).sec = s.sec := rfl
@[simp] theorem State.setLp_weir (s : State) (n : Nat) (x : LpSt) : (s.setLp n x).weir = s.weir := rfl
@[simp] theorem State.setLp_pwr (s : State) (n : Nat) (x : LpSt) : (s.setLp n x).pwr = s.pwr := rfl
@[simp] theorem State.setLp_lnk (s : State) (n : Nat) (x : LpSt) : (s.setLp n x).lnk = s.lnk := rfl
@[simp] theorem State.setLp_mgmt (s : State) (n : Nat) (x : LpSt) : (s.setLp n x).mgmt = s.mgmt := rfl

/-! ### State.withAqd -/

@[simp] theorem State.withAqd_part (s : State) (f : AqdSt → AqdSt) : (s.withAqd f).part = s.part := rfl
@[simp] theorem State.withAqd_pending (s : State) (f : AqdSt → AqdSt) : (s.withAqd f).pending = s.pending := rfl
@[simp] theorem State.withAqd_emitted (s : State) (f : AqdSt → AqdSt) : (s.withAqd f).emitted = s.emitted := rfl
@[simp] theorem State.withAqd_free (s : State) (f : AqdSt → AqdSt) : (s.withAqd f).free = s.free := rfl
@[simp] theorem State.withAqd_regs (s : State) (f : AqdSt → AqdSt) : (s.withAqd f).regs = s.regs := rfl
@[simp] theorem State.withAqd_mem (s : State) (f : AqdSt → AqdSt) : (s.withAqd f).mem = s.mem := rfl
@[simp] theorem State.withAqd_top (s : State) (f : AqdSt → AqdSt) : (s.withAqd f).top = s.top := rfl
@[simp] theorem State.withAqd_prt (s : State) (f : AqdSt → AqdSt) : (s.withAqd f).prt = s.prt := rfl
@[simp] theorem State.withAqd_memc (s : State) (f : AqdSt → AqdSt) : (s.withAqd f).memc = s.memc := rfl
@[simp] theorem State.withAqd_pte (s : State) (f : AqdSt → AqdSt) : (s.withAqd f).pte = s.pte := rfl
@[simp] theorem State.withAqd_que (s : State) (f : AqdSt → AqdSt) : (s.withAqd f).que = s.que := rfl
@[simp] theorem State.withAqd_pmc (s : State) (f : AqdSt → AqdSt) : (s.withAqd f).pmc = s.pmc := rfl
@[simp] theorem State.withAqd_clp (s : State) (f : AqdSt → AqdSt) : (s.withAqd f).clp = s.clp := rfl
@[simp] theorem State.withAqd_hmp (s : State) (f : AqdSt → AqdSt) : (s.withAqd f).hmp = s.hmp := rfl
@[simp] theorem State.withAqd_mac (s : State) (f : AqdSt → AqdSt) : (s.withAqd f).mac = s.mac := rfl
@[simp] theorem State.withAqd_cas (s : State) (f : AqdSt → AqdSt) : (s.withAqd f).cas = s.cas := rfl
@[simp] theorem State.withAqd_aqd (s : State) (f : AqdSt → AqdSt) : (s.withAqd f).aqd = f s.aqd := rfl
@[simp] theorem State.withAqd_cell (s : State) (f : AqdSt → AqdSt) : (s.withAqd f).cell = s.cell := rfl
@[simp] theorem State.withAqd_tam (s : State) (f : AqdSt → AqdSt) : (s.withAqd f).tam = s.tam := rfl
@[simp] theorem State.withAqd_sta (s : State) (f : AqdSt → AqdSt) : (s.withAqd f).sta = s.sta := rfl
@[simp] theorem State.withAqd_pool (s : State) (f : AqdSt → AqdSt) : (s.withAqd f).pool = s.pool := rfl
@[simp] theorem State.withAqd_dma (s : State) (f : AqdSt → AqdSt) : (s.withAqd f).dma = s.dma := rfl
@[simp] theorem State.withAqd_sec (s : State) (f : AqdSt → AqdSt) : (s.withAqd f).sec = s.sec := rfl
@[simp] theorem State.withAqd_weir (s : State) (f : AqdSt → AqdSt) : (s.withAqd f).weir = s.weir := rfl
@[simp] theorem State.withAqd_pwr (s : State) (f : AqdSt → AqdSt) : (s.withAqd f).pwr = s.pwr := rfl
@[simp] theorem State.withAqd_lnk (s : State) (f : AqdSt → AqdSt) : (s.withAqd f).lnk = s.lnk := rfl
@[simp] theorem State.withAqd_mgmt (s : State) (f : AqdSt → AqdSt) : (s.withAqd f).mgmt = s.mgmt := rfl

/-! ### State.withCell -/

@[simp] theorem State.withCell_part (s : State) (f : CellSt → CellSt) : (s.withCell f).part = s.part := rfl
@[simp] theorem State.withCell_pending (s : State) (f : CellSt → CellSt) : (s.withCell f).pending = s.pending := rfl
@[simp] theorem State.withCell_emitted (s : State) (f : CellSt → CellSt) : (s.withCell f).emitted = s.emitted := rfl
@[simp] theorem State.withCell_free (s : State) (f : CellSt → CellSt) : (s.withCell f).free = s.free := rfl
@[simp] theorem State.withCell_regs (s : State) (f : CellSt → CellSt) : (s.withCell f).regs = s.regs := rfl
@[simp] theorem State.withCell_mem (s : State) (f : CellSt → CellSt) : (s.withCell f).mem = s.mem := rfl
@[simp] theorem State.withCell_top (s : State) (f : CellSt → CellSt) : (s.withCell f).top = s.top := rfl
@[simp] theorem State.withCell_prt (s : State) (f : CellSt → CellSt) : (s.withCell f).prt = s.prt := rfl
@[simp] theorem State.withCell_memc (s : State) (f : CellSt → CellSt) : (s.withCell f).memc = s.memc := rfl
@[simp] theorem State.withCell_pte (s : State) (f : CellSt → CellSt) : (s.withCell f).pte = s.pte := rfl
@[simp] theorem State.withCell_que (s : State) (f : CellSt → CellSt) : (s.withCell f).que = s.que := rfl
@[simp] theorem State.withCell_pmc (s : State) (f : CellSt → CellSt) : (s.withCell f).pmc = s.pmc := rfl
@[simp] theorem State.withCell_clp (s : State) (f : CellSt → CellSt) : (s.withCell f).clp = s.clp := rfl
@[simp] theorem State.withCell_hmp (s : State) (f : CellSt → CellSt) : (s.withCell f).hmp = s.hmp := rfl
@[simp] theorem State.withCell_mac (s : State) (f : CellSt → CellSt) : (s.withCell f).mac = s.mac := rfl
@[simp] theorem State.withCell_cas (s : State) (f : CellSt → CellSt) : (s.withCell f).cas = s.cas := rfl
@[simp] theorem State.withCell_aqd (s : State) (f : CellSt → CellSt) : (s.withCell f).aqd = s.aqd := rfl
@[simp] theorem State.withCell_cell (s : State) (f : CellSt → CellSt) : (s.withCell f).cell = f s.cell := rfl
@[simp] theorem State.withCell_tam (s : State) (f : CellSt → CellSt) : (s.withCell f).tam = s.tam := rfl
@[simp] theorem State.withCell_sta (s : State) (f : CellSt → CellSt) : (s.withCell f).sta = s.sta := rfl
@[simp] theorem State.withCell_pool (s : State) (f : CellSt → CellSt) : (s.withCell f).pool = s.pool := rfl
@[simp] theorem State.withCell_dma (s : State) (f : CellSt → CellSt) : (s.withCell f).dma = s.dma := rfl
@[simp] theorem State.withCell_sec (s : State) (f : CellSt → CellSt) : (s.withCell f).sec = s.sec := rfl
@[simp] theorem State.withCell_weir (s : State) (f : CellSt → CellSt) : (s.withCell f).weir = s.weir := rfl
@[simp] theorem State.withCell_pwr (s : State) (f : CellSt → CellSt) : (s.withCell f).pwr = s.pwr := rfl
@[simp] theorem State.withCell_lnk (s : State) (f : CellSt → CellSt) : (s.withCell f).lnk = s.lnk := rfl
@[simp] theorem State.withCell_mgmt (s : State) (f : CellSt → CellSt) : (s.withCell f).mgmt = s.mgmt := rfl

/-! ### State.setTam -/

@[simp] theorem State.setTam_part (s : State) (b : Nat) (x : TamSt) : (s.setTam b x).part = s.part := rfl
@[simp] theorem State.setTam_pending (s : State) (b : Nat) (x : TamSt) : (s.setTam b x).pending = s.pending := rfl
@[simp] theorem State.setTam_emitted (s : State) (b : Nat) (x : TamSt) : (s.setTam b x).emitted = s.emitted := rfl
@[simp] theorem State.setTam_free (s : State) (b : Nat) (x : TamSt) : (s.setTam b x).free = s.free := rfl
@[simp] theorem State.setTam_regs (s : State) (b : Nat) (x : TamSt) : (s.setTam b x).regs = s.regs := rfl
@[simp] theorem State.setTam_mem (s : State) (b : Nat) (x : TamSt) : (s.setTam b x).mem = s.mem := rfl
@[simp] theorem State.setTam_top (s : State) (b : Nat) (x : TamSt) : (s.setTam b x).top = s.top := rfl
@[simp] theorem State.setTam_prt (s : State) (b : Nat) (x : TamSt) : (s.setTam b x).prt = s.prt := rfl
@[simp] theorem State.setTam_memc (s : State) (b : Nat) (x : TamSt) : (s.setTam b x).memc = s.memc := rfl
@[simp] theorem State.setTam_pte (s : State) (b : Nat) (x : TamSt) : (s.setTam b x).pte = s.pte := rfl
@[simp] theorem State.setTam_que (s : State) (b : Nat) (x : TamSt) : (s.setTam b x).que = s.que := rfl
@[simp] theorem State.setTam_pmc (s : State) (b : Nat) (x : TamSt) : (s.setTam b x).pmc = s.pmc := rfl
@[simp] theorem State.setTam_clp (s : State) (b : Nat) (x : TamSt) : (s.setTam b x).clp = s.clp := rfl
@[simp] theorem State.setTam_hmp (s : State) (b : Nat) (x : TamSt) : (s.setTam b x).hmp = s.hmp := rfl
@[simp] theorem State.setTam_mac (s : State) (b : Nat) (x : TamSt) : (s.setTam b x).mac = s.mac := rfl
@[simp] theorem State.setTam_cas (s : State) (b : Nat) (x : TamSt) : (s.setTam b x).cas = s.cas := rfl
@[simp] theorem State.setTam_aqd (s : State) (b : Nat) (x : TamSt) : (s.setTam b x).aqd = s.aqd := rfl
@[simp] theorem State.setTam_cell (s : State) (b : Nat) (x : TamSt) : (s.setTam b x).cell = s.cell := rfl
@[simp] theorem State.setTam_tam (s : State) (b : Nat) (x : TamSt) : (s.setTam b x).tam = sput {} s.tam b x := rfl
@[simp] theorem State.setTam_sta (s : State) (b : Nat) (x : TamSt) : (s.setTam b x).sta = s.sta := rfl
@[simp] theorem State.setTam_pool (s : State) (b : Nat) (x : TamSt) : (s.setTam b x).pool = s.pool := rfl
@[simp] theorem State.setTam_dma (s : State) (b : Nat) (x : TamSt) : (s.setTam b x).dma = s.dma := rfl
@[simp] theorem State.setTam_sec (s : State) (b : Nat) (x : TamSt) : (s.setTam b x).sec = s.sec := rfl
@[simp] theorem State.setTam_weir (s : State) (b : Nat) (x : TamSt) : (s.setTam b x).weir = s.weir := rfl
@[simp] theorem State.setTam_pwr (s : State) (b : Nat) (x : TamSt) : (s.setTam b x).pwr = s.pwr := rfl
@[simp] theorem State.setTam_lnk (s : State) (b : Nat) (x : TamSt) : (s.setTam b x).lnk = s.lnk := rfl
@[simp] theorem State.setTam_mgmt (s : State) (b : Nat) (x : TamSt) : (s.setTam b x).mgmt = s.mgmt := rfl

/-! ### State.setDma -/

@[simp] theorem State.setDma_part (s : State) (p ch : Nat) (r : Option DmaRun) : (s.setDma p ch r).part = s.part := rfl
@[simp] theorem State.setDma_pending (s : State) (p ch : Nat) (r : Option DmaRun) : (s.setDma p ch r).pending = s.pending := rfl
@[simp] theorem State.setDma_emitted (s : State) (p ch : Nat) (r : Option DmaRun) : (s.setDma p ch r).emitted = s.emitted := rfl
@[simp] theorem State.setDma_free (s : State) (p ch : Nat) (r : Option DmaRun) : (s.setDma p ch r).free = s.free := rfl
@[simp] theorem State.setDma_regs (s : State) (p ch : Nat) (r : Option DmaRun) : (s.setDma p ch r).regs = s.regs := rfl
@[simp] theorem State.setDma_mem (s : State) (p ch : Nat) (r : Option DmaRun) : (s.setDma p ch r).mem = s.mem := rfl
@[simp] theorem State.setDma_top (s : State) (p ch : Nat) (r : Option DmaRun) : (s.setDma p ch r).top = s.top := rfl
@[simp] theorem State.setDma_prt (s : State) (p ch : Nat) (r : Option DmaRun) : (s.setDma p ch r).prt = s.prt := rfl
@[simp] theorem State.setDma_memc (s : State) (p ch : Nat) (r : Option DmaRun) : (s.setDma p ch r).memc = s.memc := rfl
@[simp] theorem State.setDma_pte (s : State) (p ch : Nat) (r : Option DmaRun) : (s.setDma p ch r).pte = s.pte := rfl
@[simp] theorem State.setDma_que (s : State) (p ch : Nat) (r : Option DmaRun) : (s.setDma p ch r).que = s.que := rfl
@[simp] theorem State.setDma_pmc (s : State) (p ch : Nat) (r : Option DmaRun) : (s.setDma p ch r).pmc = s.pmc := rfl
@[simp] theorem State.setDma_clp (s : State) (p ch : Nat) (r : Option DmaRun) : (s.setDma p ch r).clp = s.clp := rfl
@[simp] theorem State.setDma_hmp (s : State) (p ch : Nat) (r : Option DmaRun) : (s.setDma p ch r).hmp = s.hmp := rfl
@[simp] theorem State.setDma_mac (s : State) (p ch : Nat) (r : Option DmaRun) : (s.setDma p ch r).mac = s.mac := rfl
@[simp] theorem State.setDma_cas (s : State) (p ch : Nat) (r : Option DmaRun) : (s.setDma p ch r).cas = s.cas := rfl
@[simp] theorem State.setDma_aqd (s : State) (p ch : Nat) (r : Option DmaRun) : (s.setDma p ch r).aqd = s.aqd := rfl
@[simp] theorem State.setDma_cell (s : State) (p ch : Nat) (r : Option DmaRun) : (s.setDma p ch r).cell = s.cell := rfl
@[simp] theorem State.setDma_tam (s : State) (p ch : Nat) (r : Option DmaRun) : (s.setDma p ch r).tam = s.tam := rfl
@[simp] theorem State.setDma_sta (s : State) (p ch : Nat) (r : Option DmaRun) : (s.setDma p ch r).sta = s.sta := rfl
@[simp] theorem State.setDma_pool (s : State) (p ch : Nat) (r : Option DmaRun) : (s.setDma p ch r).pool = s.pool := rfl
@[simp] theorem State.setDma_dma (s : State) (p ch : Nat) (r : Option DmaRun) : (s.setDma p ch r).dma = { s.dma with runs := sput none s.dma.runs (dmaKey p ch) r } := rfl
@[simp] theorem State.setDma_sec (s : State) (p ch : Nat) (r : Option DmaRun) : (s.setDma p ch r).sec = s.sec := rfl
@[simp] theorem State.setDma_weir (s : State) (p ch : Nat) (r : Option DmaRun) : (s.setDma p ch r).weir = s.weir := rfl
@[simp] theorem State.setDma_pwr (s : State) (p ch : Nat) (r : Option DmaRun) : (s.setDma p ch r).pwr = s.pwr := rfl
@[simp] theorem State.setDma_lnk (s : State) (p ch : Nat) (r : Option DmaRun) : (s.setDma p ch r).lnk = s.lnk := rfl
@[simp] theorem State.setDma_mgmt (s : State) (p ch : Nat) (r : Option DmaRun) : (s.setDma p ch r).mgmt = s.mgmt := rfl

/-! ### State.setHch -/

@[simp] theorem State.setHch_part (s : State) (c : Nat) (x : HmpChan) : (s.setHch c x).part = s.part := rfl
@[simp] theorem State.setHch_pending (s : State) (c : Nat) (x : HmpChan) : (s.setHch c x).pending = s.pending := rfl
@[simp] theorem State.setHch_emitted (s : State) (c : Nat) (x : HmpChan) : (s.setHch c x).emitted = s.emitted := rfl
@[simp] theorem State.setHch_free (s : State) (c : Nat) (x : HmpChan) : (s.setHch c x).free = s.free := rfl
@[simp] theorem State.setHch_regs (s : State) (c : Nat) (x : HmpChan) : (s.setHch c x).regs = s.regs := rfl
@[simp] theorem State.setHch_mem (s : State) (c : Nat) (x : HmpChan) : (s.setHch c x).mem = s.mem := rfl
@[simp] theorem State.setHch_top (s : State) (c : Nat) (x : HmpChan) : (s.setHch c x).top = s.top := rfl
@[simp] theorem State.setHch_prt (s : State) (c : Nat) (x : HmpChan) : (s.setHch c x).prt = s.prt := rfl
@[simp] theorem State.setHch_memc (s : State) (c : Nat) (x : HmpChan) : (s.setHch c x).memc = s.memc := rfl
@[simp] theorem State.setHch_pte (s : State) (c : Nat) (x : HmpChan) : (s.setHch c x).pte = s.pte := rfl
@[simp] theorem State.setHch_que (s : State) (c : Nat) (x : HmpChan) : (s.setHch c x).que = s.que := rfl
@[simp] theorem State.setHch_pmc (s : State) (c : Nat) (x : HmpChan) : (s.setHch c x).pmc = s.pmc := rfl
@[simp] theorem State.setHch_clp (s : State) (c : Nat) (x : HmpChan) : (s.setHch c x).clp = s.clp := rfl
@[simp] theorem State.setHch_mac (s : State) (c : Nat) (x : HmpChan) : (s.setHch c x).mac = s.mac := rfl
@[simp] theorem State.setHch_cas (s : State) (c : Nat) (x : HmpChan) : (s.setHch c x).cas = s.cas := rfl
@[simp] theorem State.setHch_aqd (s : State) (c : Nat) (x : HmpChan) : (s.setHch c x).aqd = s.aqd := rfl
@[simp] theorem State.setHch_cell (s : State) (c : Nat) (x : HmpChan) : (s.setHch c x).cell = s.cell := rfl
@[simp] theorem State.setHch_tam (s : State) (c : Nat) (x : HmpChan) : (s.setHch c x).tam = s.tam := rfl
@[simp] theorem State.setHch_sta (s : State) (c : Nat) (x : HmpChan) : (s.setHch c x).sta = s.sta := rfl
@[simp] theorem State.setHch_pool (s : State) (c : Nat) (x : HmpChan) : (s.setHch c x).pool = s.pool := rfl
@[simp] theorem State.setHch_dma (s : State) (c : Nat) (x : HmpChan) : (s.setHch c x).dma = s.dma := rfl
@[simp] theorem State.setHch_sec (s : State) (c : Nat) (x : HmpChan) : (s.setHch c x).sec = s.sec := rfl
@[simp] theorem State.setHch_weir (s : State) (c : Nat) (x : HmpChan) : (s.setHch c x).weir = s.weir := rfl
@[simp] theorem State.setHch_pwr (s : State) (c : Nat) (x : HmpChan) : (s.setHch c x).pwr = s.pwr := rfl
@[simp] theorem State.setHch_lnk (s : State) (c : Nat) (x : HmpChan) : (s.setHch c x).lnk = s.lnk := rfl
@[simp] theorem State.setHch_mgmt (s : State) (c : Nat) (x : HmpChan) : (s.setHch c x).mgmt = s.mgmt := rfl

/-! ### State.setLnk -/

@[simp] theorem State.setLnk_part (s : State) (l d g : Nat) (x : LnkGroup) : (s.setLnk l d g x).part = s.part := rfl
@[simp] theorem State.setLnk_pending (s : State) (l d g : Nat) (x : LnkGroup) : (s.setLnk l d g x).pending = s.pending := rfl
@[simp] theorem State.setLnk_emitted (s : State) (l d g : Nat) (x : LnkGroup) : (s.setLnk l d g x).emitted = s.emitted := rfl
@[simp] theorem State.setLnk_free (s : State) (l d g : Nat) (x : LnkGroup) : (s.setLnk l d g x).free = s.free := rfl
@[simp] theorem State.setLnk_regs (s : State) (l d g : Nat) (x : LnkGroup) : (s.setLnk l d g x).regs = s.regs := rfl
@[simp] theorem State.setLnk_mem (s : State) (l d g : Nat) (x : LnkGroup) : (s.setLnk l d g x).mem = s.mem := rfl
@[simp] theorem State.setLnk_top (s : State) (l d g : Nat) (x : LnkGroup) : (s.setLnk l d g x).top = s.top := rfl
@[simp] theorem State.setLnk_prt (s : State) (l d g : Nat) (x : LnkGroup) : (s.setLnk l d g x).prt = s.prt := rfl
@[simp] theorem State.setLnk_memc (s : State) (l d g : Nat) (x : LnkGroup) : (s.setLnk l d g x).memc = s.memc := rfl
@[simp] theorem State.setLnk_pte (s : State) (l d g : Nat) (x : LnkGroup) : (s.setLnk l d g x).pte = s.pte := rfl
@[simp] theorem State.setLnk_que (s : State) (l d g : Nat) (x : LnkGroup) : (s.setLnk l d g x).que = s.que := rfl
@[simp] theorem State.setLnk_pmc (s : State) (l d g : Nat) (x : LnkGroup) : (s.setLnk l d g x).pmc = s.pmc := rfl
@[simp] theorem State.setLnk_clp (s : State) (l d g : Nat) (x : LnkGroup) : (s.setLnk l d g x).clp = s.clp := rfl
@[simp] theorem State.setLnk_hmp (s : State) (l d g : Nat) (x : LnkGroup) : (s.setLnk l d g x).hmp = s.hmp := rfl
@[simp] theorem State.setLnk_mac (s : State) (l d g : Nat) (x : LnkGroup) : (s.setLnk l d g x).mac = s.mac := rfl
@[simp] theorem State.setLnk_cas (s : State) (l d g : Nat) (x : LnkGroup) : (s.setLnk l d g x).cas = s.cas := rfl
@[simp] theorem State.setLnk_aqd (s : State) (l d g : Nat) (x : LnkGroup) : (s.setLnk l d g x).aqd = s.aqd := rfl
@[simp] theorem State.setLnk_cell (s : State) (l d g : Nat) (x : LnkGroup) : (s.setLnk l d g x).cell = s.cell := rfl
@[simp] theorem State.setLnk_tam (s : State) (l d g : Nat) (x : LnkGroup) : (s.setLnk l d g x).tam = s.tam := rfl
@[simp] theorem State.setLnk_sta (s : State) (l d g : Nat) (x : LnkGroup) : (s.setLnk l d g x).sta = s.sta := rfl
@[simp] theorem State.setLnk_pool (s : State) (l d g : Nat) (x : LnkGroup) : (s.setLnk l d g x).pool = s.pool := rfl
@[simp] theorem State.setLnk_dma (s : State) (l d g : Nat) (x : LnkGroup) : (s.setLnk l d g x).dma = s.dma := rfl
@[simp] theorem State.setLnk_sec (s : State) (l d g : Nat) (x : LnkGroup) : (s.setLnk l d g x).sec = s.sec := rfl
@[simp] theorem State.setLnk_weir (s : State) (l d g : Nat) (x : LnkGroup) : (s.setLnk l d g x).weir = s.weir := rfl
@[simp] theorem State.setLnk_pwr (s : State) (l d g : Nat) (x : LnkGroup) : (s.setLnk l d g x).pwr = s.pwr := rfl
@[simp] theorem State.setLnk_lnk (s : State) (l d g : Nat) (x : LnkGroup) : (s.setLnk l d g x).lnk = sput {} s.lnk (32 * l + 16 * d + g) x := rfl
@[simp] theorem State.setLnk_mgmt (s : State) (l d g : Nat) (x : LnkGroup) : (s.setLnk l d g x).mgmt = s.mgmt := rfl

/-! ### State.setCodeword -/

@[simp] theorem State.setCodeword_part (s : State) (w : Nat) (x : CodewordSt) : (s.setCodeword w x).part = s.part := rfl
@[simp] theorem State.setCodeword_pending (s : State) (w : Nat) (x : CodewordSt) : (s.setCodeword w x).pending = s.pending := rfl
@[simp] theorem State.setCodeword_emitted (s : State) (w : Nat) (x : CodewordSt) : (s.setCodeword w x).emitted = s.emitted := rfl
@[simp] theorem State.setCodeword_free (s : State) (w : Nat) (x : CodewordSt) : (s.setCodeword w x).free = s.free := rfl
@[simp] theorem State.setCodeword_regs (s : State) (w : Nat) (x : CodewordSt) : (s.setCodeword w x).regs = s.regs := rfl
@[simp] theorem State.setCodeword_mem (s : State) (w : Nat) (x : CodewordSt) : (s.setCodeword w x).mem = s.mem := rfl
@[simp] theorem State.setCodeword_top (s : State) (w : Nat) (x : CodewordSt) : (s.setCodeword w x).top = s.top := rfl
@[simp] theorem State.setCodeword_prt (s : State) (w : Nat) (x : CodewordSt) : (s.setCodeword w x).prt = s.prt := rfl
@[simp] theorem State.setCodeword_pte (s : State) (w : Nat) (x : CodewordSt) : (s.setCodeword w x).pte = s.pte := rfl
@[simp] theorem State.setCodeword_que (s : State) (w : Nat) (x : CodewordSt) : (s.setCodeword w x).que = s.que := rfl
@[simp] theorem State.setCodeword_pmc (s : State) (w : Nat) (x : CodewordSt) : (s.setCodeword w x).pmc = s.pmc := rfl
@[simp] theorem State.setCodeword_clp (s : State) (w : Nat) (x : CodewordSt) : (s.setCodeword w x).clp = s.clp := rfl
@[simp] theorem State.setCodeword_hmp (s : State) (w : Nat) (x : CodewordSt) : (s.setCodeword w x).hmp = s.hmp := rfl
@[simp] theorem State.setCodeword_mac (s : State) (w : Nat) (x : CodewordSt) : (s.setCodeword w x).mac = s.mac := rfl
@[simp] theorem State.setCodeword_cas (s : State) (w : Nat) (x : CodewordSt) : (s.setCodeword w x).cas = s.cas := rfl
@[simp] theorem State.setCodeword_aqd (s : State) (w : Nat) (x : CodewordSt) : (s.setCodeword w x).aqd = s.aqd := rfl
@[simp] theorem State.setCodeword_cell (s : State) (w : Nat) (x : CodewordSt) : (s.setCodeword w x).cell = s.cell := rfl
@[simp] theorem State.setCodeword_tam (s : State) (w : Nat) (x : CodewordSt) : (s.setCodeword w x).tam = s.tam := rfl
@[simp] theorem State.setCodeword_sta (s : State) (w : Nat) (x : CodewordSt) : (s.setCodeword w x).sta = s.sta := rfl
@[simp] theorem State.setCodeword_pool (s : State) (w : Nat) (x : CodewordSt) : (s.setCodeword w x).pool = s.pool := rfl
@[simp] theorem State.setCodeword_dma (s : State) (w : Nat) (x : CodewordSt) : (s.setCodeword w x).dma = s.dma := rfl
@[simp] theorem State.setCodeword_sec (s : State) (w : Nat) (x : CodewordSt) : (s.setCodeword w x).sec = s.sec := rfl
@[simp] theorem State.setCodeword_weir (s : State) (w : Nat) (x : CodewordSt) : (s.setCodeword w x).weir = s.weir := rfl
@[simp] theorem State.setCodeword_pwr (s : State) (w : Nat) (x : CodewordSt) : (s.setCodeword w x).pwr = s.pwr := rfl
@[simp] theorem State.setCodeword_lnk (s : State) (w : Nat) (x : CodewordSt) : (s.setCodeword w x).lnk = s.lnk := rfl
@[simp] theorem State.setCodeword_mgmt (s : State) (w : Nat) (x : CodewordSt) : (s.setCodeword w x).mgmt = s.mgmt := rfl

/-! ### State.dmaServed -/

@[simp] theorem State.dmaServed_part (s : State) (p ch : Nat) : (s.dmaServed p ch).part = s.part := rfl
@[simp] theorem State.dmaServed_pending (s : State) (p ch : Nat) : (s.dmaServed p ch).pending = s.pending := rfl
@[simp] theorem State.dmaServed_emitted (s : State) (p ch : Nat) : (s.dmaServed p ch).emitted = s.emitted := rfl
@[simp] theorem State.dmaServed_free (s : State) (p ch : Nat) : (s.dmaServed p ch).free = s.free := rfl
@[simp] theorem State.dmaServed_regs (s : State) (p ch : Nat) : (s.dmaServed p ch).regs = s.regs := rfl
@[simp] theorem State.dmaServed_mem (s : State) (p ch : Nat) : (s.dmaServed p ch).mem = s.mem := rfl
@[simp] theorem State.dmaServed_top (s : State) (p ch : Nat) : (s.dmaServed p ch).top = s.top := rfl
@[simp] theorem State.dmaServed_prt (s : State) (p ch : Nat) : (s.dmaServed p ch).prt = s.prt := rfl
@[simp] theorem State.dmaServed_memc (s : State) (p ch : Nat) : (s.dmaServed p ch).memc = s.memc := rfl
@[simp] theorem State.dmaServed_pte (s : State) (p ch : Nat) : (s.dmaServed p ch).pte = s.pte := rfl
@[simp] theorem State.dmaServed_que (s : State) (p ch : Nat) : (s.dmaServed p ch).que = s.que := rfl
@[simp] theorem State.dmaServed_pmc (s : State) (p ch : Nat) : (s.dmaServed p ch).pmc = s.pmc := rfl
@[simp] theorem State.dmaServed_clp (s : State) (p ch : Nat) : (s.dmaServed p ch).clp = s.clp := rfl
@[simp] theorem State.dmaServed_hmp (s : State) (p ch : Nat) : (s.dmaServed p ch).hmp = s.hmp := rfl
@[simp] theorem State.dmaServed_mac (s : State) (p ch : Nat) : (s.dmaServed p ch).mac = s.mac := rfl
@[simp] theorem State.dmaServed_cas (s : State) (p ch : Nat) : (s.dmaServed p ch).cas = s.cas := rfl
@[simp] theorem State.dmaServed_aqd (s : State) (p ch : Nat) : (s.dmaServed p ch).aqd = s.aqd := rfl
@[simp] theorem State.dmaServed_cell (s : State) (p ch : Nat) : (s.dmaServed p ch).cell = s.cell := rfl
@[simp] theorem State.dmaServed_tam (s : State) (p ch : Nat) : (s.dmaServed p ch).tam = s.tam := rfl
@[simp] theorem State.dmaServed_sta (s : State) (p ch : Nat) : (s.dmaServed p ch).sta = s.sta := rfl
@[simp] theorem State.dmaServed_pool (s : State) (p ch : Nat) : (s.dmaServed p ch).pool = s.pool := rfl
@[simp] theorem State.dmaServed_sec (s : State) (p ch : Nat) : (s.dmaServed p ch).sec = s.sec := rfl
@[simp] theorem State.dmaServed_weir (s : State) (p ch : Nat) : (s.dmaServed p ch).weir = s.weir := rfl
@[simp] theorem State.dmaServed_pwr (s : State) (p ch : Nat) : (s.dmaServed p ch).pwr = s.pwr := rfl
@[simp] theorem State.dmaServed_lnk (s : State) (p ch : Nat) : (s.dmaServed p ch).lnk = s.lnk := rfl
@[simp] theorem State.dmaServed_mgmt (s : State) (p ch : Nat) : (s.dmaServed p ch).mgmt = s.mgmt := rfl

/-! ### State.setChan -/

@[simp] theorem State.setChan_part (s : State) (ch : Nat) (c : ChanSt) : (s.setChan ch c).part = s.part := rfl
@[simp] theorem State.setChan_pending (s : State) (ch : Nat) (c : ChanSt) : (s.setChan ch c).pending = s.pending := rfl
@[simp] theorem State.setChan_emitted (s : State) (ch : Nat) (c : ChanSt) : (s.setChan ch c).emitted = s.emitted := rfl
@[simp] theorem State.setChan_free (s : State) (ch : Nat) (c : ChanSt) : (s.setChan ch c).free = s.free := rfl
@[simp] theorem State.setChan_regs (s : State) (ch : Nat) (c : ChanSt) : (s.setChan ch c).regs = s.regs := rfl
@[simp] theorem State.setChan_mem (s : State) (ch : Nat) (c : ChanSt) : (s.setChan ch c).mem = s.mem := rfl
@[simp] theorem State.setChan_top (s : State) (ch : Nat) (c : ChanSt) : (s.setChan ch c).top = s.top := rfl
@[simp] theorem State.setChan_prt (s : State) (ch : Nat) (c : ChanSt) : (s.setChan ch c).prt = s.prt := rfl
@[simp] theorem State.setChan_pte (s : State) (ch : Nat) (c : ChanSt) : (s.setChan ch c).pte = s.pte := rfl
@[simp] theorem State.setChan_que (s : State) (ch : Nat) (c : ChanSt) : (s.setChan ch c).que = s.que := rfl
@[simp] theorem State.setChan_pmc (s : State) (ch : Nat) (c : ChanSt) : (s.setChan ch c).pmc = s.pmc := rfl
@[simp] theorem State.setChan_clp (s : State) (ch : Nat) (c : ChanSt) : (s.setChan ch c).clp = s.clp := rfl
@[simp] theorem State.setChan_hmp (s : State) (ch : Nat) (c : ChanSt) : (s.setChan ch c).hmp = s.hmp := rfl
@[simp] theorem State.setChan_mac (s : State) (ch : Nat) (c : ChanSt) : (s.setChan ch c).mac = s.mac := rfl
@[simp] theorem State.setChan_cas (s : State) (ch : Nat) (c : ChanSt) : (s.setChan ch c).cas = s.cas := rfl
@[simp] theorem State.setChan_aqd (s : State) (ch : Nat) (c : ChanSt) : (s.setChan ch c).aqd = s.aqd := rfl
@[simp] theorem State.setChan_cell (s : State) (ch : Nat) (c : ChanSt) : (s.setChan ch c).cell = s.cell := rfl
@[simp] theorem State.setChan_tam (s : State) (ch : Nat) (c : ChanSt) : (s.setChan ch c).tam = s.tam := rfl
@[simp] theorem State.setChan_sta (s : State) (ch : Nat) (c : ChanSt) : (s.setChan ch c).sta = s.sta := rfl
@[simp] theorem State.setChan_pool (s : State) (ch : Nat) (c : ChanSt) : (s.setChan ch c).pool = s.pool := rfl
@[simp] theorem State.setChan_dma (s : State) (ch : Nat) (c : ChanSt) : (s.setChan ch c).dma = s.dma := rfl
@[simp] theorem State.setChan_sec (s : State) (ch : Nat) (c : ChanSt) : (s.setChan ch c).sec = s.sec := rfl
@[simp] theorem State.setChan_weir (s : State) (ch : Nat) (c : ChanSt) : (s.setChan ch c).weir = s.weir := rfl
@[simp] theorem State.setChan_pwr (s : State) (ch : Nat) (c : ChanSt) : (s.setChan ch c).pwr = s.pwr := rfl
@[simp] theorem State.setChan_lnk (s : State) (ch : Nat) (c : ChanSt) : (s.setChan ch c).lnk = s.lnk := rfl
@[simp] theorem State.setChan_mgmt (s : State) (ch : Nat) (c : ChanSt) : (s.setChan ch c).mgmt = s.mgmt := rfl

/-! ### State.setMirror -/

@[simp] theorem State.setMirror_part (s : State) (v : Nat) (m : Mirror) : (s.setMirror v m).part = s.part := rfl
@[simp] theorem State.setMirror_pending (s : State) (v : Nat) (m : Mirror) : (s.setMirror v m).pending = s.pending := rfl
@[simp] theorem State.setMirror_emitted (s : State) (v : Nat) (m : Mirror) : (s.setMirror v m).emitted = s.emitted := rfl
@[simp] theorem State.setMirror_free (s : State) (v : Nat) (m : Mirror) : (s.setMirror v m).free = s.free := rfl
@[simp] theorem State.setMirror_regs (s : State) (v : Nat) (m : Mirror) : (s.setMirror v m).regs = s.regs := rfl
@[simp] theorem State.setMirror_mem (s : State) (v : Nat) (m : Mirror) : (s.setMirror v m).mem = s.mem := rfl
@[simp] theorem State.setMirror_top (s : State) (v : Nat) (m : Mirror) : (s.setMirror v m).top = s.top := rfl
@[simp] theorem State.setMirror_prt (s : State) (v : Nat) (m : Mirror) : (s.setMirror v m).prt = s.prt := rfl
@[simp] theorem State.setMirror_memc (s : State) (v : Nat) (m : Mirror) : (s.setMirror v m).memc = s.memc := rfl
@[simp] theorem State.setMirror_pte (s : State) (v : Nat) (m : Mirror) : (s.setMirror v m).pte = s.pte := rfl
@[simp] theorem State.setMirror_que (s : State) (v : Nat) (m : Mirror) : (s.setMirror v m).que = s.que := rfl
@[simp] theorem State.setMirror_pmc (s : State) (v : Nat) (m : Mirror) : (s.setMirror v m).pmc = s.pmc := rfl
@[simp] theorem State.setMirror_clp (s : State) (v : Nat) (m : Mirror) : (s.setMirror v m).clp = s.clp := rfl
@[simp] theorem State.setMirror_hmp (s : State) (v : Nat) (m : Mirror) : (s.setMirror v m).hmp = s.hmp := rfl
@[simp] theorem State.setMirror_mac (s : State) (v : Nat) (m : Mirror) : (s.setMirror v m).mac = s.mac := rfl
@[simp] theorem State.setMirror_aqd (s : State) (v : Nat) (m : Mirror) : (s.setMirror v m).aqd = s.aqd := rfl
@[simp] theorem State.setMirror_cell (s : State) (v : Nat) (m : Mirror) : (s.setMirror v m).cell = s.cell := rfl
@[simp] theorem State.setMirror_tam (s : State) (v : Nat) (m : Mirror) : (s.setMirror v m).tam = s.tam := rfl
@[simp] theorem State.setMirror_sta (s : State) (v : Nat) (m : Mirror) : (s.setMirror v m).sta = s.sta := rfl
@[simp] theorem State.setMirror_pool (s : State) (v : Nat) (m : Mirror) : (s.setMirror v m).pool = s.pool := rfl
@[simp] theorem State.setMirror_dma (s : State) (v : Nat) (m : Mirror) : (s.setMirror v m).dma = s.dma := rfl
@[simp] theorem State.setMirror_sec (s : State) (v : Nat) (m : Mirror) : (s.setMirror v m).sec = s.sec := rfl
@[simp] theorem State.setMirror_weir (s : State) (v : Nat) (m : Mirror) : (s.setMirror v m).weir = s.weir := rfl
@[simp] theorem State.setMirror_pwr (s : State) (v : Nat) (m : Mirror) : (s.setMirror v m).pwr = s.pwr := rfl
@[simp] theorem State.setMirror_lnk (s : State) (v : Nat) (m : Mirror) : (s.setMirror v m).lnk = s.lnk := rfl
@[simp] theorem State.setMirror_mgmt (s : State) (v : Nat) (m : Mirror) : (s.setMirror v m).mgmt = s.mgmt := rfl

/-! ### State.setGrp -/

@[simp] theorem State.setGrp_part (s : State) (p g : Nat) (x : Option CasGroup) : (s.setGrp p g x).part = s.part := rfl
@[simp] theorem State.setGrp_pending (s : State) (p g : Nat) (x : Option CasGroup) : (s.setGrp p g x).pending = s.pending := rfl
@[simp] theorem State.setGrp_emitted (s : State) (p g : Nat) (x : Option CasGroup) : (s.setGrp p g x).emitted = s.emitted := rfl
@[simp] theorem State.setGrp_free (s : State) (p g : Nat) (x : Option CasGroup) : (s.setGrp p g x).free = s.free := rfl
@[simp] theorem State.setGrp_regs (s : State) (p g : Nat) (x : Option CasGroup) : (s.setGrp p g x).regs = s.regs := rfl
@[simp] theorem State.setGrp_mem (s : State) (p g : Nat) (x : Option CasGroup) : (s.setGrp p g x).mem = s.mem := rfl
@[simp] theorem State.setGrp_top (s : State) (p g : Nat) (x : Option CasGroup) : (s.setGrp p g x).top = s.top := rfl
@[simp] theorem State.setGrp_prt (s : State) (p g : Nat) (x : Option CasGroup) : (s.setGrp p g x).prt = s.prt := rfl
@[simp] theorem State.setGrp_memc (s : State) (p g : Nat) (x : Option CasGroup) : (s.setGrp p g x).memc = s.memc := rfl
@[simp] theorem State.setGrp_pte (s : State) (p g : Nat) (x : Option CasGroup) : (s.setGrp p g x).pte = s.pte := rfl
@[simp] theorem State.setGrp_que (s : State) (p g : Nat) (x : Option CasGroup) : (s.setGrp p g x).que = s.que := rfl
@[simp] theorem State.setGrp_pmc (s : State) (p g : Nat) (x : Option CasGroup) : (s.setGrp p g x).pmc = s.pmc := rfl
@[simp] theorem State.setGrp_clp (s : State) (p g : Nat) (x : Option CasGroup) : (s.setGrp p g x).clp = s.clp := rfl
@[simp] theorem State.setGrp_hmp (s : State) (p g : Nat) (x : Option CasGroup) : (s.setGrp p g x).hmp = s.hmp := rfl
@[simp] theorem State.setGrp_mac (s : State) (p g : Nat) (x : Option CasGroup) : (s.setGrp p g x).mac = s.mac := rfl
@[simp] theorem State.setGrp_aqd (s : State) (p g : Nat) (x : Option CasGroup) : (s.setGrp p g x).aqd = s.aqd := rfl
@[simp] theorem State.setGrp_cell (s : State) (p g : Nat) (x : Option CasGroup) : (s.setGrp p g x).cell = s.cell := rfl
@[simp] theorem State.setGrp_tam (s : State) (p g : Nat) (x : Option CasGroup) : (s.setGrp p g x).tam = s.tam := rfl
@[simp] theorem State.setGrp_sta (s : State) (p g : Nat) (x : Option CasGroup) : (s.setGrp p g x).sta = s.sta := rfl
@[simp] theorem State.setGrp_pool (s : State) (p g : Nat) (x : Option CasGroup) : (s.setGrp p g x).pool = s.pool := rfl
@[simp] theorem State.setGrp_dma (s : State) (p g : Nat) (x : Option CasGroup) : (s.setGrp p g x).dma = s.dma := rfl
@[simp] theorem State.setGrp_sec (s : State) (p g : Nat) (x : Option CasGroup) : (s.setGrp p g x).sec = s.sec := rfl
@[simp] theorem State.setGrp_weir (s : State) (p g : Nat) (x : Option CasGroup) : (s.setGrp p g x).weir = s.weir := rfl
@[simp] theorem State.setGrp_pwr (s : State) (p g : Nat) (x : Option CasGroup) : (s.setGrp p g x).pwr = s.pwr := rfl
@[simp] theorem State.setGrp_lnk (s : State) (p g : Nat) (x : Option CasGroup) : (s.setGrp p g x).lnk = s.lnk := rfl
@[simp] theorem State.setGrp_mgmt (s : State) (p g : Nat) (x : Option CasGroup) : (s.setGrp p g x).mgmt = s.mgmt := rfl

/-! ### State.setSweep -/

@[simp] theorem State.setSweep_part (s : State) (fn : Nat) (w : Option Sweep) : (s.setSweep fn w).part = s.part := rfl
@[simp] theorem State.setSweep_pending (s : State) (fn : Nat) (w : Option Sweep) : (s.setSweep fn w).pending = s.pending := rfl
@[simp] theorem State.setSweep_emitted (s : State) (fn : Nat) (w : Option Sweep) : (s.setSweep fn w).emitted = s.emitted := rfl
@[simp] theorem State.setSweep_free (s : State) (fn : Nat) (w : Option Sweep) : (s.setSweep fn w).free = s.free := rfl
@[simp] theorem State.setSweep_regs (s : State) (fn : Nat) (w : Option Sweep) : (s.setSweep fn w).regs = s.regs := rfl
@[simp] theorem State.setSweep_mem (s : State) (fn : Nat) (w : Option Sweep) : (s.setSweep fn w).mem = s.mem := rfl
@[simp] theorem State.setSweep_top (s : State) (fn : Nat) (w : Option Sweep) : (s.setSweep fn w).top = s.top := rfl
@[simp] theorem State.setSweep_prt (s : State) (fn : Nat) (w : Option Sweep) : (s.setSweep fn w).prt = s.prt := rfl
@[simp] theorem State.setSweep_memc (s : State) (fn : Nat) (w : Option Sweep) : (s.setSweep fn w).memc = s.memc := rfl
@[simp] theorem State.setSweep_pte (s : State) (fn : Nat) (w : Option Sweep) : (s.setSweep fn w).pte = s.pte := rfl
@[simp] theorem State.setSweep_que (s : State) (fn : Nat) (w : Option Sweep) : (s.setSweep fn w).que = s.que := rfl
@[simp] theorem State.setSweep_pmc (s : State) (fn : Nat) (w : Option Sweep) : (s.setSweep fn w).pmc = s.pmc := rfl
@[simp] theorem State.setSweep_clp (s : State) (fn : Nat) (w : Option Sweep) : (s.setSweep fn w).clp = s.clp := rfl
@[simp] theorem State.setSweep_hmp (s : State) (fn : Nat) (w : Option Sweep) : (s.setSweep fn w).hmp = s.hmp := rfl
@[simp] theorem State.setSweep_mac (s : State) (fn : Nat) (w : Option Sweep) : (s.setSweep fn w).mac = s.mac := rfl
@[simp] theorem State.setSweep_cas (s : State) (fn : Nat) (w : Option Sweep) : (s.setSweep fn w).cas = s.cas := rfl
@[simp] theorem State.setSweep_aqd (s : State) (fn : Nat) (w : Option Sweep) : (s.setSweep fn w).aqd = s.aqd := rfl
@[simp] theorem State.setSweep_cell (s : State) (fn : Nat) (w : Option Sweep) : (s.setSweep fn w).cell = s.cell := rfl
@[simp] theorem State.setSweep_tam (s : State) (fn : Nat) (w : Option Sweep) : (s.setSweep fn w).tam = s.tam := rfl
@[simp] theorem State.setSweep_pool (s : State) (fn : Nat) (w : Option Sweep) : (s.setSweep fn w).pool = s.pool := rfl
@[simp] theorem State.setSweep_dma (s : State) (fn : Nat) (w : Option Sweep) : (s.setSweep fn w).dma = s.dma := rfl
@[simp] theorem State.setSweep_sec (s : State) (fn : Nat) (w : Option Sweep) : (s.setSweep fn w).sec = s.sec := rfl
@[simp] theorem State.setSweep_weir (s : State) (fn : Nat) (w : Option Sweep) : (s.setSweep fn w).weir = s.weir := rfl
@[simp] theorem State.setSweep_pwr (s : State) (fn : Nat) (w : Option Sweep) : (s.setSweep fn w).pwr = s.pwr := rfl
@[simp] theorem State.setSweep_lnk (s : State) (fn : Nat) (w : Option Sweep) : (s.setSweep fn w).lnk = s.lnk := rfl
@[simp] theorem State.setSweep_mgmt (s : State) (fn : Nat) (w : Option Sweep) : (s.setSweep fn w).mgmt = s.mgmt := rfl

/-! ### State.modReset -/

@[simp] theorem State.modReset_part (s : State) (n : Nat) (f : ResetSt → ResetSt) : (s.modReset n f).part = s.part := rfl
@[simp] theorem State.modReset_pending (s : State) (n : Nat) (f : ResetSt → ResetSt) : (s.modReset n f).pending = s.pending := rfl
@[simp] theorem State.modReset_emitted (s : State) (n : Nat) (f : ResetSt → ResetSt) : (s.modReset n f).emitted = s.emitted := rfl
@[simp] theorem State.modReset_free (s : State) (n : Nat) (f : ResetSt → ResetSt) : (s.modReset n f).free = s.free := rfl
@[simp] theorem State.modReset_regs (s : State) (n : Nat) (f : ResetSt → ResetSt) : (s.modReset n f).regs = s.regs := rfl
@[simp] theorem State.modReset_mem (s : State) (n : Nat) (f : ResetSt → ResetSt) : (s.modReset n f).mem = s.mem := rfl
@[simp] theorem State.modReset_top (s : State) (n : Nat) (f : ResetSt → ResetSt) : (s.modReset n f).top = s.top := rfl
@[simp] theorem State.modReset_memc (s : State) (n : Nat) (f : ResetSt → ResetSt) : (s.modReset n f).memc = s.memc := rfl
@[simp] theorem State.modReset_pte (s : State) (n : Nat) (f : ResetSt → ResetSt) : (s.modReset n f).pte = s.pte := rfl
@[simp] theorem State.modReset_que (s : State) (n : Nat) (f : ResetSt → ResetSt) : (s.modReset n f).que = s.que := rfl
@[simp] theorem State.modReset_pmc (s : State) (n : Nat) (f : ResetSt → ResetSt) : (s.modReset n f).pmc = s.pmc := rfl
@[simp] theorem State.modReset_clp (s : State) (n : Nat) (f : ResetSt → ResetSt) : (s.modReset n f).clp = s.clp := rfl
@[simp] theorem State.modReset_hmp (s : State) (n : Nat) (f : ResetSt → ResetSt) : (s.modReset n f).hmp = s.hmp := rfl
@[simp] theorem State.modReset_mac (s : State) (n : Nat) (f : ResetSt → ResetSt) : (s.modReset n f).mac = s.mac := rfl
@[simp] theorem State.modReset_cas (s : State) (n : Nat) (f : ResetSt → ResetSt) : (s.modReset n f).cas = s.cas := rfl
@[simp] theorem State.modReset_aqd (s : State) (n : Nat) (f : ResetSt → ResetSt) : (s.modReset n f).aqd = s.aqd := rfl
@[simp] theorem State.modReset_cell (s : State) (n : Nat) (f : ResetSt → ResetSt) : (s.modReset n f).cell = s.cell := rfl
@[simp] theorem State.modReset_tam (s : State) (n : Nat) (f : ResetSt → ResetSt) : (s.modReset n f).tam = s.tam := rfl
@[simp] theorem State.modReset_sta (s : State) (n : Nat) (f : ResetSt → ResetSt) : (s.modReset n f).sta = s.sta := rfl
@[simp] theorem State.modReset_pool (s : State) (n : Nat) (f : ResetSt → ResetSt) : (s.modReset n f).pool = s.pool := rfl
@[simp] theorem State.modReset_dma (s : State) (n : Nat) (f : ResetSt → ResetSt) : (s.modReset n f).dma = s.dma := rfl
@[simp] theorem State.modReset_sec (s : State) (n : Nat) (f : ResetSt → ResetSt) : (s.modReset n f).sec = s.sec := rfl
@[simp] theorem State.modReset_weir (s : State) (n : Nat) (f : ResetSt → ResetSt) : (s.modReset n f).weir = s.weir := rfl
@[simp] theorem State.modReset_pwr (s : State) (n : Nat) (f : ResetSt → ResetSt) : (s.modReset n f).pwr = s.pwr := rfl
@[simp] theorem State.modReset_lnk (s : State) (n : Nat) (f : ResetSt → ResetSt) : (s.modReset n f).lnk = s.lnk := rfl
@[simp] theorem State.modReset_mgmt (s : State) (n : Nat) (f : ResetSt → ResetSt) : (s.modReset n f).mgmt = s.mgmt := rfl

/-! ### State.withSec -/

@[simp] theorem State.withSec_part (s : State) (f : SecSt → SecSt) : (s.withSec f).part = s.part := rfl
@[simp] theorem State.withSec_pending (s : State) (f : SecSt → SecSt) : (s.withSec f).pending = s.pending := rfl
@[simp] theorem State.withSec_emitted (s : State) (f : SecSt → SecSt) : (s.withSec f).emitted = s.emitted := rfl
@[simp] theorem State.withSec_free (s : State) (f : SecSt → SecSt) : (s.withSec f).free = s.free := rfl
@[simp] theorem State.withSec_regs (s : State) (f : SecSt → SecSt) : (s.withSec f).regs = s.regs := rfl
@[simp] theorem State.withSec_mem (s : State) (f : SecSt → SecSt) : (s.withSec f).mem = s.mem := rfl
@[simp] theorem State.withSec_top (s : State) (f : SecSt → SecSt) : (s.withSec f).top = s.top := rfl
@[simp] theorem State.withSec_prt (s : State) (f : SecSt → SecSt) : (s.withSec f).prt = s.prt := rfl
@[simp] theorem State.withSec_memc (s : State) (f : SecSt → SecSt) : (s.withSec f).memc = s.memc := rfl
@[simp] theorem State.withSec_pte (s : State) (f : SecSt → SecSt) : (s.withSec f).pte = s.pte := rfl
@[simp] theorem State.withSec_que (s : State) (f : SecSt → SecSt) : (s.withSec f).que = s.que := rfl
@[simp] theorem State.withSec_pmc (s : State) (f : SecSt → SecSt) : (s.withSec f).pmc = s.pmc := rfl
@[simp] theorem State.withSec_clp (s : State) (f : SecSt → SecSt) : (s.withSec f).clp = s.clp := rfl
@[simp] theorem State.withSec_hmp (s : State) (f : SecSt → SecSt) : (s.withSec f).hmp = s.hmp := rfl
@[simp] theorem State.withSec_mac (s : State) (f : SecSt → SecSt) : (s.withSec f).mac = s.mac := rfl
@[simp] theorem State.withSec_cas (s : State) (f : SecSt → SecSt) : (s.withSec f).cas = s.cas := rfl
@[simp] theorem State.withSec_aqd (s : State) (f : SecSt → SecSt) : (s.withSec f).aqd = s.aqd := rfl
@[simp] theorem State.withSec_cell (s : State) (f : SecSt → SecSt) : (s.withSec f).cell = s.cell := rfl
@[simp] theorem State.withSec_tam (s : State) (f : SecSt → SecSt) : (s.withSec f).tam = s.tam := rfl
@[simp] theorem State.withSec_sta (s : State) (f : SecSt → SecSt) : (s.withSec f).sta = s.sta := rfl
@[simp] theorem State.withSec_pool (s : State) (f : SecSt → SecSt) : (s.withSec f).pool = s.pool := rfl
@[simp] theorem State.withSec_dma (s : State) (f : SecSt → SecSt) : (s.withSec f).dma = s.dma := rfl
@[simp] theorem State.withSec_sec (s : State) (f : SecSt → SecSt) : (s.withSec f).sec = f s.sec := rfl
@[simp] theorem State.withSec_weir (s : State) (f : SecSt → SecSt) : (s.withSec f).weir = s.weir := rfl
@[simp] theorem State.withSec_pwr (s : State) (f : SecSt → SecSt) : (s.withSec f).pwr = s.pwr := rfl
@[simp] theorem State.withSec_lnk (s : State) (f : SecSt → SecSt) : (s.withSec f).lnk = s.lnk := rfl
@[simp] theorem State.withSec_mgmt (s : State) (f : SecSt → SecSt) : (s.withSec f).mgmt = s.mgmt := rfl

/-! ### State.setPool -/

@[simp] theorem State.setPool_part (s : State) (p : Nat) (x : PoolSt) : (s.setPool p x).part = s.part := rfl
@[simp] theorem State.setPool_pending (s : State) (p : Nat) (x : PoolSt) : (s.setPool p x).pending = s.pending := rfl
@[simp] theorem State.setPool_emitted (s : State) (p : Nat) (x : PoolSt) : (s.setPool p x).emitted = s.emitted := rfl
@[simp] theorem State.setPool_free (s : State) (p : Nat) (x : PoolSt) : (s.setPool p x).free = s.free := rfl
@[simp] theorem State.setPool_regs (s : State) (p : Nat) (x : PoolSt) : (s.setPool p x).regs = s.regs := rfl
@[simp] theorem State.setPool_mem (s : State) (p : Nat) (x : PoolSt) : (s.setPool p x).mem = s.mem := rfl
@[simp] theorem State.setPool_top (s : State) (p : Nat) (x : PoolSt) : (s.setPool p x).top = s.top := rfl
@[simp] theorem State.setPool_prt (s : State) (p : Nat) (x : PoolSt) : (s.setPool p x).prt = s.prt := rfl
@[simp] theorem State.setPool_memc (s : State) (p : Nat) (x : PoolSt) : (s.setPool p x).memc = s.memc := rfl
@[simp] theorem State.setPool_pte (s : State) (p : Nat) (x : PoolSt) : (s.setPool p x).pte = s.pte := rfl
@[simp] theorem State.setPool_que (s : State) (p : Nat) (x : PoolSt) : (s.setPool p x).que = s.que := rfl
@[simp] theorem State.setPool_pmc (s : State) (p : Nat) (x : PoolSt) : (s.setPool p x).pmc = s.pmc := rfl
@[simp] theorem State.setPool_clp (s : State) (p : Nat) (x : PoolSt) : (s.setPool p x).clp = s.clp := rfl
@[simp] theorem State.setPool_hmp (s : State) (p : Nat) (x : PoolSt) : (s.setPool p x).hmp = s.hmp := rfl
@[simp] theorem State.setPool_mac (s : State) (p : Nat) (x : PoolSt) : (s.setPool p x).mac = s.mac := rfl
@[simp] theorem State.setPool_cas (s : State) (p : Nat) (x : PoolSt) : (s.setPool p x).cas = s.cas := rfl
@[simp] theorem State.setPool_aqd (s : State) (p : Nat) (x : PoolSt) : (s.setPool p x).aqd = s.aqd := rfl
@[simp] theorem State.setPool_cell (s : State) (p : Nat) (x : PoolSt) : (s.setPool p x).cell = s.cell := rfl
@[simp] theorem State.setPool_tam (s : State) (p : Nat) (x : PoolSt) : (s.setPool p x).tam = s.tam := rfl
@[simp] theorem State.setPool_sta (s : State) (p : Nat) (x : PoolSt) : (s.setPool p x).sta = s.sta := rfl
@[simp] theorem State.setPool_pool (s : State) (p : Nat) (x : PoolSt) : (s.setPool p x).pool = sput {} s.pool p x := rfl
@[simp] theorem State.setPool_dma (s : State) (p : Nat) (x : PoolSt) : (s.setPool p x).dma = s.dma := rfl
@[simp] theorem State.setPool_sec (s : State) (p : Nat) (x : PoolSt) : (s.setPool p x).sec = s.sec := rfl
@[simp] theorem State.setPool_weir (s : State) (p : Nat) (x : PoolSt) : (s.setPool p x).weir = s.weir := rfl
@[simp] theorem State.setPool_pwr (s : State) (p : Nat) (x : PoolSt) : (s.setPool p x).pwr = s.pwr := rfl
@[simp] theorem State.setPool_lnk (s : State) (p : Nat) (x : PoolSt) : (s.setPool p x).lnk = s.lnk := rfl
@[simp] theorem State.setPool_mgmt (s : State) (p : Nat) (x : PoolSt) : (s.setPool p x).mgmt = s.mgmt := rfl

/-! ### State.withWeir -/

@[simp] theorem State.withWeir_part (s : State) (f : WeirSt → WeirSt) : (s.withWeir f).part = s.part := rfl
@[simp] theorem State.withWeir_pending (s : State) (f : WeirSt → WeirSt) : (s.withWeir f).pending = s.pending := rfl
@[simp] theorem State.withWeir_emitted (s : State) (f : WeirSt → WeirSt) : (s.withWeir f).emitted = s.emitted := rfl
@[simp] theorem State.withWeir_free (s : State) (f : WeirSt → WeirSt) : (s.withWeir f).free = s.free := rfl
@[simp] theorem State.withWeir_regs (s : State) (f : WeirSt → WeirSt) : (s.withWeir f).regs = s.regs := rfl
@[simp] theorem State.withWeir_mem (s : State) (f : WeirSt → WeirSt) : (s.withWeir f).mem = s.mem := rfl
@[simp] theorem State.withWeir_top (s : State) (f : WeirSt → WeirSt) : (s.withWeir f).top = s.top := rfl
@[simp] theorem State.withWeir_prt (s : State) (f : WeirSt → WeirSt) : (s.withWeir f).prt = s.prt := rfl
@[simp] theorem State.withWeir_memc (s : State) (f : WeirSt → WeirSt) : (s.withWeir f).memc = s.memc := rfl
@[simp] theorem State.withWeir_pte (s : State) (f : WeirSt → WeirSt) : (s.withWeir f).pte = s.pte := rfl
@[simp] theorem State.withWeir_que (s : State) (f : WeirSt → WeirSt) : (s.withWeir f).que = s.que := rfl
@[simp] theorem State.withWeir_pmc (s : State) (f : WeirSt → WeirSt) : (s.withWeir f).pmc = s.pmc := rfl
@[simp] theorem State.withWeir_clp (s : State) (f : WeirSt → WeirSt) : (s.withWeir f).clp = s.clp := rfl
@[simp] theorem State.withWeir_hmp (s : State) (f : WeirSt → WeirSt) : (s.withWeir f).hmp = s.hmp := rfl
@[simp] theorem State.withWeir_mac (s : State) (f : WeirSt → WeirSt) : (s.withWeir f).mac = s.mac := rfl
@[simp] theorem State.withWeir_cas (s : State) (f : WeirSt → WeirSt) : (s.withWeir f).cas = s.cas := rfl
@[simp] theorem State.withWeir_aqd (s : State) (f : WeirSt → WeirSt) : (s.withWeir f).aqd = s.aqd := rfl
@[simp] theorem State.withWeir_cell (s : State) (f : WeirSt → WeirSt) : (s.withWeir f).cell = s.cell := rfl
@[simp] theorem State.withWeir_tam (s : State) (f : WeirSt → WeirSt) : (s.withWeir f).tam = s.tam := rfl
@[simp] theorem State.withWeir_sta (s : State) (f : WeirSt → WeirSt) : (s.withWeir f).sta = s.sta := rfl
@[simp] theorem State.withWeir_pool (s : State) (f : WeirSt → WeirSt) : (s.withWeir f).pool = s.pool := rfl
@[simp] theorem State.withWeir_dma (s : State) (f : WeirSt → WeirSt) : (s.withWeir f).dma = s.dma := rfl
@[simp] theorem State.withWeir_sec (s : State) (f : WeirSt → WeirSt) : (s.withWeir f).sec = s.sec := rfl
@[simp] theorem State.withWeir_weir (s : State) (f : WeirSt → WeirSt) : (s.withWeir f).weir = f s.weir := rfl
@[simp] theorem State.withWeir_pwr (s : State) (f : WeirSt → WeirSt) : (s.withWeir f).pwr = s.pwr := rfl
@[simp] theorem State.withWeir_lnk (s : State) (f : WeirSt → WeirSt) : (s.withWeir f).lnk = s.lnk := rfl
@[simp] theorem State.withWeir_mgmt (s : State) (f : WeirSt → WeirSt) : (s.withWeir f).mgmt = s.mgmt := rfl

end Sys2Proof.Machine
end

