-- ==== Sys2Proof/WellFormed.lean ====
section
/-! DEFINITION. Which commands are well formed: every operand names something that the GX4-1536 has, or fits the field that
carries it, and what a command brings from outside is in its own form. A command that is not well formed is answered all
the same: it names nothing and changes nothing, or its operands are cut to their fields. -/

namespace Sys2Proof

/-- A function: 0 the physical one, 1 to 64 the virtual ones (R367). -/
def fnOk (f : Nat) : Bool := f ≤ 64

/-- A virtual function (R367). -/
def vfOk (v : Nat) : Bool := 1 ≤ v && v ≤ 64

/-- A partition (R367). -/
def partOk (n : Nat) : Bool := n < 64

/-- A pool (R17). -/
def poolOk (p : Nat) : Bool := p < 64

/-- A memory channel (R165). -/
def memChanOk (c : Nat) : Bool := c < 128

/-- A DMA channel of a pool (R335). -/
def dmaChanOk (c : Nat) : Bool := c < 8

/-- A submission ring (R307). -/
def ringOk (r : Nat) : Bool := r < 16

/-- A submission ring, or 16 for the event queue (R307). -/
def bellRingOk (r : Nat) : Bool := r ≤ 16

/-- An MSI-X vector (R328). -/
def vecOk (v : Nat) : Bool := v < 64

/-- A logical port. -/
def lpOk (p : Nat) : Bool := p < 16

/-- A priority of a port. -/
def prioOk (p : Nat) : Bool := p ≤ 8

/-- A quarter of a nanosecond. -/
def quarterOk (q : Nat) : Bool := q < 4

/-- A flow context (R238). -/
def ctxOk (i : Nat) : Bool := i < 40960

/-- A slot of the region table (R247). -/
def rgnSlotOk (k : Nat) : Bool := k < 0x1000000

/-- A certificate slot of SPDM. -/
def certSlotOk (k : Nat) : Bool := k < 8

/-- A bucket of a Cascade group. -/
def bktTagOk (t : Nat) : Bool := t < 4096

/-- A Cascade group of a partition, or a lane group of a link. -/
def groupOk16 (g : Nat) : Bool := g < 16

/-- A barrier of a partition (R298). -/
def barrierOk (b : Nat) : Bool := b < 4

/-- A shard guard of a pool (R107). -/
def guardOk (n : Nat) : Bool := n < 4

/-- A channel of the Host Memory Port (R365). -/
def hmpOk (c : Nat) : Bool := c < 2

/-- A page of a Host Memory Port channel's window. -/
def winPageOk (g : Nat) : Bool := g < 4096

/-- A unit of 32 bytes of a Host Memory Port channel's window. -/
def winUnitOk (u : Nat) : Bool := u < 4096 * 128

/-- A column byte of a 2 KiB row, at a burst (R349). -/
def colOk (c : Nat) : Bool := c < 2048 && c % 32 = 0

/-- A row of a bank (R348). -/
def rowOk (r : Nat) : Bool := r < 8192

/-- A tier. -/
def tierOk (t : Nat) : Bool := t < 4

/-- A die-to-die link. -/
def linkOk (l : Nat) : Bool := l < 8

/-- A direction of a link. -/
def dirOk (d : Nat) : Bool := d < 2

/-- A MAC filter entry (R270). -/
def filterOk (e : Nat) : Bool := e < 16

/-- An entry of the scheduled-event table (R293). -/
def sevIndexOk (i : Nat) : Bool := i < 1024

/-- Lanes of a group, spares among them. -/
def lanesOk (l : List Nat) : Bool := l.all fun x => x < 36

/-- An offset from a function's BAR0, within it or beyond (R8, R9). -/
def bar0Ok (o : Nat) : Bool := o < 2 ^ 32

/-- An offset of a virtual function's BAR2 (R331). -/
def bar2Ok (o : Nat) : Bool := o < 0x1000000

/-- The size of a request, in bytes (R304). -/
def sizeFits (n : Nat) : Bool := 1 ≤ n && n ≤ 4096

/-- A list of exactly so many. -/
def lenIs {α : Type} (n : Nat) (l : List α) : Bool := l.length = n

/-- A list of at most so many. -/
def lenUpTo {α : Type} (n : Nat) (l : List α) : Bool := l.length ≤ n

def w1 (v : Nat) : Bool := v < 2
def w2 (v : Nat) : Bool := v < 4
def w3 (v : Nat) : Bool := v < 8
def w4 (v : Nat) : Bool := v < 16
def w8 (v : Nat) : Bool := v < 256
def w16 (v : Nat) : Bool := v < 65536
def w32 (v : Nat) : Bool := v < 0x100000000
def w48 (v : Nat) : Bool := v < 0x1000000000000
def w64 (v : Nat) : Bool := v < 0x10000000000000000

/-- Keys strictly rising from `lo` on. -/
def risingFrom {α : Type} : Nat → List (Nat × α) → Bool
  | _, [] => true
  | lo, (k, _) :: m => lo ≤ k && risingFrom (k + 1) m

/-- What the world answers: host bytes by rising address, and symbols that a codeword has. -/
def envOk (e : Env) : Bool :=
  risingFrom 0 e.host && e.ecc.all (fun x => x.errs.all fun y => y.1 ≤ 35 && y.2 ≤ 255) && e.adder.all fun x => w2 x.stage && w32 x.out

/-- A memory access: a class of R464, a partition or 64, one aligned unit, and for a write 64 bytes with enables. -/
def accOk (a : Acc) : Bool :=
  a.cls ≤ 9 && a.part ≤ 64 && w48 a.addr && a.addr % 64 = 0 && (!a.write || (lenIs 64 a.data && lenIs 64 a.mask))

/-- A frame: addresses of 48 bits, a tag of 3 and 12, and a length that a port receives. -/
def frameOk (f : Frame) : Bool :=
  w48 f.dst && w48 f.src && f.tag.all (fun t => w3 t.1 && t.2 < 4096) && w16 f.octets

/-- A command to a Host Memory Port channel. -/
def hmpCmdOk : HmpCmd → Bool
  | .activate sub bank row => w1 sub && w4 bank && rowOk row
  | .precharge sub bank => w1 sub && w4 bank
  | .prechargeAll sub => w1 sub
  | .refreshBank bank => w4 bank
  | .modeWrite n value => w8 n && w8 value
  | .setPoint n => w2 n
  | .modeRead (.other n) => w8 n
  | .modeRead .manufacturer | .modeRead .temperature | .modeRead .refreshManagement | .modeRead .oscillator
  | .refreshAll | .powerDownEntry | .powerDownExit | .selfRefreshEntry | .selfRefreshExit | .trained => true

/-- An IDE key-management message. -/
def ideKmOk : IdeKm → Bool
  | .query => true
  | .keyProg st k d sub | .setGo st k d sub | .setStop st k d sub => st ≤ 8 && w1 k && w1 d && sub < 3

/-- A field of configuration space: a BAR of a type 0 header. -/
def cfgFieldOk : CfgField → Bool
  | .bar n | .vfBar n => n < 6
  | .present _ | .maxRate | .maxWidth | .payloadSupported | .payload | .readRequest | .powerState | .msixSize | .msixTable
  | .msixPba | .msixEnable | .msixMask | .ariHierarchy => true

/-- A configuration request. -/
def cfgOk : CfgReq → Bool
  | .sriov k => k < 7
  | .get f => cfgFieldOk f
  | .set f value => cfgFieldOk f && w32 value
  | .read off => off < 4096
  | .write off value => off < 4096 && w32 value
  | .vfEnable _ => true
  | .ideStream stream _ _ => stream ≤ 8

/-- An MCTP control message. -/
def mctpOk : MctpReq → Bool
  | .setEndpointId e => w8 e
  | .other k => w8 k
  | .getEndpointId | .getVersion | .getMessageTypes => true

/-- What the Weir's converters give. -/
def weirInOk (w : WeirIn) : Bool := w.uj ≤ 26320 && w16 w.dw

/-- What a control window measures. -/
def windowOk (w : WindowIn) : Bool := w16 w.dw && risingFrom 0 w.temps

/-- What bring-up finds. -/
def bootOk (b : BootIn) : Bool :=
  b.flash.all (fun w => w.1 + w.2.length ≤ 0x4000000) && b.dies.length ≤ 4 && b.badChannels.all memChanOk
    && b.badLanes.all (fun x => linkOk x.1.1 && dirOk x.1.2.1 && groupOk16 x.1.2.2 && lanesOk x.2)
    && b.unlocked.all fun x => linkOk x.1 && dirOk x.2.1 && groupOk16 x.2.2

/-- A command is well formed. -/
def Instr.wf : Instr → Bool
  | .registerWrite fn off size value env => fnOk fn && bar0Ok off && sizeFits size && w64 value && envOk env
  | .registerAccessError fn off size _ value => fnOk fn && bar0Ok off && sizeFits size && w64 value
  | .poolTqPush p => poolOk p
  | .mma p env => poolOk p && envOk env
  | .out p env => poolOk p && envOk env
  | .accLoad p env => poolOk p && envOk env
  | .accStore p env => poolOk p && envOk env
  | .clear p env => poolOk p && envOk env
  | .tableLoad p env => poolOk p && envOk env
  | .tieSum p env => poolOk p && envOk env
  | .attRescale p env => poolOk p && envOk env
  | .outputPath p _ env => poolOk p && envOk env
  | .tileOpComplete p _ i env => poolOk p && w8 i && envOk env
  | .guestYield p => poolOk p
  | .guestTileIssue p n env => poolOk p && w4 n && envOk env
  | .poolSgArm p n value => poolOk p && guardOk n && w32 value
  | .poolSgDisarm p n value => poolOk p && guardOk n && w32 value
  | .shardGuardCheck p n env => poolOk p && guardOk n && envOk env
  | .statsReport n env => w32 n && envOk env
  | .staCloseStep fn value => fnOk fn && w32 value
  | .staCloseSweepEnd fn env => fnOk fn && envOk env
  | .staLedgerCheck fn value => fnOk fn && w32 value
  | .staLedgerInit fn value => fnOk fn && w32 value
  | .ledgerCommandDone fn env => fnOk fn && envOk env
  | .tamOutcome env => envOk env
  | .poolCoreRun p => poolOk p
  | .poolCoreStop p => poolOk p
  | .poolCoreStopDone p env => poolOk p && envOk env
  | .poolCoreInstruction p env => poolOk p && envOk env
  | .mtimeCompare p => poolOk p
  | .poolWoPop p => poolOk p
  | .poolWoDone p status env => poolOk p && w8 status && envOk env
  | .poolTqCplInfoRead p => poolOk p
  | .pteLoad => true
  | .pteCheckOnly _ => true
  | .parterreImageCheck env => envOk env
  | .memAccess a env => accOk a && envOk env
  | .memGrantSlot ch env => memChanOk ch && envOk env
  | .patrolRead ch env => memChanOk ch && envOk env
  | .refresh ch => memChanOk ch
  | .memTempRead ch celsius => memChanOk ch && w8 celsius
  | .writeTimingCompensation ch => memChanOk ch
  | .powerDownEntry ch => memChanOk ch
  | .hostBusCompletion id _ data => w32 id && lenUpTo 64 data
  | .memTlbGo value => w32 value
  | .tlbInvalidationDone => true
  | .updateStart tier env => tierOk tier && envOk env
  | .updateDone part g tag env => partOk part && groupOk16 g && bktTagOk tag && envOk env
  | .updMirEnable fn value => fnOk fn && w32 value
  | .casGrpArm vf g => vfOk vf && groupOk16 g
  | .casGrpArmResult vf g env => vfOk vf && groupOk16 g && envOk env
  | .casGrpRemap vf g value env => vfOk vf && groupOk16 g && w32 value && envOk env
  | .casGrpAbort vf g env => vfOk vf && groupOk16 g && envOk env
  | .contrib env => envOk env
  | .holdSlotFold part g tag env => partOk part && groupOk16 g && bktTagOk tag && envOk env
  | .defer env => envOk env
  | .call env => envOk env
  | .replay env => envOk env
  | .gather env => envOk env
  | .gatherAck env => envOk env
  | .regatherReq env => envOk env
  | .regatherData env => envOk env
  | .regatherAck env => envOk env
  | .lateRankTimeout part g tag => partOk part && groupOk16 g && bktTagOk tag
  | .alloc vf run => vfOk vf && w2 run
  | .connect vf env => vfOk vf && envOk env
  | .close vf env => vfOk vf && envOk env
  | .query vf env => vfOk vf && envOk env
  | .register vf perm => vfOk vf && w2 perm
  | .revoke vf => vfOk vf
  | .regionQuery vf => vfOk vf
  | .regionQuarantine slot => rgnSlotOk slot
  | .regionFree slot => rgnSlotOk slot
  | .aqdRgnEn value => w64 value
  | .regionTableInitDone => true
  | .writePacket env => envOk env
  | .readReq env => envOk env
  | .responderReadData ctx env => ctxOk ctx && envOk env
  | .readResp env => envOk env
  | .ack env => envOk env
  | .nak env => envOk env
  | .nop env => envOk env
  | .cascadePacket env => envOk env
  | .probe => true
  | .probeReply => true
  | .packetSettled ctx psn env => ctxOk ctx && w32 psn && envOk env
  | .ackTimer ctx => ctxOk ctx
  | .retxTimeout ctx env => ctxOk ctx && envOk env
  | .probeTimer ctx => ctxOk ctx
  | .frameReceive lp f quarter => lpOk lp && frameOk f && quarterOk quarter
  | .pauseFrame => true
  | .pauseHoldExpire lp prio => lpOk lp && prioOk prio
  | .xoffRepeat lp prio => lpOk lp && prioOk prio
  | .pauseWatchdog lp prio _ => lpOk lp && prioOk prio
  | .pauseHoldoffEnd lp prio _ => lpOk lp && prioOk prio
  | .lldpTransmit lp => lpOk lp
  | .lldpReceive => true
  | .lpiEntry lp => lpOk lp
  | .linkUp lp => lpOk lp
  | .linkDown lp => lpOk lp
  | .macPortCfgWrite n value => w3 n && w32 value
  | .macFilterWrite lp e value => lpOk lp && filterOk e && w64 value
  | .sync => true
  | .followUp => true
  | .delayResp => true
  | .announce => true
  | .delayReqTimer => true
  | .ppsEdge quarter => quarterOk quarter
  | .sourceLoss => true
  | .clk10mLoss => true
  | .clpSrcWrite value => w32 value
  | .clpSet off size value => (off = 0 || off = 4) && size ≤ 8 && w64 value
  | .clpTimeRead fn => fnOk fn
  | .ppsOutPulse => true
  | .clpBarArm vf b value => vfOk vf && barrierOk b && w32 value
  | .clpBarCancel vf b value => vfOk vf && barrierOk b && w32 value
  | .clpSnapArm value => w32 value
  | .notBeforeRelease i env => sevIndexOk i && envOk env
  | .barrierRelease vf b => vfOk vf && barrierOk b
  | .rampGroupStart vf b g => vfOk vf && barrierOk b && groupOk16 g
  | .rampEnd vf b => vfOk vf && barrierOk b
  | .cascadeSlotOpen i env => sevIndexOk i && envOk env
  | .counterSnapshot => true
  | .counterFreeze => true
  | .counterThaw => true
  | .doorbellSnoop fn x => fnOk fn && bellRingOk x.ring
  | .doorbellLineRead fn ring low high _ => fnOk fn && bellRingOk ring && low.length = 32 && high.length = 32
  | .queDb fn ring value => fnOk fn && ringOk ring && w32 value
  | .queEqDb fn value => fnOk fn && w32 value
  | .descriptorReadData fn ring idx bytes _ => fnOk fn && ringOk ring && w16 idx && lenIs 64 bytes
  | .descriptorDispatch fn ring env => fnOk fn && ringOk ring && envOk env
  | .descriptorReread fn ring => fnOk fn && ringOk ring
  | .queRingEnable fn ring value env => fnOk fn && ringOk ring && w32 value && envOk env
  | .queRingDisable fn ring value env => fnOk fn && ringOk ring && w32 value && envOk env
  | .msixModerationTimer fn vec => fnOk fn && vecOk vec
  | .msixUnmask fn vec => fnOk fn && vecOk vec
  | .p2pWrite vf off rid bytes env => vfOk vf && bar2Ok off && w16 rid && lenUpTo 4096 bytes && envOk env
  | .p2pRead vf off _ => vfOk vf && bar2Ok off
  | .dmaGo p ch env => poolOk p && dmaChanOk ch && envOk env
  | .dmaAbort p ch env => poolOk p && dmaChanOk ch && envOk env
  | .dmaBurst p ch env => poolOk p && dmaChanOk ch && envOk env
  | .dmaComplete p ch env => poolOk p && dmaChanOk ch && envOk env
  | .hmpLpddrCommand c k => hmpOk c && hmpCmdOk k
  | .hmpHostWrite c sub bank col bytes mask => hmpOk c && w1 sub && w4 bank && colOk col && lenIs 32 bytes && lenIs 32 mask
  | .hmpHostRead c sub bank col env => hmpOk c && w1 sub && w4 bank && colOk col && envOk env
  | .hmpWinFence c => hmpOk c
  | .hmpWinFill c => hmpOk c
  | .hmpDrain c unit env => hmpOk c && winUnitOk unit && envOk env
  | .hmpDrainDone c unit => hmpOk c && winUnitOk unit
  | .hmpFillPage c env => hmpOk c && envOk env
  | .hmpMapWrite c pg value env => hmpOk c && winPageOk pg && w64 value && envOk env
  | .hmpEnable c value => hmpOk c && w32 value
  | .hmpDisable c value => hmpOk c && w32 value
  | .prtRstGo value env => w32 value && envOk env
  | .vfFlr v env => vfOk v && envOk env
  | .vfEnableClear env => envOk env
  | .numvfsWrite value => w32 value
  | .partitionResetStep n env => partOk n && envOk env
  | .controlWindow w env => windowOk w && envOk env
  | .pwrBrakeFall => true
  | .pwrBrakeRise => true
  | .airflowLoss env => envOk env
  | .airflowRestore env => envOk env
  | .sliceCheckFail l d g => linkOk l && dirOk d && groupOk16 g
  | .laneCheckStart l d g => linkOk l && dirOk d && groupOk16 g
  | .laneCheckEnd l d g lanes => linkOk l && dirOk d && groupOk16 g && lanesOk lanes
  | .forwardedClockLoss l d g => linkOk l && dirOk d && groupOk16 g
  | .getVersion t => w8 t
  | .getCapabilities t => w8 t
  | .negotiateAlgorithms t => w8 t
  | .getDigests t => w8 t
  | .getCertificate t slot off len => w8 t && certSlotOk slot && w16 off && w16 len
  | .challenge t slot nonce => w8 t && certSlotOk slot && lenIs 32 nonce
  | .getMeasurements t op nonce => w8 t && w8 op && lenIs 32 nonce
  | .keyExchange t slot nonce => w8 t && certSlotOk slot && lenIs 32 nonce
  | .finish t id => w8 t && w32 id
  | .heartbeat t id => w8 t && w32 id
  | .keyUpdate t id op => w8 t && w32 id && w8 op
  | .endSession t id => w8 t && w32 id
  | .chunkSend t seq bytes => w8 t && w16 seq && lenUpTo 4080 bytes
  | .chunkGet t seq => w8 t && w16 seq
  | .vendorDefinedRequest t id km => w8 t && w32 id && ideKmOk km
  | .getTdispVersion part => partOk part
  | .getTdispCapabilities part => partOk part
  | .lockInterfaceRequest part stream env => partOk part && w8 stream && envOk env
  | .getDeviceInterfaceReport part => partOk part
  | .getDeviceInterfaceState part => partOk part
  | .startInterfaceRequest part => partOk part
  | .stopInterfaceRequest part env => partOk part && envOk env
  | .ideIntegrityFailure stream env => w8 stream && envOk env
  | .secSvnBurn value => w32 value
  | .keyInstall part env => partOk part && envOk env
  | .ingest part env => partOk part && envOk env
  | .secOpComplete part => partOk part
  | .weirOpen w => weirInOk w
  | .weirClose w => weirInOk w
  | .weirRead w => weirInOk w
  | .weirAck w => weirInOk w
  | .readKey w => weirInOk w
  | .fwLoad w env => weirInOk w && envOk env
  | .calLoad w env => weirInOk w && envOk env
  | .intervalRecord part w => partOk part && weirInOk w
  | .commitRetry w => weirInOk w
  | .commitDone _ w => weirInOk w
  | .ownerMessage w => weirInOk w
  | .weirLinkDown w => weirInOk w
  | .weirLinkUp w => weirInOk w
  | .standbyLoss w => weirInOk w
  | .weirPowerUp w => weirInOk w
  | .pmcSnapNow => true
  | .pmcFreezeNow => true
  | .pmcThawNow => true
  | .pmcClear => true
  | .pmcTagEn value => w32 value
  | .standbyPowerUp => true
  | .p54vGood => true
  | .bringupStageAdvance b env => bootOk b && envOk env
  | .modResetN env => envOk env
  | .perstN env => envOk env
  | .topRstCold value env => w32 value && envOk env
  | .topRstWarm value env => w32 value && envOk env
  | .topRstModule value env => w32 value && envOk env
  | .pfFlr env => envOk env
  | .linkReset env => envOk env
  | .quiesceEnd => true
  | .p54vLoss => true
  | .configRequest fn req env => fnOk fn && cfgOk req && envOk env
  | .mctpControlMessage req => mctpOk req
  | .getTid => true
  | .setTid tid => w8 tid
  | .getPldmVersion type => w8 type
  | .getPldmTypes => true
  | .getPldmCommands type => w8 type
  | .getPdrRepositoryInfo => true
  | .getPdr record => w32 record
  | .getSensorReading sensor => w8 sensor
  | .getStateSensorReadings => true
  | .setEventReceiver receiver => receiver.all (w8 ·)
  | .uartRx c => w8 c
  | .pcieCompletionTimeout id => w32 id
  | .frameTransmit lp quarter env => lpOk lp && quarterOk quarter && envOk env
  | .rxBufferDrain lp => lpOk lp
  | .lldpTtlExpiry lp => lpOk lp
  | .ppsOutPulseEnd => true
  | .clk10mReturn => true
  | .perstNRise => true
  | .pcieLinkUp _ => true

end Sys2Proof
end

