-- ==== Sys2Proof/Tests/Slice0.lean ====
section
/-! SUPPORT. The model's own tests: ill-formed commands are refused by the check, every clause of every statement has a
state and operands that meet what it supposes, and a few single steps give what the spec's examples and tables say. -/

namespace Sys2Proof.Tests

open Sys2Proof Sys2Proof.Machine

set_option Elab.async false

/-! ### Well-formedness -/

def okAcc : Acc := ⟨2, .tier 0, 3, 64, false, false, [], []⟩

def okFrame : Frame := ⟨1, 2, none, 64, true, true, .other 0x0800⟩

/-- One command for each check that only that check refuses. -/
def illFormed : List Instr :=
  [.queEqDb 65 0, .casGrpArm 0 1, .casGrpArm 65 1, .getTdispVersion 64, .guestYield 64, .refresh 128, .dmaGo 0 8 {},
   .queDb 0 16 0, .doorbellSnoop 0 ⟨17, .inv⟩, .msixUnmask 0 64, .linkUp 16, .pauseHoldExpire 0 9, .ppsEdge 4, .ackTimer 40960,
   .regionFree 0x1000000, .challenge 0 8 (List.replicate 32 0), .lateRankTimeout 0 0 4096, .lateRankTimeout 0 16 0,
   .rampEnd 1 4, .poolSgArm 0 4 0, .hmpWinFill 2, .hmpMapWrite 0 4096 0 {}, .hmpDrainDone 0 0x80000,
   .hmpHostRead 0 0 0 2048 {}, .hmpHostRead 0 0 0 1 {}, .hmpLpddrCommand 0 (.activate 0 0 8192), .updateStart 4 {},
   .laneCheckStart 8 0 0, .laneCheckStart 0 2 0, .macFilterWrite 0 16 0, .notBeforeRelease 1024 {},
   .laneCheckEnd 0 0 0 [36], .registerWrite 0 0x100000000 4 0 {}, .p2pRead 1 0x1000000 false, .registerWrite 0 0 0 0 {},
   .registerWrite 0 0 4097 0 {}, .doorbellLineRead 0 0 (zeros 32) (zeros 31) true, .chunkSend 0 0 (List.replicate 4081 0), .getMeasurements 0 0 [], .hmpHostRead 0 2 0 0 {},
   .alloc 1 4, .macPortCfgWrite 8 0, .hmpHostRead 0 0 16 0 {}, .uartRx 256, .chunkGet 0 65536, .memTlbGo 0x100000000,
   .frameReceive 0 { okFrame with dst := 0x1000000000000 } 0, .frameReceive 0 { okFrame with tag := some (8, 0) } 0,
   .aqdRgnEn 0x10000000000000000, .tamOutcome { host := [(1, 0), (0, 0)] }, .tamOutcome { ecc := [⟨0, 1, [(36, 1)]⟩] },
   .tamOutcome { adder := [⟨0, 4, 0⟩] }, .configRequest 0 (.get (.bar 6)) {}, .configRequest 0 (.set .payload 0x100000000) {},
   .bringupStageAdvance { ms := 0, flash := [(0x3FFFFFF, [0, 0])] } {}, .memAccess { okAcc with cls := 10 } {}, .memAccess { okAcc with part := 65 } {},
   .memAccess { okAcc with addr := 8 } {}, .memAccess { okAcc with write := true } {},
   .vendorDefinedRequest 0 0 (.keyProg 0 0 0 3), .configRequest 0 (.sriov 7) {}, .configRequest 0 (.ideStream 9 true true) {},
   .mctpControlMessage (.setEndpointId 256), .weirRead { uj := 26321 }, .controlWindow ⟨65536, 20, []⟩ {},
   .bringupStageAdvance { ms := 0, badChannels := [128] } {}, .setEventReceiver (some 256), .clpSet 2 4 0]

theorem test_ill_formed_refused : illFormed.all (fun i => !i.wf) = true := by decide +kernel

/-- The same operands within their bounds are accepted. -/
theorem test_well_formed_accepted :
    [Instr.queEqDb 64 0xFFFFFFFF, .casGrpArm 64 15, .getTdispVersion 63, .guestYield 63, .refresh 127, .dmaGo 63 7 {},
     .queDb 64 15 0, .doorbellSnoop 64 ⟨16, .data⟩, .msixUnmask 64 63, .linkUp 15, .pauseHoldExpire 15 8, .registerWrite 0 0xFFFFFFFF 4096 0 {}, .ppsEdge 3,
     .ackTimer 40959, .regionFree 0xFFFFFF, .rampEnd 64 3, .hmpMapWrite 1 4095 0 {}, .hmpHostRead 1 1 15 2016 {},
     .laneCheckEnd 7 1 15 [35], .memAccess okAcc {}, .frameReceive 15 okFrame 3, .clpSet 4 8 0,
     .setEventReceiver (some 255)].all (fun i => i.wf) = true := by decide +kernel

/-- The table gives its rows no bits, so a word spells no command. -/
theorem test_word_spells_none : decodeTableWord 32 0xFFFFFFFF = none := by decide

/-! ### Small states -/

/-- Fields set in a state: field, view, instance, value. -/
def set (s : State) (l : List (Fld × Nat × Nat × Nat)) : State := l.foldl (fun s x => s.setFld x.1 x.2.1 x.2.2.1 x.2.2.2) s

/-- A byte string of `n` bytes with fields at offsets: offset, bytes, value. -/
def bytesOf (n : Nat) (l : List (Nat × Nat × Nat)) : List Byte :=
  l.foldl (fun d x => d.take x.1 ++ toLe x.2.1 x.2.2 ++ d.drop (x.1 + x.2.1)) (zeros n)

/-- After reset, with partition 0 enabled and the owner of every pool, and its virtual function present. -/
def owned : State :=
  { State.reset with
    pte := { image := { serial := 1, pools := List.replicate 64 ⟨0, 0xFF, 0⟩, basins := List.replicate 16 ⟨0, 0xFF⟩
                        parts := [⟨1, 1, 1, 1, 1, 16, 16, [256, 256, 256, 256]⟩], pfClp := 16 } }
    prt := { vfEnable := true, numVfs := 64 } }

/-- The core of pool 0 runs. -/
def running : State := set owned [(F.POOL_CORE_RUN, 0, 0, 1), (F.POOL_CORE_HALTED, 0, 0, 0)]

/-- A pool in the state `owned`. -/
def pooled (x : PoolSt) : State := { owned with pool := [(0, x)] }

/-- A read within a unit that nothing disturbs gives its bytes. -/
theorem reads {s : State} {rq : Rq} {va len dpa ch off : Nat} (hu : unitsOf va len = 1)
    (hs : s.calmAt rq (va / 64 * 64) dpa ch off false) :
    ∃ s1, s.readVa {} rq va len = (s1, .okay,
      slice (s.seen (s.xtsKey rq.part) (physKey ch off) ++ s.seen (s.xtsKey rq.part) (physKey ch off + 32)) (va % 64) len) ∧
      s.calmTo s1 :=
  ⟨(s.readVa {} rq va len).1, Prod.ext rfl (s.readVa_calm {} rq va len dpa ch off rfl hu hs).2,
    (s.readVa_calm {} rq va len dpa ch off rfl hu hs).1⟩

/-- A write within a unit that nothing disturbs is answered OKAY. -/
theorem writes {s : State} {rq : Rq} {va dpa ch off : Nat} {bs : List Byte} (hu : unitsOf va bs.length = 1)
    (hs : s.calmAt rq (va / 64 * 64) dpa ch off true) : ∃ s1, s.writeVa {} rq va bs = (s1, .okay) :=
  ⟨(s.writeVa {} rq va bs).1, Prod.ext rfl (s.writeVa_calm {} rq va dpa ch off bs rfl hu hs)⟩

/-! ### Witnesses: the block as a whole, and registers -/

theorem test_step_front : ({ State.reset with pending := [.sync, .refresh 5] } : State).pending = .sync :: [.refresh 5] ∧
    State.reset.pending = [] := by decide +kernel

theorem test_step_memory : Memory.wf State.reset.mem = true ∧ step State.reset = .next State.reset.tick :=
  ⟨by decide +kernel, rfl⟩

theorem test_register_write : ∀ r ∈ storedRegs, r ∉ [.poolIrqEn, .poolSgRange, .aqdFlowCtx, .aqdRgnKey] →
    owned.place 0 (regSpec r).off = some ⟨r, 0, 0, 0⟩ ∧ owned.answers 0 (regSpec r).off r = true ∧
    owned.decodes 0 (regSpec r).off = true ∧ sizeOk (regSpec r).off 4 = true ∧ owned.teeRefused 0 false = false := by
  decide +kernel

theorem test_register_write_vf : owned.place 1 (regSpec .aqdFlowCtx).off = some ⟨.aqdFlowCtx, 1, 0, 0⟩ ∧
    owned.answers 1 (regSpec .aqdFlowCtx).off .aqdFlowCtx = true ∧ owned.decodes 1 (regSpec .aqdFlowCtx).off = true := by
  decide +kernel

theorem test_error_clear : errFirstOf .celErrSts = some .celErrFirst ∧ Reg.celErrSts ≠ .topErrSts ∧
    owned.place 1 (regSpec .celErrSts).off = some ⟨.celErrSts, 1, 0, 0⟩ ∧
    owned.answers 1 (regSpec .celErrSts).off .celErrSts = true ∧ owned.decodes 1 (regSpec .celErrSts).off = true ∧
    sizeOk (regSpec .celErrSts).off 4 = true ∧ owned.teeRefused 1 false = false := by decide +kernel

theorem test_access_error : owned.decodes 0 0x38 = true ∧ sizeOk 0x38 2 = false ∧ sizeOk 0x3C 8 = false ∧
    State.reset.regN .topErrSts 0 0 = 0 ∧ (set owned [(F.TOP_E_ACCESS, 0, 0, 1)]).regN .topErrSts 0 0 ≠ 0 := by
  decide +kernel

/-- Every ERR_STS register with a capture register is in the list that a cold reset clears. -/
theorem test_error_registers : ((upFrom 0 209).all fun n =>
    (errFirstOf (Reg.ofNat n)).isNone || errRegs.contains (Reg.ofNat n)) = true := by decide +kernel

/-! ### Witnesses: tile operations -/

/-- A tile operation of the owner with these fields in its descriptor. -/
def op (l : List (Nat × Nat × Nat)) : TileOp := { id := 0, part := 0, guest := false, d := bytesOf 128 l }

/-- The opcodes at an engine's one cell: MMA of one step, OUT, ACC_LOAD, ACC_STORE, CLEAR, TABLE_LOAD, TIE_SUM of BF16 and
ATT_RESCALE NORM. -/
def ops : List TileOp :=
  [op [(0, 1, 1), (4, 1, 0x11), (6, 2, 1)], op [(0, 1, 2), (42, 2, 64), (44, 2, 32)], op [(0, 1, 3)], op [(0, 1, 4)],
   op [(0, 1, 5)], op [(0, 1, 6)], op [(0, 1, 7), (4, 1, 1), (42, 2, 64), (44, 2, 32)],
   op [(0, 1, 8), (6, 2, 0x11), (42, 2, 64), (44, 2, 32)]]

/-- The owner of pool 0 holds the attention claim on its reserve slot. -/
def claimed (o : TileOp) : State :=
  { pooled { queue := [o] } with
    pte := { owned.pte with image := { owned.pte.image with pools := List.replicate 64 ⟨0, 0xFF, 3⟩ } } }

def startsB (s : State) (p : Nat) (o : TileOp) (gr : List Pos) : Bool :=
  (s.poolSt p).nextOp false = some o && !o.guest && o.bad = [] && o.status = 0 && s.mayStart p o &&
  s.group p (tdOf o.d) = some gr && !s.tileBad p gr (tdOf o.d) false

theorem test_operations_start : (ops.all fun o => startsB (claimed o) 0 o [⟨0, 0, 0⟩]) = true ∧
    ops.map (fun o => (tdOf o.d).op) = [1, 2, 3, 4, 5, 6, 7, 8] := by decide +kernel

/-- The suppositions of the values of an MMA pass. -/
theorem test_mma_pass : ∀ o ∈ ops.take 1,
    (tdOf o.d).op = 1 ∧ (tdOf o.d).k = 1 ∧ (tdOf o.d).start = false ∧ (tdOf o.d).finish = false ∧
    (tdOf o.d).segEnd = false ∧ (tdOf o.d).mask = 0 ∧ (claimed o).tam = [] ∧ ({} : Env).sram = [] ∧
    (set (claimed o) [(F.CEL_SR_DISABLE, 1, 0, 1)]).fld F.CEL_SR_DISABLE ((claimed o).drive 0) 0 = 1 ∧
    startsB (set (claimed o) [(F.CEL_SR_DISABLE, 1, 0, 1)]) 0 o [⟨0, 0, 0⟩] = true := by decide +kernel

/-- Malformed operations of each opcode: an undefined one, and one with a slot out of reach. -/
def badOps : List TileOp :=
  [op [(0, 1, 0)], op [(0, 1, 9)], op [(0, 1, 1), (2, 1, 7)], op [(0, 1, 2), (2, 1, 7)], op [(0, 1, 3), (2, 1, 7)],
   op [(0, 1, 4), (2, 1, 7)], op [(0, 1, 5), (2, 1, 7)], op [(0, 1, 6), (48, 8, 32)], op [(0, 1, 7), (2, 1, 7)],
   op [(0, 1, 8), (2, 1, 7)]]

theorem test_operations_malformed : (badOps.all fun o =>
    (((claimed o).poolSt 0).nextOp false = some o) && !o.guest && (claimed o).mayStart 0 o &&
    ((claimed o).group 0 (tdOf o.d) = some [⟨0, 0, 0⟩]) && (claimed o).tileBad 0 [⟨0, 0, 0⟩] (tdOf o.d) false) = true := by
  decide +kernel

/-- A geometry that the engine cannot form gives no group. -/
theorem test_no_group : (claimed (op [(0, 1, 1), (2, 1, 0x18)])).group 0 (tdOf (op [(0, 1, 1), (2, 1, 0x18)]).d) = none := by
  decide +kernel

theorem test_push : running.coreRuns 0 = true ∧ running.tqFree 0 ≠ 0 ∧ running.tqRejecting 0 = false ∧
    ({ running with pool := [(0, { queue := List.replicate 64 (op [(0, 1, 5)]) })] } : State).coreRuns 0 = true ∧
    ({ running with pool := [(0, { queue := List.replicate 64 (op [(0, 1, 5)]) })] } : State).tqFree 0 = 0 := by
  decide +kernel

theorem test_output_and_completion :
    (pooled { queue := [{ op [(0, 1, 2)] with phase := 2 }] }).stopped = false ∧
    ((pooled { queue := [{ op [(0, 1, 2)] with phase := 2 }] }).poolSt 0).queue.find? (fun x => x.phase = 2)
      = some { op [(0, 1, 2)] with phase := 2 } ∧
    (pooled { queue := [{ op [(0, 1, 2)] with phase := 2 }] }).group 0 (tdOf (op [(0, 1, 2)]).d) = some [⟨0, 0, 0⟩] ∧
    ((pooled { queue := [{ op [(0, 1, 2)] with phase := 3 }] }).poolSt 0).queue[0]? = some { op [(0, 1, 2)] with phase := 3 } ∧
    (∀ r ∈ (pooled { queue := [{ op [(0, 1, 2)] with phase := 3 }] }).sta.reports, r.op ≠ 0) := by decide +kernel

/-- A work order of ring 0 of virtual function 1. -/
def workOrder : WorkOrder := ⟨⟨1, 0, 0, 7, false, false, 0, 0, 0, 0⟩, zeros 40⟩

/-! ### Witnesses: guests, guards, the merger, sweeps -/

/-- Partition 0's first gigabyte of virtual addresses lies at the start of the far view. -/
def mapped (s : State) : State := set { s with memc := { tlb := [⟨0, 0, 2, 7⟩] } } [(F.MEM_PT_EN, 0, 0, 1)]

def guestOp (l : List (Nat × Nat × Nat)) : TileOp := { op l with guest := true, part := 1 }

theorem test_guest :
    ((pooled { queue := [op [(0, 1, 5)]], gqueue := [guestOp [(0, 1, 5)]], grun := true }).poolSt 0).gqueue.head?
      = some (guestOp [(0, 1, 5)]) ∧
    ((pooled { queue := [op [(0, 1, 5)]], gqueue := [guestOp [(0, 1, 5)]], grun := true }).poolSt 0).grun = true ∧
    (pooled { queue := [op [(0, 1, 5)]], gqueue := [guestOp [(0, 1, 5)]], grun := true }).ownerWants 0 (guestOp [(0, 1, 5)]) = true ∧
    (∀ o ∈ [guestOp [(0, 1, 1), (4, 1, 0x11), (6, 2, 2)], guestOp [(0, 1, 2), (42, 2, 64), (44, 2, 32)]],
      (pooled { gqueue := [o] }).stopped = false ∧ ((pooled { gqueue := [o] }).poolSt 0).gqueue.head? = some o ∧
      (pooled { gqueue := [o] }).ownerWants 0 o = false ∧ (sget {} (pooled { gqueue := [o] }).prt.resets o.part).phase < 4 ∧
      (pooled { gqueue := [o] }).heldByBarrier o.part 0 = false ∧
      (pooled { gqueue := [o] }).group 0 (tdOf o.d) = some [⟨0, 0, 0⟩] ∧ o.phase = 0 ∧ o.guest = true ∧ o.passes = 0 ∧
      (pooled { gqueue := [o] }).tileBad 0 [⟨0, 0, 0⟩] (tdOf o.d) true = false) ∧
    1 < (tdOf (guestOp [(0, 1, 1), (4, 1, 0x11), (6, 2, 2)]).d).k := by decide +kernel

/-- A pending guard whose record at address 0 is complete, and one whose record is empty. -/
def guarded : State := set (mapped owned) [(F.POOL_SG_STATE, 0, 3, 1)]

/-- The same with the presence byte of the record at address 0 set. -/
def recorded : State := guarded.setByte 7 1

theorem calm_recorded : recorded.calmAt (otherRq 0 (.tier 0)) 0 0 0 0 false :=
  ⟨rfl, by decide +kernel, by decide +kernel, by decide +kernel, by decide +kernel, by decide +kernel⟩

theorem calm_guarded : guarded.calmAt (otherRq 0 (.tier 0)) 0 0 0 0 false :=
  ⟨rfl, by decide +kernel, by decide +kernel, by decide +kernel, by decide +kernel, by decide +kernel⟩

theorem test_guard : recorded.guardState 0 3 = 1 ∧ recorded.stopped = false ∧ (∀ o ∈ recorded.owner 0, o < 64) ∧
    recorded.armedWith 0 3 = (0, 0) ∧ guarded.guardState 0 3 = 1 ∧ guarded.stopped = false := by decide +kernel

theorem test_guard_passes : recorded.guardPasses 0 3 {} := by
  have h := (recorded.readVa_calm {} (otherRq 0 (.tier 0)) 0 32 0 0 0 rfl (by decide) calm_recorded).2
  have e : recorded.guardRead 0 3 {} = recorded.readVa {} (otherRq 0 (.tier 0)) 0 32 := rfl
  simp only [State.guardPasses, e, h]
  decide +kernel

theorem test_guard_fails : ¬ guarded.guardPasses 0 3 {} := by
  have h := (guarded.readVa_calm {} (otherRq 0 (.tier 0)) 0 32 0 0 0 rfl (by decide) calm_guarded).2
  have e : guarded.guardRead 0 3 {} = guarded.readVa {} (otherRq 0 (.tier 0)) 0 32 := rfl
  simp only [State.guardPasses, e, h]
  decide +kernel

def report : Report := ⟨0, 0, 0, 5, 2048, 1, 0, 0, 0, 0x3F800000⟩

/-- A table of one entry, open for step 5, and a report of that step. -/
def reported : State :=
  (State.setByte (set (mapped { owned with sta := { reports := [report] } }) [(F.STA_TABLE_LEN, 1, 0, 1)]) 4 1).setByte 8 5

/-- The same without the report. -/
def reading : State := { reported with sta := { reported.sta with reports := [] } }

theorem test_report : reported.stopped = false ∧ reported.sta.reports = report :: [] ∧ reported.cutOff 0 = false ∧
    0 < reported.staLen (reported.drive 0) ∧ report.tensor < reported.staLen (reported.drive 0) ∧
    ({ owned with sta := { outcomes := [⟨0, 0, 0, 0, 16, 0⟩] } } : State).sta.outcomes = ⟨0, 0, 0, 0, 16, 0⟩ :: [] ∧
    owned.cutOff 0 = false ∧ min 65536 (owned.fld F.TAM_TABLE_LEN (owned.drive 0) 0) ≤ 0 ∧
    ({ owned with prt := { owned.prt with resets := [(0, { phase := 4 })] } } : State).cutOff 0 = true ∧
    owned.staLen (owned.drive 0) = 0 ∧
    reported.staLen (reported.drive 0) ≤ ({ report with tensor := 1 } : Report).tensor := by decide +kernel

/-- `reported` with a report that is not the step open or closed, and with another state of its entry. -/
def reportedAs (r : Report) (state : Nat) : State :=
  { State.setByte reported 4 (BitVec.ofNat 8 state) with sta := { reports := [r] } }

/-- The state whose entry the report `r` of `reportedAs r state` reads. -/
def readingAs (state : Nat) : State := { State.setByte reported 4 (BitVec.ofNat 8 state) with sta := { reports := [] } }

theorem calm_reading (state : Nat) (h : state = 0 ∨ state = 1 ∨ state = 2) (w : Bool) :
    (readingAs state).calmAt (staRq 0) 0 0 0 0 w := by
  rcases h with rfl | rfl | rfl <;> cases w <;> exact ⟨rfl, by decide +kernel, by decide +kernel, by decide +kernel, by decide +kernel, by decide +kernel⟩

theorem staVa_of (u : State) (k : Nat) (b : Byte) (x : StaSt) :
    ({ State.setByte u k b with sta := x } : State).staVa (({ State.setByte u k b with sta := x } : State).drive 0) 0
      = u.staVa (u.drive 0) 0 := rfl

theorem reportRead_of (u : State) (k : Nat) (b : Byte) (r : Report) :
    State.reportRead ({ State.setByte u k b with sta := { reports := [r] } } : State) {} r []
      = State.readVa ({ State.setByte u k b with sta := { reports := [] } } : State) {} (staRq r.part)
        (({ State.setByte u k b with sta := { reports := [r] } } : State).staVa
          (({ State.setByte u k b with sta := { reports := [r] } } : State).drive r.part) r.tensor) 64 := rfl

theorem entry_bytes (state : Nat) (h : state = 0 ∨ state = 1 ∨ state = 2) :
    slice ((readingAs state).seen ((readingAs state).xtsKey (staRq 0).part) (physKey 0 0)
      ++ (readingAs state).seen ((readingAs state).xtsKey (staRq 0).part) (physKey 0 0 + 32)) (0 % 64) 64
      = (readingAs state).seen 0 0 ++ (readingAs state).seen 0 32 := by
  rcases h with rfl | rfl | rfl <;> decide +kernel

/-- The read of the entry of a report of tensor 0 is answered OKAY with the entry, and so is a write that follows. -/
theorem test_report_read (r : Report) (state : Nat) (h : state = 0 ∨ state = 1 ∨ state = 2) (hp : r.part = 0)
    (ht : r.tensor = 0) :
    ∃ s1, (reportedAs r state).reportRead {} r [] = (s1, .okay, ((readingAs state).seen 0 0 ++ (readingAs state).seen 0 32)) ∧
      ∀ d : List Byte, d.length = 64 → ∃ s2, s1.writeVa {} (staRq r.part)
        ((reportedAs r state).staVa ((reportedAs r state).drive r.part) r.tensor) d = (s2, .okay) := by
  have e : (reportedAs r state).staVa ((reportedAs r state).drive 0) 0 = 0 := by
    rw [reportedAs, staVa_of]; decide +kernel
  have e1 : (reportedAs r state).reportRead {} r [] = (readingAs state).readVa {} (staRq 0) 0 64 := by
    rw [reportedAs, reportRead_of, ← reportedAs, hp, ht, e, readingAs]
  obtain ⟨s1, h1, hc⟩ := reads (va := 0) (len := 64) (by decide) (calm_reading state h false)
  refine ⟨s1, ?_, fun d hd => ?_⟩
  · rw [e1, h1, entry_bytes state h]
  · rw [hp, ht, e]
    exact writes (va := 0) (by rw [hd]; decide) (State.calmAt_of_calmTo hc (calm_reading state h true))

/-- An entry open for the report's step, one never opened, one closed earlier, one open for a later step, and one closed at a later
step. -/
theorem test_report_entry :
    (let e := staEnt ((readingAs 1).seen 0 0 ++ (readingAs 1).seen 0 32); bit e.state 0 = true ∧ e.openStep = 5 ∧
      stepAfter 4 e.openStep = false ∧ e.openStep ≠ 4) ∧
    (let e := staEnt ((readingAs 0).seen 0 0 ++ (readingAs 0).seen 0 32); bit e.state 0 = false ∧ bit e.state 1 = false) ∧
    (let e := staEnt ((readingAs 2).seen 0 0 ++ (readingAs 2).seen 0 32); bit e.state 0 = false ∧ bit e.state 1 = true ∧
      stepAfter 5 e.closedStep = true ∧ stepAfter 0 e.closedStep = false) := by decide +kernel

/-- Without translation the entry cannot be read. -/
theorem test_report_unreadable :
    (State.reportRead (set reported [(F.MEM_PT_EN, 0, 0, 0)]) {} report []).2.1 ≠ .okay := by decide +kernel

theorem test_sweeps : owned.fnOpen 1 = true ∧ owned.staBusy 1 = false ∧ owned.governed 1 ≠ [] ∧
    (set owned [(F.STA_CLOSE_BUSY, 1, 0, 1)]).fnOpen 1 = true ∧ (set owned [(F.STA_CLOSE_BUSY, 1, 0, 1)]).staBusy 1 = true ∧
    ({ owned with sta := { sweeps := [(1, some { kind := 0, step := 5, parts := [0] })] } } : State).sweep 1
      = some { kind := 0, step := 5, parts := [0] } ∧
    ({ owned with sta := { sweeps := [(1, some { kind := 1, step := 5, parts := [0] })] } } : State).sweep 1
      = some { kind := 1, step := 5, parts := [0] } := by decide +kernel

/-- The ledger's entry of zeros, at both ends of its head and of its fill. -/
theorem test_ledger_entry : ∀ e ∈ [lgrEnt (zeros 128), { lgrEnt (zeros 128) with head := 15, fill := 14 },
      { lgrEnt (zeros 128) with head := 15, fill := 16 }],
    e.amax.length = 16 ∧ e.head < 16 ∧ e.fill ≤ 16 ∧ ∀ x ∈ e.amax, x = 0 := by decide +kernel


/-! ### Witnesses: pool cores, work orders, images -/

theorem test_core_start_and_stop :
    owned.coreRun 63 = false ∧ owned.owner 63 ≠ none ∧ running.coreRun 0 = true ∧ State.reset.owner 0 = none ∧
    owned.stopped = false ∧ owned.coreRun 0 = false ∧
    (set owned [(F.POOL_CORE_HALTED, 0, 0, 0)]).flag F.POOL_CORE_HALTED 0 0 = false ∧
    (set owned [(F.POOL_CORE_HALTED, 0, 0, 0)]).coreRun 0 = false ∧
    ((set owned [(F.POOL_CORE_HALTED, 0, 0, 0)]).core 0).dcache = [] ∧ owned.coreRuns 0 = false := by decide +kernel

/-- A running core with its timer's interrupt enabled and due. -/
theorem test_core_interrupt :
    ({ running with pool := [(0, { core := { csr := [(0x300, 8), (0x304, 128)] } })] } : State).coreRuns 0 = true ∧
    (doMtimeCompare 0 { running with pool := [(0, { core := { csr := [(0x300, 8), (0x304, 128)] } })] }).irqDue 0 = some 7 := by
  decide +kernel

/-- The core of pool 0 at address 62, its instruction in two cache lines. -/
def at62 (lo hi : Nat) : State :=
  (((({ mapped running with pool := [(0, { core := { pc := 62, mtimecmp := 1 } })] }.setByte 62 (.ofNat 8 lo)).setByte 63
    (.ofNat 8 (lo / 256))).setByte 64 (.ofNat 8 hi)).setByte 65 (.ofNat 8 (hi / 256)))

theorem poolSt_of_calmTo {s t : State} (h : s.calmTo t) (p : Nat) : t.poolSt p = s.poolSt p := by
  have hp : t.pool = s.pool := h.rest .pool (by decide)
  simp only [State.poolSt, hp]

theorem core_of_calmTo {s t : State} (h : s.calmTo t) (p : Nat) : t.core p = s.core p := by
  simp only [State.core, poolSt_of_calmTo h]

theorem csr_of_calmTo {s t : State} (h : s.calmTo t) (p i : Nat) : t.csr p i = s.csr p i := by
  simp only [State.csr, core_of_calmTo h]

theorem pmpOk_of_calmTo {s t : State} (h : s.calmTo t) (p : Nat) (m : Bool) (va n kind : Nat) :
    t.pmpOk p m va n kind = s.pmpOk p m va n kind := by
  have h1 : ∀ i, t.pmpCfg p i = s.pmpCfg p i := fun i => by simp only [State.pmpCfg, csr_of_calmTo h]
  have h2 : ∀ i, t.pmpRange p i = s.pmpRange p i := fun i => by simp only [State.pmpRange, h1, csr_of_calmTo h]
  have h3 : ∀ k i, t.pmpFrom p m va n kind i k = s.pmpFrom p m va n kind i k := by
    intro k
    induction k with
    | zero => exact fun _ => rfl
    | succ k ih => intro i; simp only [State.pmpFrom, h1, h2, ih]
  exact h3 16 0

theorem withCore_calmTo {s t : State} (h : s.calmTo t) (p : Nat) (f : CoreSt → CoreSt) :
    (s.withCore p f).calmTo (t.withCore p f) := by
  have hp : t.pool = s.pool := h.rest .pool (by decide)
  refine ⟨fun c hc => ?_, h.words, h.tlb, h.queues⟩
  have := h.rest c hc
  cases c <;> first | exact this | exact absurd (by decide) hc | skip
  simp only [State.same, State.withCore, State.setPool, poolSt_of_calmTo h, hp]

/-- A fetch that misses the instruction cache, of a unit that nothing disturbs: its parcel, with the line then held. -/
theorem fetch_calm {s t : State} (ht : s.calmTo t) {p va dpa ch off : Nat} (h1 : s.pmpOk p (s.core p).machine va 2 2 = true)
    (h2 : va < localBase) (h3 : sget none (s.core p).icache (va / 64) = none) (h5 : (s.core p).icache.length < icacheLines)
    (h4 : s.calmAt (s.coreRq p) (64 * (va / 64) / 64 * 64) dpa ch off false) (hu : unitsOf (64 * (va / 64)) 64 = 1) {d : List Byte}
    (hd : slice (s.seen (s.xtsKey (s.coreRq p).part) (physKey ch off) ++ s.seen (s.xtsKey (s.coreRq p).part) (physKey ch off + 32))
      (64 * (va / 64) % 64) 64 = d) :
    ∃ t2, t.fetchParcel {} p va = (t2, .ok (leAt d (va % 64) 2)) ∧
      (s.withCore p fun c => { c with icache := sput none (sput none c.icache (va / 64) none) (va / 64) (some d) }).calmTo t2 := by
  have hb := State.calmTo_trans ht (State.calmTo_bump t)
  have hg : t.pte = s.pte := ht.rest .pte (by decide)
  have hp : t.part = s.part := ht.rest .part (by decide)
  have hq : t.bump.coreRq p = s.coreRq p := by
    have h : t.bump.pte = s.pte := hg
    have e : t.bump.poolEnt p = s.poolEnt p := by simp only [State.poolEnt, h]
    have o : t.bump.owner p = s.owner p := by unfold State.owner; rw [e]
    simp only [State.coreRq, o]
  obtain ⟨u, hr, hc⟩ := reads hu (State.calmAt_of_calmTo hb h4)
  have hseen : slice (t.bump.seen (t.bump.xtsKey (s.coreRq p).part) (physKey ch off)
      ++ t.bump.seen (t.bump.xtsKey (s.coreRq p).part) (physKey ch off + 32)) (64 * (va / 64) % 64) 64 = d := by
    rw [State.xtsKey_of_calmTo hb, State.seen_of_calmTo hb, State.seen_of_calmTo hb]; exact hd
  rw [hseen] at hr
  have hu' := State.calmTo_trans hb hc
  have hlen : (sput none (u.core p).icache (va / 64) none).length < icacheLines := by
    rw [core_of_calmTo hu']
    refine Nat.lt_of_le_of_lt ?_ h5
    simp only [sput, if_true, sdrop]
    exact List.length_filter_le _ _
  have hcore : sget none (t.bump.core p).icache (va / 64) = none := by rw [core_of_calmTo hb]; exact h3
  refine ⟨_, ?_, State.calmTo_trans (withCore_calmTo hu' p _) (withCore_calmTo (State.calmTo_bump u) p _)⟩
  simp only [State.fetchParcel, pmpOk_of_calmTo ht, core_of_calmTo ht, h1, Nat.not_le.mpr h2, hcore, List.any_nil,
    Bool.false_and, ite_self, if_false, Bool.false_eq_true, Bool.not_true, hq, hr, hlen, if_true]
  rfl

/-- `at62` as its first fetch finds it, and with the first line held. -/
def before62 (lo hi : Nat) : State := (doMtimeCompare 0 (at62 lo hi)).withCore 0 fun c => { c with waiting := false }

/-- The line of memory at an address of the first gigabyte. -/
def lineOf62 (lo hi k : Nat) : List Byte := sgetRun 0 (at62 lo hi).mem (64 * k) 64

def after62 (lo hi : Nat) : State := (before62 lo hi).withCore 0 fun c =>
  { c with icache := sput none (sput none c.icache (62 / 64) none) (62 / 64) (some (lineOf62 lo hi 0)) }

theorem parcels62 : leAt (lineOf62 0x0513 0x0015 0) (62 % 64) 2 = 0x0513 ∧ leAt (lineOf62 0x0513 0x0015 1) (64 % 64) 2 = 0x0015 ∧
    leAt (lineOf62 0x0533 0x00B5 0) (62 % 64) 2 = 0x0533 ∧ leAt (lineOf62 0x0533 0x00B5 1) (64 % 64) 2 = 0x00B5 := by
  decide +kernel

theorem fetches62 (lo hi : Nat) (h : (lo, hi) = (0x0513, 0x0015) ∨ (lo, hi) = (0x0533, 0x00B5)) :
    (at62 lo hi).fetches {} 0 (lo + hi * 65536) := by
  obtain ⟨s1, h1, c1⟩ : ∃ s1, (before62 lo hi).fetchParcel {} 0 62 = (s1, .ok (leAt (lineOf62 lo hi 0) (62 % 64) 2)) ∧
      (after62 lo hi).calmTo s1 := by
    rcases h with h | h <;> cases h <;>
      exact fetch_calm (State.calmTo_refl _) (dpa := 0) (ch := 0) (off := 0) (by decide +kernel) (by decide) (by decide +kernel)
        (by decide +kernel) ⟨rfl, by decide +kernel, by decide +kernel, by decide +kernel, by decide +kernel, by decide +kernel⟩
        (by decide) (by decide +kernel)
  obtain ⟨s2, h2, -⟩ : ∃ s2, s1.fetchParcel {} 0 64 = (s2, .ok (leAt (lineOf62 lo hi 1) (64 % 64) 2)) ∧ True := by
    rcases h with h | h <;> cases h <;>
      exact (fetch_calm c1 (dpa := 64) (ch := 0) (off := 64) (by decide +kernel) (by decide) (by decide +kernel)
        (by decide +kernel) ⟨rfl, by decide +kernel, by decide +kernel, by decide +kernel, by decide +kernel, by decide +kernel⟩
        (by decide) (by decide +kernel)).imp fun _ x => ⟨x.1, trivial⟩
  refine ⟨s1, s2, lo, hi, ?_, ?_, ?_, rfl⟩
  · rcases h with h | h <;> cases h <;> exact h1.trans (by simp only [parcels62])
  · rcases h with h | h <;> cases h <;> decide
  · rcases h with h | h <;> cases h <;> exact h2.trans (by simp only [parcels62])

/-- ADDI a0, a0, 1 and ADD a0, a0, a1 are fetched. -/
theorem test_core_fetches_addi : (at62 0x0513 0x0015).fetches {} 0 0x00150513 := fetches62 _ _ (.inl rfl)

theorem test_core_fetches_add : (at62 0x0533 0x00B5).fetches {} 0 0x00B50533 := fetches62 _ _ (.inr rfl)

theorem test_core_runs : ∀ x ∈ [(0x0513, 0x0015), (0x0533, 0x00B5)],
    (at62 x.1 x.2).coreRuns 0 = true ∧ ((at62 x.1 x.2).core 0).waiting = false ∧
    (doMtimeCompare 0 (at62 x.1 x.2)).irqDue 0 = none ∧
    ((x.1 + x.2 * 65536) % 128 = 0x13 ∧ wF3 (x.1 + x.2 * 65536) = 0 ∨
      (x.1 + x.2 * 65536) % 128 = 0x33 ∧ wF3 (x.1 + x.2 * 65536) = 0 ∧ wF7 (x.1 + x.2 * 65536) = 0) := by decide +kernel

theorem test_work_orders :
    ({ running with pool := [(0, { inbox := [workOrder], popped := [workOrder], core := {} })] } : State).coreRuns 0 = true ∧
    (({ running with pool := [(0, { inbox := [workOrder] })] } : State).poolSt 0).inbox = workOrder :: [] ∧
    (({ running with pool := [(0, { popped := [workOrder] })] } : State).poolSt 0).popped = workOrder :: [] ∧
    running.coreRuns 0 = true ∧ (running.poolSt 0).inbox = [] ∧ (running.poolSt 0).popped = [] := by decide +kernel

theorem test_image_loads : owned.pte.running = none ∧
    owned.fld F.TOP_STAGE 0 0 = 7 ∧ (set owned [(F.TOP_STAGE, 0, 0, 6)]).pte.running = none ∧
    (set owned [(F.TOP_STAGE, 0, 0, 6)]).fld F.TOP_STAGE 0 0 ≠ 7 ∧ ({ owned with pte := { owned.pte with running := some true } } : State).pte.running ≠ none ∧
    ({ owned with pte := { owned.pte with running := some true } } : State).stopped = false := by decide +kernel

/-- The eight pool entries and the sixteen basin entries of 64 bytes of an image that assigns nothing. -/
def poolBytes : List Byte := (List.replicate 8 [0xFF, 0xFF, 0, 0, 0, 0, 0, 0]).flatten
def basinBytes : List Byte := (List.replicate 16 [0, 0xFF, 0, 0]).flatten

/-- Everything behind its header, in pieces, each with the check value's register after it. -/
def imageParts : List (List Byte × Nat) :=
  [(poolBytes, 623278171), (poolBytes, 1347047304), (poolBytes, 326906438), (poolBytes, 806793846), (poolBytes,
   28774406), (poolBytes, 1065947947), (poolBytes, 1979256329), (poolBytes, 3861756456), (basinBytes, 2936692578),
   (zeros 64, 1422647396), (zeros 64, 278243325), (zeros 64, 3341197575), (zeros 64, 537898102), (zeros 64,
   2024960565), (zeros 64, 3190028275), (zeros 64, 2918408372), (zeros 64, 1088202042), (zeros 64, 3675807008), (zeros
   64, 2758351005), (zeros 64, 424707103), (zeros 64, 1327188434), (zeros 64, 2730736000), (zeros 64, 1245867649),
   (zeros 64, 1969795338), (zeros 64, 448639235), (zeros 64, 1003695736), (zeros 64, 865713763), (zeros 64,
   3463065586), (zeros 64, 2486222503), (zeros 64, 1119113433), (zeros 64, 2289955237), (zeros 64, 3639397408), (zeros
   64, 3582376300), (zeros 64, 3995225508), (zeros 64, 2646815306), (zeros 64, 2846420921), (zeros 64, 1152008259),
   (zeros 64, 2368993661), (zeros 64, 1474150769), (zeros 64, 678717468), (zeros 64, 2064345258), (zeros 32, 630836158)]

/-- The header of that image: magic, version, length, serial 1, check value and part code. -/
def goodHeader : List Byte :=
  toLe 4 0x54505847 ++ toLe 2 1 ++ zeros 2 ++ toLe 4 2720 ++ toLe 4 1 ++ toLe 4 0xda663441 ++ toLe 2 0x4734 ++ zeros 42

/-- Its entries of pools and basins, then 64 records and the last words, all zero. -/
def goodEntries : List Byte := (List.replicate 8 poolBytes).flatten ++ basinBytes

/-- An image that assigns nothing. -/
def goodImage : List Byte := (goodHeader ++ goodEntries) ++ zeros 2080

def chained (f : Nat → Byte → Nat) : Nat → List (List Byte × Nat) → Bool
  | _, [] => true
  | a, (c, b) :: r => c.foldl f a = b && chained f b r

def chainEnd : Nat → List (List Byte × Nat) → Nat
  | a, [] => a
  | _, (_, b) :: r => chainEnd b r

theorem fold_chained (f : Nat → Byte → Nat) (a : Nat) (l : List (List Byte × Nat)) (h : chained f a l = true) :
    (l.flatMap (·.1)).foldl f a = chainEnd a l := by
  induction l generalizing a with
  | nil => rfl
  | cons x r ih =>
    obtain ⟨c, b⟩ := x
    simp only [chained, Bool.and_eq_true, decide_eq_true_eq] at h
    simp only [List.flatMap_cons, List.foldl_append, h.1, chainEnd]
    exact ih b h.2

theorem getD_append_left (a b : List Byte) (i : Nat) (h : i < a.length) : (a ++ b).getD i 0 = a.getD i 0 := by
  simp [List.getD, List.getElem?_append_left h]

theorem getD_append_right (a b : List Byte) (i : Nat) (h : a.length ≤ i) : (a ++ b).getD i 0 = b.getD (i - a.length) 0 := by
  simp [List.getD, List.getElem?_append_right h]

theorem slice_append_right (a b : List Byte) : ∀ (n o : Nat), a.length ≤ o → slice (a ++ b) o n = slice b (o - a.length) n
  | 0, _, _ => rfl
  | n + 1, o, h => by
    rw [slice, slice, getD_append_right a b o h, slice_append_right a b n (o + 1) (by omega)]
    congr 2; omega

theorem slice_all : ∀ (b : List Byte), slice b 0 b.length = b
  | [] => rfl
  | x :: b => by
    rw [List.length_cons, slice, show (x :: b) = [x] ++ b from rfl, slice_append_right _ _ _ _ (by simp)]
    simp only [List.length_singleton, Nat.zero_add, Nat.sub_self, slice_all b]; rfl

theorem zeros_length (n : Nat) : (zeros n).length = n := List.length_replicate

theorem slice_zeros (m : Nat) : ∀ (n o : Nat), slice (zeros m) o n = zeros n
  | 0, _ => rfl
  | n + 1, o => by
    rw [slice, slice_zeros m n (o + 1)]
    have : (zeros m).getD o 0 = 0 := by simp [zeros, List.getD, List.getElem?_replicate]; split <;> rfl
    rw [this]; rfl

theorem good_parts : goodHeader.length = 64 ∧ goodEntries.length = 576 ∧
    imageParts.flatMap (·.1) = goodEntries ++ zeros 2080 := by decide +kernel

theorem goodImage_length : goodImage.length = 2720 := by
  rw [goodImage, List.length_append, List.length_append, zeros_length, good_parts.1, good_parts.2.1]

theorem goodImage_crc : leAt goodImage 16 4 = crc32 (slice goodImage 64 2656) := by
  have h1 : slice goodImage 64 2656 = goodEntries ++ zeros 2080 := by
    have h : (goodEntries ++ zeros 2080).length = 2656 := by rw [List.length_append, zeros_length, good_parts.2.1]
    rw [goodImage, List.append_assoc, slice_append_right _ _ _ _ (Nat.le_of_eq good_parts.1), good_parts.1, Nat.sub_self, ← h]
    exact slice_all _
  have h2 := fold_chained (crcByte 0xEDB88320) 0xFFFFFFFF imageParts (by decide +kernel)
  rw [h1, crc32, ← good_parts.2.2, h2]; decide +kernel

/-- Everything from offset 640 on reads as zero. -/
theorem good_zero (o n : Nat) (h : 640 ≤ o) : leAt goodImage o n = 0 := by
  rw [leAt, goodImage, slice_append_right _ _ _ _ (by rw [List.length_append, good_parts.1, good_parts.2.1]; exact h), slice_zeros]
  induction n with
  | zero => rfl
  | succ n ih => rw [zeros, List.replicate_succ, leNat]; rw [zeros] at ih; rw [ih]; rfl

/-- The image that assigns nothing, as its fields. -/
def nothing : Image :=
  { serial := 1, pools := List.replicate 64 ⟨0xFF, 0xFF, 0⟩, basins := List.replicate 16 ⟨0, 0xFF⟩
    parts := List.replicate 64 ⟨0, 0, 0, 0, 0, 0, 0, [0, 0, 0, 0]⟩ }

theorem good_rec (n : Nat) : partRecOf goodImage n = ⟨0, 0, 0, 0, 0, 0, 0, [0, 0, 0, 0]⟩ := by
  simp only [partRecOf]
  rw [good_zero _ _ (by omega), good_zero _ _ (by omega), good_zero _ _ (by omega), good_zero _ _ (by omega),
    good_zero _ _ (by omega), good_zero _ _ (by omega), good_zero _ _ (by omega)]
  simp only [upFrom, List.map, PartRec.mk.injEq, List.cons.injEq, and_true, true_and]
  exact ⟨good_zero _ _ (by omega), good_zero _ _ (by omega), good_zero _ _ (by omega), good_zero _ _ (by omega)⟩

theorem goodImage_fields : imageOf goodImage = nothing := by
  have h1 : (upFrom 0 64).map (partRecOf goodImage) = nothing.parts := by
    rw [List.map_congr_left fun n _ => good_rec n]; decide +kernel
  have h2 : leAt goodImage 12 4 = 1 ∧ (upFrom 0 64).map (poolEntOf goodImage) = nothing.pools ∧
      (upFrom 0 16).map (basinEntOf goodImage) = nothing.basins := by decide +kernel
  rw [imageOf, h1, h2.1, h2.2.1, h2.2.2, good_zero _ _ (by omega)]; rfl

def checking (only : Bool) : State := { State.reset with pte := { running := some only } }

theorem goodImage_reserved : reservedItem goodImage nothing = none := by
  have h1 : (zeroAt goodImage 6 2 && zeroAt goodImage 22 42) = true ∧
      (firstItem 0 64 fun i => !zeroAt goodImage (67 + 8 * i) 5 || decide (4 ≤ (nothing.pool i).reserve)) = none ∧
      (firstItem 64 16 fun i => !zeroAt goodImage (578 + 4 * i) 2) = none := by decide +kernel
  have h2 : (firstItem 128 64 fun i =>
      let o := 640 + 32 * i
      decide (2 ≤ (nothing.rec_ i).flags) || !zeroAt goodImage (o + 5) 3 || !zeroAt goodImage (o + 10) 2
        || !zeroAt goodImage (o + 24) 8) = firstItem 128 64 fun i => decide (2 ≤ (nothing.rec_ i).flags) := by
    congr 1; funext i
    simp only [zeroAt]
    rw [good_zero _ _ (by omega), good_zero _ _ (by omega), good_zero _ _ (by omega)]
    simp only [decide_true, Bool.not_true, Bool.or_false]
  rw [reservedItem, h1.2.1, h1.2.2, h2, h1.1, zeroAt, good_zero _ _ (by omega)]
  decide +kernel

theorem goodImage_passes (s : State) (h4 : s.part = .gx4) (h3 : s.busyItem nothing = none) : s.imageFault goodImage = none := by
  have h1 : (leAt goodImage 0 4 = 0x54505847 && leAt goodImage 4 2 = 1 && leAt goodImage 8 4 = 2720) = true := by
    decide +kernel
  have h2 : partItem .gx4 goodImage nothing = none ∧ rangeItem nothing = none ∧ partitionItem nothing = none ∧
      composeItem nothing = none ∧ guestItem nothing = none ∧ claimItem nothing = none ∧ checkbufItem nothing = none ∧
      quotaItem nothing = none := by decide +kernel
  simp [State.imageFault, h1, goodImage_crc, goodImage_fields, goodImage_reserved, h2, h3, h4]

theorem sgetRun_eq (m : List (Nat × Byte)) : ∀ (d : List Byte) (k : Nat), (∀ i, i < d.length → sget 0 m (k + i) = d.getD i 0) →
    sgetRun 0 m k d.length = d
  | [], _, _ => rfl
  | x :: d, k, h => by
    have h0 := h 0 (by simp)
    rw [List.length_cons, sgetRun, sgetRun_eq m d (k + 1) fun i hi => by
      have := h (i + 1) (by simp; omega)
      rw [Nat.add_right_comm, Nat.add_assoc]; simpa using this]
    simpa using h0

/-- Host memory that holds bytes from address 0 on. -/
def hosting (d : List Byte) : Env := { host := sputRun 0 [] 0 d }

theorem hosting_reads (d : List Byte) : hostBytes (hosting d) 0 d.length = d :=
  sgetRun_eq _ d 0 fun i hi => sget_sputRun_in 0 [] 0 i d hi

/-- A load finds the good image, which passes every check; a check finds zeros, which fail the first; a read fails. -/
theorem test_image_checks : (checking false).pte.running = some false ∧ (checking false).stopped = false ∧
    (checking true).stopped = false ∧ (checking false).fld F.PTE_IMAGE_BUS 0 0 = 0 ∧
    State.reset.imageFault (State.reset.readBus {} 0 2720).2.2 = some (2, 0xFF) ∧
    (State.reset.readBus { hostFail := [0] } 0 2720).2.1 = false := by decide +kernel

theorem test_image_read : ∃ s1, (checking false).readBus (hosting goodImage) 0 2720 = (s1, true, goodImage) ∧
    s1.imageFault goodImage = none := by
  refine ⟨(checking false).issueReads 0 2720, ?_, goodImage_passes _ (by decide +kernel) (by decide +kernel)⟩
  have h := hosting_reads goodImage
  rw [goodImage_length] at h
  have h2 : ((upFrom (0 / 64) (unitsOf 0 2720)).all fun u => !decide (u ∈ (hosting goodImage).hostFail)) = true :=
    List.all_eq_true.mpr fun u _ => rfl
  rw [State.readBus, h, h2]

/-! ### Witnesses: device memory, reads of host memory, translations -/

def accPhys (a : Nat) : Acc := { okAcc with addr := a, phys := true }

/-- A full write of partition 2 that waits at a channel, and a read. -/
def fullWrite : MemReq := ⟨0, 3, .tier 0, 2, 0, 0, 0, 0, true, zeros 64, List.replicate 64 true⟩

def waitingRead : MemReq := { fullWrite with write := false, data := [], mask := [] }

/-- Accesses wait at channel 0: partition 3's first, whose tag is behind. -/
def waiting (q : MemReq) : State :=
  { State.reset with memc := { chans := [(0, { queue := [{ q with id := 1, part := 3, off := 64 }, q], tags := [(3, 9)] })] } }

/-- Tier 0 is cut off from the plinth and from its neighbours. -/
def cutOff : State := set State.reset ((upFrom 0 32).map fun l => (F.LNK_LINK_STATE, 0, l, 3))

/-- Partition 0's first gigabyte lies in host memory. -/
def busMapped : State := set { owned with memc := { tlb := [⟨0, 0, 2, 15⟩] } } [(F.MEM_PT_EN, 0, 0, 1)]

theorem test_memory_addresses : 63 < 64 ∧ 0x2FFFFFFFF < 0x300000000 ∧
    dpaRoute State.reset.part 0 = some (0, 0) ∧ dpaRoute .gx4 (farDpa .gx4 127 0x2FFFFFFC0) = some (127, 0x2FFFFFFC0) ∧
    0x2FFFFFFC0 % 64 = 0 ∧ State.reset.stopped = false ∧ (accPhys 64).phys = true ∧
    dpaRoute State.reset.part ((accPhys 64).addr / 64 * 64) = some (0, 64) ∧
    State.reset.cut (accPhys 64).die (chanDie 0) = false ∧ (State.reset.chan 0).queue = [] ∧
    dpaRoute State.reset.part ((accPhys 0xFFFFFFFFFFC0).addr / 64 * 64) = none ∧ cutOff.stopped = false ∧
    dpaRoute cutOff.part (farDpa .gx4 127 0 / 64 * 64) = some (127, 0) ∧
    cutOff.cut (accPhys (farDpa .gx4 127 0)).die (chanDie 127) = true := by decide +kernel

/-- Where a translation leads, or its answer. -/
def targetOf (x : State × Except Resp Target) : Option Target × Option Resp := match x.2 with
  | .ok t => (some t, none)
  | .error r => (none, some r)

theorem target_ok {x : State × Except Resp Target} {t : Target} (h : targetOf x = (some t, none)) : x = (x.1, .ok t) := by
  obtain ⟨s, e⟩ := x
  cases e with
  | ok u => simpa [targetOf] using h
  | error r => simp [targetOf] at h

theorem target_error {x : State × Except Resp Target} {r : Resp} (h : targetOf x = (none, some r)) : x = (x.1, .error r) := by
  obtain ⟨s, e⟩ := x
  cases e with
  | ok u => simp [targetOf] at h
  | error r => simpa [targetOf] using h

/-- An access before its partition has tables, one that a translation leads to device memory, and one of the host bus. -/
theorem test_memory_virtual : okAcc.phys = false ∧ targetOf (State.reset.accTranslate {} okAcc) = (none, some .xlate) ∧
    (mapped owned).stopped = false ∧ targetOf ((mapped owned).accTranslate {} { okAcc with part := 0 }) = (some (.dev 64), none) ∧
    dpaRoute (mapped owned).part 64 = some (0, 64) ∧
    ((mapped owned).accTranslate {} { okAcc with part := 0 }).1.cut okAcc.die (chanDie 0) = false ∧
    busMapped.stopped = false ∧ targetOf (busMapped.accTranslate {} { okAcc with part := 0 }) = (some (.bus 64), none) ∧
    okAcc.cls = 2 ∧ (busMapped.accTranslate {} { okAcc with part := 0 }).1.cut okAcc.die .plinth = false ∧
    targetOf (busMapped.accTranslate {} { okAcc with part := 0, cls := 0 }) = (some (.bus 64), none) := by
  decide +kernel

/-- The DMA engine has a path to PCIe, and another class has none where the configuration gives it none. -/
theorem test_memory_paths : pciePath 2 = true ∧ (Config.pciePath 0 = false → pciePath 0 = false) :=
  ⟨rfl, fun h => by simp [pciePath, h]⟩

theorem test_memory_grant : ∀ q ∈ [fullWrite, waitingRead],
    (waiting q).stopped = false ∧ ((waiting q).chan 0).next = some q ∧
    (q.write = true → q.mask = List.replicate 64 true ∧ q.data.length = 64) ∧ q.part = 2 ∧
    3 ∈ (readyReqs [] ((waiting q).chan 0).queue).map (·.part) ∧
    ((waiting q).codeword (physKey 0 q.off / 32)).errs = [] ∧ ((waiting q).codeword ((physKey 0 q.off + 32) / 32)).errs = [] ∧
    readyReqs [] ((waiting q).chan 0).queue ≠ [] ∧ (waiting q).patrolLate 0 = false := by decide +kernel

/-- Two writes to one codeword: the later is not ready before the earlier has been granted. -/
theorem test_memory_order : readyReqs [] [{ fullWrite with part := 3 }, fullWrite] = [{ fullWrite with part := 3 }] := by
  decide +kernel

theorem test_channels : State.reset.flag F.MEM_PATROL_DISABLE 0 0 = false ∧ (State.reset.chan 127).selfRefresh = false ∧
    (State.reset.chan 127).queue = [] ∧ readyReqs [] (State.reset.chan 127).queue = [] ∧ (State.reset.chan 127).next = none ∧
    (State.reset.chan 127).powerDown = false ∧
    (State.reset.codeword (physKey 127 (32 * (State.reset.chan 127).patrol) / 32)).errs = [] ∧
    (({ State.reset with memc := { chans := [(127, { selfRefresh := true })] } } : State).chan 127).selfRefresh = true := by
  decide +kernel

theorem test_host_reads :
    ({ State.reset with memc := { hostOut := [fullWrite] } } : State).memc.hostOut.find? (fun q => q.id = 0) = some fullWrite ∧
    State.reset.memc.hostOut.find? (fun q => q.id = 0) = none := by decide +kernel

/-- An invalidation that a read over PCIe holds up, and one that nothing does. -/
def invalidating (out : List MemReq) : State :=
  { mapped owned with memc := { (mapped owned).memc with inval := some (0, 0, 0), hostOut := out } }

theorem test_invalidation : bit 0x10000 16 = true ∧ State.reset.flag F.MEM_TLB_BUSY 0 0 = false ∧
    (set State.reset [(F.MEM_TLB_BUSY, 0, 0, 1)]).flag F.MEM_TLB_BUSY 0 0 = true ∧
    (invalidating []).memc.inval = some (0, 0, 0) ∧ (invalidating []).invalWaits (0, 0, 0) = false ∧
    (invalidating [{ fullWrite with part := 0, via := 30 }]).invalWaits (0, 0, 0) = true ∧
    covers (0, 0, 0) 0 ((0 : Nat) <<< pageBits 2) (pageBits 2) = true ∧
    covers (1, 1, 0) 0 ((0 : Nat) <<< pageBits 2) (pageBits 2) = false := by decide +kernel

/-! ### Witnesses: updates and the mirror stream -/

/-- Group 0 of partition 0, of `n` ranks, holds one bucket of tag 0. -/
def withBucket (n : Nat) (b : OwnBkt) : State :=
  { mapped owned with cas := { groups := [(0, some { hdr := { n := n }, own := [(0, b)] })] } }

/-- A bucket of no elements, its record at address 0, whose step is `k` of the record's last. -/
def gated : OwnBkt := { st := 3 }

/-- A record of one element, without moments, last updated at epoch 0. -/
def updRecord : List Byte := bytesOf 192 [(4, 4, 1), (16, 4, 1), (20, 4, 1)]

def updatable (epoch : Nat) : State :=
  (((withBucket 2 { gated with elems := 1, epoch := epoch }).setByte 4 1).setByte 16 1).setByte 20 1

/-- The units of the record at address 0. -/
def recordUnits : List (Nat × Nat × Nat) := [(0, 0, 0), (64, 0, 64), (128, 0, 128)]

theorem calm_record (s : State) (h : s = withBucket 2 gated ∨ s = updatable 0 ∨ s = updatable 1 ∨ s = updatable 2) :
    ∀ x ∈ recordUnits.zipIdx, s.calmAt (casRq 0 0) (0 / 64 * 64 + 64 * x.2) x.1.1 x.1.2.1 x.1.2.2 false := by
  intro x hx
  have hx' : x = ((0, 0, 0), 0) ∨ x = ((64, 0, 64), 1) ∨ x = ((128, 0, 128), 2) := by
    simpa [recordUnits, List.zipIdx] using hx
  rcases h with rfl | rfl | rfl | rfl <;> rcases hx' with rfl | rfl | rfl <;>
    exact ⟨rfl, by decide +kernel, by decide +kernel, by decide +kernel, by decide +kernel, by decide +kernel⟩

theorem record_read (s : State) (h : s = withBucket 2 gated ∨ s = updatable 0 ∨ s = updatable 1 ∨ s = updatable 2) :
    (s.readVa {} (casRq 0 0) 0 192).2 = (.okay, slice (recordUnits.flatMap fun x => s.seen 0 (physKey x.2.1 x.2.2)
      ++ s.seen 0 (physKey x.2.1 x.2.2 + 32)) 0 192) := by
  have hk : s.xtsKey (casRq 0 0).part = 0 := by rcases h with rfl | rfl | rfl | rfl <;> decide +kernel
  rw [(s.readVa_units_calm {} (casRq 0 0) 0 192 recordUnits rfl (by decide) (calm_record s h)).2, hk]

theorem record_bytes (e : Nat) (h : e = 0 ∨ e = 1 ∨ e = 2) :
    ((updatable e).readVa {} (casRq 0 0) 0 192).2 = (.okay, updRecord) := by
  rcases h with rfl | rfl | rfl
  · rw [record_read _ (.inr (.inl rfl))]; decide +kernel
  · rw [record_read _ (.inr (.inr (.inl rfl)))]; decide +kernel
  · rw [record_read _ (.inr (.inr (.inr rfl)))]; decide +kernel

/-- Updates of an epoch already applied, of the next, and of one out of sequence. -/
theorem test_update_record : (updOf updRecord).rejected 1 = false ∧ (updOf updRecord).nfSkip = false ∧
    (∀ e ∈ [0, 1, 2], ((updatable e).own 0 0 0).elems = 1 ∧ ((updatable e).own 0 0 0).epoch = e ∧
      ((updatable e).own 0 0 0).recVa = 0 ∧ (updatable e).nextUpdate 0 = some (0, 0, 0) ∧ (updatable e).stopped = false ∧
      (updatable e).updating 0 < 4 ∧ signed 16 (e + 65536 - (updOf updRecord).lastEpoch) = e ∧
      (updatable e).aqd.notes = [] ∧ (updatable e).flag F.UPD_MIR_ENABLE ((updatable e).drive 0) 0 = false) := by
  decide +kernel

/-- A record that is rejected, one that cannot be read, and an engine that is full. -/
theorem test_update_starts :
    (withBucket 2 gated).stopped = false ∧ (withBucket 2 gated).updating 0 < 4 ∧
    (withBucket 2 gated).nextUpdate 0 = some (0, 0, 0) ∧ (updOf (zeros 192)).rejected 0 = true ∧
    (withBucket 2 { gated with recVa := 2 ^ 47 }).nextUpdate 0 = some (0, 0, 0) ∧
    4 ≤ ({ owned with cas := { groups := [(0, some { own := [(0, { st := 4 }), (1, { st := 4 }), (2, { st := 4 }),
      (3, { st := 4 })] })] } } : State).updating 0 := by decide +kernel

theorem test_update_zeros : ((withBucket 2 gated).readVa {} (casRq 0 0) 0 192).2 = (.okay, zeros 192) := by
  rw [record_read _ (.inl rfl)]; decide +kernel

/-- An address whose table entry does not exist. -/
theorem test_update_unreadable :
    (State.readVa (set (withBucket 2 gated) [(F.MEM_PT_EN, 0, 0, 0)]) {} (casRq 0 0) 0 192).2.1 ≠ .okay ∧
    (set (withBucket 2 gated) [(F.MEM_PT_EN, 0, 0, 0)]).nextUpdate 0 = some (0, 0, 0) := by decide +kernel

/-- A bucket whose update ends having done nothing. -/
def ending : State := withBucket 2 { st := 4, plan := 1 }

theorem test_update_ends :
    ending.stopped = false ∧ (ending.own 0 0 0).st = 4 ∧ (ending.own 0 0 0).plan = 1 ∧
    (ending.mirror (ending.drive 0)).copy = none ∧ ending.grpState 0 0 ≠ 3 ∧ ending.cas.waiting = [] ∧
    (ending.grp 0 0).map (·.hdr.n) = some 2 ∧ (set ending [(F.CAS_GRP_STATE, 1, 0, 3)]).grpState 0 0 = 3 := by decide +kernel

/-- A mirror stream armed, with a copy under way. -/
def copying : State :=
  set { owned with cas := { mirrors := [(1, { copy := some (0, 1, 0) })] } } [(F.UPD_MIR_ENABLE, 1, 0, 1)]

theorem test_mirror_arms : owned.fnOpen 1 = true ∧ bit 1 0 = true ∧ owned.flag F.UPD_MIR_ENABLE 1 0 = false ∧
    copying.fnOpen 1 = true ∧ bit 0 0 = false ∧ copying.flag F.UPD_MIR_ENABLE 1 0 = true ∧
    (copying.mirror 1).copy.isSome = true := by decide +kernel

/-! ### Witnesses: the Cascade -/

/-- Partition 0, its group 0 armed, with a bucket descriptor at address 0: owner 1, two elements, its images far off. -/
def armed0 : State :=
  set ((((mapped owned).setByte 2 1).setByte 4 2).setByte 33 1) [(F.CAS_GRP_STATE, 1, 0, 1)]

/-- A group of two ranks, of which this module is rank 1. -/
def group2 : CasGroup :=
  { hdr := { key := 5, self_ := 1, n := 2, nb := 1, lateUs := 1, slotLen := 10, ranks := [⟨0, 0, 1, 0⟩, ⟨0, 1, 0, 0⟩] } }

def withGroup (x : CasGroup) : State := { armed0 with cas := { groups := [(0, some x)] } }

/-- The group hears a message. -/
def told (x : CasGroup) (m : Cmh) : State := { withGroup x with aqd := { toCascade := [(0, 0, m.bytes)] } }

def told0 (x : CasGroup) : State := { withGroup x with aqd := {} }

def desc : Bd := bdOf (bytesOf 64 [(2, 1, 1), (4, 4, 2), (33, 1, 1)])

/-- A message of a type from rank 0 in epoch 7. -/
def say (type : Nat) : Cmh := { type := type, key := 5, tag := 0, epoch := 7, src := 0, dst := 1 }

/-- A whole contribution, a whole gather and a whole re-gather. -/
def contribution : Cmh := { say 1 with count := 2, payload := [0x80, 0x3F, 0, 0x40] }
def gathered (type : Nat) : Cmh := { say type with count := 2, last := true, payload := [0x80, 0x3F, 0, 0x40] }

/-- Everything but the descriptor's read that a message is checked for. -/
def hearsB (s : State) (type : Nat) (x : CasGroup) (m : Cmh) (s0 : State) : Prop :=
  s.stopped = false ∧ s.takeMsg type = some (0, 0, m, s0) ∧ s0.groupOfKey 0 m.key = some (0, x) ∧
    m.dst = x.hdr.self_ ∧ m.src < x.hdr.n ∧ (x.hdr.ranks.getD m.src ⟨0, 0, 0, 0⟩).flow ≤ 0 ∧
    0 < (x.hdr.ranks.getD m.src ⟨0, 0, 0, 0⟩).flow + (x.hdr.ranks.getD m.src ⟨0, 0, 0, 0⟩).lanes ∧ m.rsvd = false ∧
    m.tag < x.hdr.nb ∧ m.fragOk x.hdr desc.count = true ∧ (type = 1 ∨ type = 6 ∨ type = 7 ∨ type = 9 → desc.owner = x.hdr.self_) ∧
    m.tag = 0 ∧ x.hdr.bucketsVa = 0

/-- A partition without Cistern quota. -/
def poor (s : State) : State :=
  { s with pte := { s.pte with image := { s.pte.image with parts := [⟨1, 1, 1, 1, 1, 16, 16, [0, 0, 0, 0]⟩] } } }

/-- Two states that a read of the bucket descriptor does not tell apart. -/
structure like (b s : State) : Prop where
  part : s.part = b.part
  pte : s.pte = b.pte
  regs : s.regs = b.regs
  words : s.memc.words = b.memc.words
  tlb : s.memc.tlb = b.memc.tlb
  queues : ∀ ch, (b.chan ch).queue = [] → (s.chan ch).queue = []
  mem : s.mem = b.mem
  sec : s.sec = b.sec

theorem like_calmTo {b s t : State} (h : like b s) (hc : s.calmTo t) : like b t :=
  ⟨(hc.rest .part (by decide)).trans h.part, (hc.rest .pte (by decide)).trans h.pte, (hc.rest .regs (by decide)).trans h.regs,
    hc.words.trans h.words, hc.tlb.trans h.tlb, fun ch hq => hc.queues ch (h.queues ch hq),
    (hc.rest .mem (by decide)).trans h.mem, (hc.rest .sec (by decide)).trans h.sec⟩

theorem calm_armed (b : State) (h : b = armed0 ∨ b = poor armed0) : b.calmAt (casRq 0 0) 0 0 0 0 false := by
  rcases h with rfl | rfl <;>
    exact ⟨rfl, by decide +kernel, by decide +kernel, by decide +kernel, by decide +kernel, by decide +kernel⟩

theorem desc_bytes (b : State) (h : b = armed0 ∨ b = poor armed0) :
    bdOf (slice (b.seen (b.xtsKey (casRq 0 0).part) (physKey 0 0) ++ b.seen (b.xtsKey (casRq 0 0).part) (physKey 0 0 + 32)) (0 % 64) 64)
      = desc := by rcases h with rfl | rfl <;> decide +kernel

theorem bd_like {b s : State} (hb : b = armed0 ∨ b = poor armed0) (h : like b s) {hd : GroupHdr} (hv : hd.bucketsVa = 0) :
    ∃ s1, s.bd {} 0 0 hd 0 = (s1, some desc) ∧ s.calmTo s1 := by
  have hs : s.calmAt (casRq 0 0) 0 0 0 0 false :=
    State.calmAt_of_same h.part h.pte h.regs h.words h.tlb h.queues (calm_armed b hb)
  obtain ⟨s1, hr, hc⟩ := reads (va := 0) (len := 64) (by decide) hs
  refine ⟨s1, ?_, hc⟩
  have hk : ∀ q k, s.seen q k = b.seen q k := fun q k => by simp only [State.seen, h.sec, h.mem]
  have hx : ∀ n, s.xtsKey n = b.xtsKey n := fun n => by simp only [State.xtsKey, h.sec]
  simp only [hk, hx] at hr
  simp only [State.bd, hv, hr, desc_bytes b hb]

theorem hears_of {b s : State} {type : Nat} {x : CasGroup} {m : Cmh} {s0 : State} (hb : b = armed0 ∨ b = poor armed0)
    (hl : like b s0) (h : hearsB s type x m s0) : ∃ s1, s.hears {} type 0 0 x desc m s1 ∧ s0.calmTo s1 := by
  obtain ⟨h1, h2, h3, h4, h5, h6, h7, h8, h9, h10, h11, h12, h13⟩ := h
  obtain ⟨s1, hr, hc⟩ := bd_like hb hl h13
  exact ⟨s1, ⟨h1, 0, s0, h2, h3, h4, h5, h6, h7, h8, h9, by rw [h12]; exact hr, h10, h11⟩, hc⟩

theorem like_with (b : State) (c : CasSt) (q : AqdSt) : like b { b with cas := c, aqd := q } :=
  ⟨rfl, rfl, rfl, rfl, rfl, fun _ h => h, rfl, rfl⟩

theorem like_told0 (x : CasGroup) : like armed0 (told0 x) := by
  generalize hb : armed0 = b
  simp only [told0, withGroup, hb]
  exact like_with b _ _

theorem like_poor (x : CasGroup) : like (poor armed0) (poor (told0 x)) := by
  generalize hb : armed0 = b
  simp only [told0, withGroup, poor, hb]
  exact like_with (poor b) _ _

/-- A pending contribute post, of zeros, and one that a re-gather of its epoch holds. -/
def posted : CasGroup := { group2 with rank := [(0, { post := some ⟨workOrder.ticket, 7, true, false⟩ })] }

def postHeld : CasGroup :=
  { group2 with rank := [(0, { post := some ⟨workOrder.ticket, 7, true, false⟩, rposts := [(workOrder.ticket, 7)] })] }

/-- Every message that follows is heard. -/
def speeches : List (Nat × CasGroup × Cmh) :=
  [(1, { group2 with own := [(0, { retired := some 7 })] }, contribution), (1, group2, contribution),
   (1, { group2 with own := [(0, { st := 2, epoch := 6 })] }, contribution), (2, group2, say 2),
   (3, posted, say 3), (4, posted, say 4), (3, postHeld, say 3), (4, postHeld, say 4),
   (5, group2, gathered 5), (6, { group2 with own := [(0, { st := 5, gEpoch := 7, awaiting := [0, 3] })] }, say 6),
   (6, { group2 with own := [(0, { st := 5, gEpoch := 7, awaiting := [0] })] }, say 6),
   (7, { group2 with own := [(0, { st := 4 })] }, say 7), (8, group2, gathered 8),
   (9, { group2 with own := [(0, { debt := [(0, 7)] })] }, say 9)]

theorem test_messages_heard : ∀ e ∈ speeches,
    ∃ s1, (told e.2.1 e.2.2).hears {} e.1 0 0 e.2.1 desc e.2.2 s1 ∧ (told0 e.2.1).calmTo s1 := by
  have h : ∀ e ∈ speeches, hearsB (told e.2.1 e.2.2) e.1 e.2.1 e.2.2 (told0 e.2.1) := by
    unfold hearsB; decide +kernel
  exact fun e he => hears_of (.inl rfl) (like_told0 _) (h e he)

theorem cistern_of_calmTo {s t : State} (h : s.calmTo t) (part tier : Nat) :
    t.cisQuota part tier = s.cisQuota part tier ∧ t.cisUsed part tier = s.cisUsed part tier := by
  have h1 : t.pte = s.pte := h.rest .pte (by decide)
  have h2 : t.cas = s.cas := h.rest .cas (by decide)
  exact ⟨by simp only [State.cisQuota, State.partRec, h1], by simp only [State.cisUsed, h2]⟩

/-- A partition without Cistern quota hears a contribution too; one with room for it has room after the descriptor's read. -/
theorem test_contribution_space :
    (∃ s1, (poor (told group2 contribution)).hears {} 1 0 0 group2 desc contribution s1 ∧
      s1.cisQuota 0 desc.tier < s1.cisUsed 0 desc.tier + cisUnits desc.count) ∧
    ∃ s1, (told group2 contribution).hears {} 1 0 0 group2 desc contribution s1 ∧
      s1.cisUsed 0 desc.tier + cisUnits desc.count ≤ s1.cisQuota 0 desc.tier := by
  have h0 : hearsB (poor (told group2 contribution)) 1 group2 contribution (poor (told0 group2)) := by unfold hearsB; decide +kernel
  have h1 : hearsB (told group2 contribution) 1 group2 contribution (told0 group2) := by unfold hearsB; decide +kernel
  obtain ⟨s1, a, c⟩ := hears_of (.inr rfl) (like_poor _) h0
  obtain ⟨s2, a', c'⟩ := hears_of (.inl rfl) (like_told0 _) h1
  refine ⟨⟨s1, a, ?_⟩, s2, a', ?_⟩
  · rw [(cistern_of_calmTo c _ _).1, (cistern_of_calmTo c _ _).2]; decide +kernel
  · rw [(cistern_of_calmTo c' _ _).1, (cistern_of_calmTo c' _ _).2]; decide +kernel

/-- The cases of a contribution and of an acknowledgement. -/
theorem test_contribution_cases :
    afterOpt 7 (some 7) = false ∧ afterOpt 7 none = true ∧
    contribution.zero = false ∧ group2.hdr.frags desc.count = 1 ∧ 2 ≤ group2.hdr.n ∧ contribution.epoch ≠ 6 ∧
    epochAfter contribution.epoch 6 = true ∧ epochAfter 0 0xFFFF = true ∧ epochAfter 0x8000 0 = false ∧
    (contribution.src, contribution.epoch) ∉ ({ st := 2, epoch := 6 } : OwnBkt).later ∧
    [0, 3].filter (fun r => r ≠ (say 6).src) ≠ [] ∧ [0].filter (fun r => r ≠ (say 6).src) = [] ∧
    (group2.rankOf 0).post = none ∧ ((say 9).src, (say 9).epoch) ∈ [(0, 7)] ∧
    (posted.rankOf 0).holds = false ∧ (postHeld.rankOf 0).holds = true := by decide +kernel

/-- What CALL and REPLAY suppose beside the post: the descriptor is read again. -/
theorem test_call : ∀ type ∈ [3, 4], (∀ i, ((told posted (say type)).ctx i).state ≠ 2) ∧ (told posted (say type)).aqd.notes = [] ∧
    ∃ s1 s2, (told posted (say type)).hears {} type 0 0 posted desc (say type) s1 ∧
      (s1.casDrop 0 0 (isContribOf (say type).tag 7)).bd {} 0 0 posted.hdr (say type).tag = (s2, some desc) := by
  intro type ht
  have h : hearsB (told posted (say type)) type posted (say type) (told0 posted) := by
    revert type; unfold hearsB; decide +kernel
  obtain ⟨s1, a, c⟩ := hears_of (.inl rfl) (like_told0 _) h
  have hq : s1.aqd = (told0 posted).aqd := c.rest .aqd (by decide)
  have hg : s1.grp 0 0 = some posted := by
    have h2 : s1.cas = (told0 posted).cas := c.rest .cas (by decide)
    simp only [State.grp, h2]; decide +kernel
  have hl : like armed0 (s1.casDrop 0 0 (isContribOf 0 7)) := by
    have hl := like_calmTo (like_told0 posted) c
    have e : s1.casDrop 0 0 (isContribOf 0 7) = s1.setGrp 0 0 (some { posted with
        out := posted.out.filter fun w => !isContribOf 0 7 (cmhOf w.bytes) }) := by
      simp only [State.casDrop, hg, State.casTake]
      have : ∀ y, (s1.setGrp 0 0 y).aqd.ctxs = [] := fun y => by
        show s1.aqd.ctxs = []
        rw [hq]; rfl
      rw [this]; rfl
    rw [e]
    exact ⟨hl.part, hl.pte, hl.regs, hl.words, hl.tlb, hl.queues, hl.mem, hl.sec⟩
  obtain ⟨s2, b, -⟩ := bd_like (hd := posted.hdr) (.inl rfl) hl rfl
  refine ⟨fun i => ?_, rfl, s1, s2, a, ?_⟩
  · rw [show (told posted (say type)).ctx i = {} from rfl]; decide
  · rw [show (say type).tag = 0 from rfl]; exact b

theorem test_message_without_group : ∀ type ∈ [1, 2, 3, 4, 5, 6, 7, 8, 9],
    (told { group2 with hdr := { group2.hdr with key := 6 } } (say type)).stopped = false ∧
    (told { group2 with hdr := { group2.hdr with key := 6 } } (say type)).takeMsg type
      = some (0, 0, say type, told0 { group2 with hdr := { group2.hdr with key := 6 } }) ∧
    (told0 { group2 with hdr := { group2.hdr with key := 6 } }).groupOfKey 0 (say type).key = none := by decide +kernel

/-- A group whose rank entry 0 is read for a remap. -/
theorem test_remap : ∃ s1 d, State.readVa ((withGroup group2).setFld F.CAS_GRP_RANK 1 0 (bits 0x10000 15 8)) {} (casRq 0 0)
    ((withGroup group2).fld F.CAS_GRP_VA 1 0 * 64 + 64 + 16 * bits 0x10000 15 8) 16 = (s1, .okay, d) := by
  obtain ⟨s1, h, -⟩ := reads (s := (withGroup group2).setFld F.CAS_GRP_RANK 1 0 0) (rq := casRq 0 0) (va := 64) (len := 16)
    (dpa := 64) (ch := 0) (off := 64) (by decide)
    ⟨rfl, by decide +kernel, by decide +kernel, by decide +kernel, by decide +kernel, by decide +kernel⟩
  exact ⟨s1, _, h⟩

/-- Arms that wait for their descriptors, of a group that was idle and of one that was not. -/
def arming (idle : Bool) : State := { owned with cas := { arming := [(gkey 0 0, idle)] } }

theorem test_group_commands :
    owned.fnOpen 1 = true ∧ owned.fld F.CAS_GRP_STATE 1 15 = 0 ∧
    (∀ i ∈ [true, false], (arming i).cas.arming.find? (fun e => e.1 = gkey (1 - 1) 0) = some (gkey 0 0, i) ∧
      (arming i).stopped = false) ∧
    (withGroup group2).fld F.CAS_GRP_STATE 1 0 ≠ 0 ∧
    (withGroup group2).fnOpen 1 = true ∧ (withGroup group2).armed 0 0 = some group2 ∧ group2.rank = [] ∧ group2.own = [] ∧
    bits 0x10000 15 8 ≠ group2.hdr.self_ ∧ bits 0x10000 15 8 < group2.hdr.n ∧ bits 0x10100 15 8 = group2.hdr.self_ ∧
    group2.hdr.n ≤ bits 0x10200 15 8 ∧
    (group2.own.all fun e => e.2.st ≠ 4) = true ∧ (withGroup group2).cas.waiting = [] ∧
    (withGroup { group2 with own := [(0, { st := 4 })] }).armed 0 0 = some { group2 with own := [(0, { st := 4 })] } ∧
    (({ group2 with own := [(0, { st := 4 })] } : CasGroup).own.any fun e => e.2.st = 4) = true := by decide +kernel

/-- Adders without error, and the keys of the contexts in order. -/
theorem test_fold_supposes : ({} : Env).adder = [] ∧ srising (told group2 (say 2)).aqd.ctxs = true := by decide +kernel

/-- Rank 1's own ZERO contribution, in turn. -/
def inTurn : CasGroup :=
  { group2 with own := [(0, { st := 2, epoch := 7, folded := 1 })]
                rank := [(0, { post := some ⟨workOrder.ticket, 7, true, false⟩ })] }

theorem test_own_turn : (withGroup inTurn).stopped = false ∧ (withGroup inTurn).armed 0 0 = some inTurn ∧
    (inTurn.rankOf 0).holds = false ∧ (inTurn.ownOf 0).st = 2 ∧ (inTurn.ownOf 0).folded = inTurn.hdr.self_ ∧
    (inTurn.rankOf 0).post = some ⟨workOrder.ticket, 7, true, false⟩ ∧ (inTurn.ownOf 0).epoch = 7 := by decide +kernel

/-- A bucket that has collected since time 0, at 1001 ns; and a slot due then. -/
def collecting (late : Bool) : CasGroup :=
  { group2 with own := [(0, { st := 2, since := some 0, late := late, folded := 1 })] }

def at1001 (s : State) (sev : List (Nat × SevEnt)) : State := { s with clp := { s.clp with time := 1001 * 2 ^ 48, sev := sev } }

theorem test_time_limits :
    (at1001 (withGroup (collecting false)) []).stopped = false ∧
    (at1001 (withGroup (collecting false)) []).armed 0 0 = some (collecting false) ∧
    ((collecting false).ownOf 0).since = some 0 ∧ ((collecting false).ownOf 0).st = 2 ∧
    (collecting false).hdr.lateUs ≠ 0 ∧
    0 + 1000 * (collecting false).hdr.lateUs < (at1001 (withGroup (collecting false)) []).ns ∧
    ((collecting false).ownOf 0).folded < (collecting false).hdr.n ∧
    (withGroup (collecting true)).armed 0 0 = some (collecting true) ∧ ((collecting true).ownOf 0).late = true ∧
    (sget {} (at1001 (withGroup group2) [(0, { kind := 4, time := 1001 })]).clp.sev 0).kind = 4 ∧
    (at1001 (withGroup group2) [(0, { kind := 4, time := 1001 })]).sevDue 0 = true ∧
    (at1001 (withGroup group2) [(0, { kind := 4, time := 1001 })]).grp 0 0 = some group2 := by decide +kernel

/-! ### Witnesses: Aqueduct -/

/-- Partition 0 with an open flow, the region table enabled and region 0 in use for reads and writes. -/
def flowing (c : FlowCtx) : State :=
  set { mapped owned with aqd := { ctxs := [(0, { c with state := 2 })]
                                   regions := [(0, { state := 1, perm := 3, len := 4096 })], fresh := 1 } }
    [(F.AQD_RGN_EN, 0, 0, 1), (F.AQD_RGN_SLOTS, 0, 0, 2)]

def pkt (op : Nat) : Pkt :=
  ⟨false, 0, 0, 0, 0, false, 0, 0, 64, 0, 0, true, 0, 64, 1, op, 0, 0, 0, 0, 0, 0, 0, 0, 0, 0, 0, 0, []⟩

def item (p : Pkt) : RxItem := ⟨0, { okFrame with body := .aqd p }, none⟩

/-- A packet has arrived for the flow. -/
def arrived (c : FlowCtx) (p : Pkt) : State := { flowing c with mac := { rx := [item p] } }

def opIs (op : Nat) (x : RxItem) : Bool := match x.frame.body with
  | .aqd p => p.op = op
  | _ => false

/-- A read of 64 bytes that awaits its responses. -/
def readOp : AqdOp := { id := 0, kind := 1, final := false, len := 64, lva := 0, rva := 0, rkey := 0, src := .ring workOrder.ticket }

/-- Every packet that follows passes the first step. -/
def packets : List (FlowCtx × Pkt) :=
  [({}, pkt 1), ({}, { pkt 1 with rkey := 256 }), ({}, { pkt 1 with flags := 1, psn := 255 }), ({}, pkt 2),
   ({}, { pkt 2 with rkey := 1 }), ({}, pkt 3), ({ ops := [readOp] }, pkt 3),
   ({ sndUna := 1 }, pkt 4), ({}, pkt 5), ({}, pkt 6), ({}, pkt 7), ({ probes := [(0, true)] }, pkt 8), ({}, pkt 9),
   ({ rcvNxt := 1 }, pkt 9)]

theorem test_packets_pass : ∀ e ∈ packets, (arrived e.1 e.2).gets e.2.op (item e.2) e.2 (flowing e.1) := by
  have h : ∀ e ∈ packets, (arrived e.1 e.2).stopped = false ∧
      (arrived e.1 e.2).takeRx (opIs e.2.op) = some (item e.2, flowing e.1) ∧
      flowing e.1 = (flowing e.1).freeIngress (item e.2).lp (item e.2).slot ∧ (flowing e.1).fromPeer e.2 = true := by
    decide +kernel
  exact fun e he => ⟨(h e he).1, flowing e.1, (h e he).2.1, rfl, (h e he).2.2.1, (h e he).2.2.2⟩

theorem test_packets_new : (∀ e ∈ packets.take 6, 0 ≤ psnDiff e.2.psn ((flowing e.1).ctx 0).rcvNxt ∧
      psnDiff e.2.psn ((flowing e.1).ctx 0).rcvNxt < 256 ∧
      bit ((flowing e.1).ctx 0).rcvMap (psnDiff e.2.psn ((flowing e.1).ctx 0).rcvNxt).toNat = false ∧
      1 ≤ (flowing e.1).trackerFree) ∧
    psnDiff (pkt 9).psn ((flowing { rcvNxt := 1 }).ctx 0).rcvNxt < 0 ∧ psnDiff 0 0xFFFFFFFF = 1 ∧
    (flowing {}).keyCheck { pkt 1 with rkey := 256 } 0 0 = .error 1 ∧ (flowing {}).keyCheck (pkt 1) 0 0 = .ok 0 ∧
    ((flowing {}).ctx 0).earlierSettled 255 = false ∧ (flowing {}).keyCheck { pkt 2 with rkey := 1 } 0 1 = .error 1 ∧
    (flowing {}).keyCheck (pkt 2) 0 1 = .ok 0 ∧ (flowing {}).keyCheck { pkt 1 with va := 4096 } 1 0 = .error 2 := by
  refine ⟨by decide +kernel, by decide +kernel, by decide +kernel, ?_, ?_, by decide +kernel, ?_, ?_, ?_⟩
  all_goals rfl

theorem test_packets_settle :
    psnDiff (pkt 9).psn ((flowing {}).ctx 0).rcvNxt = 0 ∧ ((flowing {}).ctx 0).rcvMap = 0 ∧
    cmhSound (say 1).bytes = true ∧
    ((flowing {}).ctx 0).ops.find? (fun o => o.id = (pkt 3).reqid && o.kind = 1 && !o.ended) = none ∧
    ((flowing { ops := [readOp] }).ctx 0).ops.find? (fun o => o.id = (pkt 3).reqid && o.kind = 1 && !o.ended) = some readOp ∧
    bit (pkt 3).flags 3 = false ∧ (pkt 3).aux + (pkt 3).len ≤ readOp.len ∧
    -1 ≤ psnDiff (pkt 4).aux ((flowing { sndUna := 1 }).ctx 0).sndUna ∧
    ((flowing {}).ctx 0).entOf (pkt 5).psn = none ∧ ((flowing { rcvNxt := 1 }).ctx 0).settled (pkt 9).psn = true ∧
    ((flowing { probes := [(0, true)] }).ctx 0).probes.find? (fun q => q.1 = beAt (pkt 8).payload 0 8) = some (0, true) ∧
    (item (pkt 8)).slot = none := by decide +kernel

/-- A NAK of an outstanding read. -/
def sentRead : TxEnt := { psn := 0, ref := 0, code := 2, off := 0, len := 0, final := false, last := true, ts := some 0, era := 0 }

theorem test_nak : (arrived { ops := [readOp], out := [sentRead] } (pkt 5)).gets 5 (item (pkt 5)) (pkt 5)
      (flowing { ops := [readOp], out := [sentRead] }) ∧
    ((arrived { ops := [readOp], out := [sentRead] } (pkt 5)).ctx 0).entOf (pkt 5).psn = some sentRead ∧
    sentRead.code = 2 ∧ sentRead.ts = some (pkt 5).ts ∧
    ((arrived { ops := [readOp], out := [sentRead] } (pkt 5)).ctx 0).opOf sentRead = some readOp :=
  ⟨⟨by decide +kernel, flowing { ops := [readOp], out := [sentRead] }, by decide +kernel, rfl, by decide +kernel,
    by decide +kernel⟩, by decide +kernel⟩

theorem test_no_flow : ∀ op ∈ [1, 2, 3, 4, 5, 6, 7, 8, 9],
    (arrived {} { pkt op with srcIp := 1 }).stopped = false ∧ (arrived {} { pkt op with srcIp := 1 }).aqd.notes = [] ∧
    (arrived {} { pkt op with srcIp := 1 }).takeRx (opIs op) = some (item { pkt op with srcIp := 1 }, flowing {}) ∧
    (State.freeIngress (flowing {}) 0 none).fromPeer { pkt op with srcIp := 1 } = false := by decide +kernel

/-- A received packet that is placed, and one whose write was answered with an error. -/
def placed (resp : Nat) : RxEnt := ⟨0, 1, none, 0, 0, false, true, 0, [], resp, 0⟩

theorem test_settled : ∀ resp ∈ [0, 1], (flowing { rx := [placed resp] }).stopped = false ∧
    ((flowing { rx := [placed resp] }).ctx 0).rx.find? (fun y => y.psn = (placed resp).psn && y.placed) = some (placed resp) ∧
    ((flowing { rx := [placed resp] }).ctx 0).state = 2 ∧ (placed resp).code = 1 ∧ (placed resp).resp = resp ∧
    psnDiff (placed resp).psn ((flowing { rx := [placed resp] }).ctx 0).rcvNxt = 0 ∧
    ((flowing { rx := [placed resp] }).ctx 0).rcvMap = 0 := by decide +kernel

/-- A responder with a read of no bytes and one beyond the address space. -/
def job (va len : Nat) : ReadJob := ⟨0, 0, va, len, 0, 0, 0, false⟩

theorem test_responder : ∀ j ∈ [job 0 0, job 0 64, job (2 ^ 47) 64],
    (flowing { jobs := [j] }).stopped = false ∧ ((flowing { jobs := [j] }).ctx 0).state = 2 ∧
    psnDiff ((flowing { jobs := [j] }).ctx 0).sndNxt ((flowing { jobs := [j] }).ctx 0).sndUna < 256 ∧
    ((flowing { jobs := [j] }).ctx 0).jobs.find? (fun j => !j.stopped && (decide (j.off < j.len) || j.len = 0)) = some j ∧
    65536 < (flowing { jobs := [j] }).trackerFree := by decide +kernel

theorem test_flow_timers :
    (flowing { unacked := 1 }).stopped = false ∧ ((flowing { unacked := 1 }).ctx 0).state = 2 ∧
    ((flowing { unacked := 1 }).ctx 0).unacked ≠ 0 ∧ ((flowing { out := [sentRead] }).ctx 0).out ≠ [] ∧
    ((flowing { out := [sentRead] }).ctx 0).sent ≠ [] ∧
    ((flowing { out := [sentRead] }).ctx 0).retries + 1
      < max 1 ((flowing { out := [sentRead] }).fld F.AQD_RETRY_LIMIT
          ((flowing { out := [sentRead] }).drive ((flowing { out := [sentRead] }).ctx 0).part) 0) ∧
    max 1 ((flowing { out := [sentRead], retries := 255 }).fld F.AQD_RETRY_LIMIT
          ((flowing { out := [sentRead], retries := 255 }).drive ((flowing { out := [sentRead], retries := 255 }).ctx 0).part) 0)
      ≤ ((flowing { out := [sentRead], retries := 255 }).ctx 0).retries + 1 ∧
    0 ≤ (flowing {}).fld F.AQD_CC_TARGET ((flowing {}).drive ((flowing {}).ctx 0).part) 0 := by decide +kernel

/-- A context of partition 0 in a state of R240, its set-up record at address 0. -/
def inState (n : Nat) (c : FlowCtx) : State := { (mapped owned).setByte 15 5 with aqd := { ctxs := [(0, { c with state := n })] } }

theorem test_flow_commands : owned.flowReady 1 = true ∧ owned.flag F.AQD_FLOW_BUSY 1 0 = false ∧
    2 ^ (0 % 4) - min (2 ^ (0 % 4)) ((owned.partRec (1 - 1)).aqd
      - (owned.aqd.ctxs.filter fun e => e.2.state ≠ 0 && e.2.part = 1 - 1 && !e.2.common).length) ≤ owned.commonFree ∧
    owned.freeRun (2 ^ (3 % 4)) 0 (40960 / 2 ^ (3 % 4)) = some 0 ∧
    (inState 1 {}).flowReady 1 = true ∧ (inState 1 {}).flag F.AQD_FLOW_BUSY 1 0 = false ∧
    ((inState 1 {}).ctx ((inState 1 {}).fld F.AQD_FLOW_CTX 1 0)).state = 1 ∧
    ((inState 1 {}).ctx ((inState 1 {}).fld F.AQD_FLOW_CTX 1 0)).part = 1 - 1 ∧
    (∀ n ∈ [2, 3], ((inState n {}).ctx ((inState n {}).fld F.AQD_FLOW_CTX 1 0)).state = n) ∧
    ((inState 2 {}).ctx 0).rx.filter (fun e => e.placed) = [] ∧
    ((inState 2 { rx := [placed 0] }).ctx 0).rx.filter (fun e => e.placed) ≠ [] := by decide +kernel

/-- CONNECT reads the set-up record. -/
theorem test_connect_reads : ∃ s1 r, (inState 1 {}).readVa {} (aqdRq (1 - 1)) ((inState 1 {}).fld F.AQD_FLOW_VA 1 0 * 64) 64 = (s1, .okay, r) ∧
    s1.setupOk r = true ∧ s1.netShut (1 - 1) = false := by
  obtain ⟨s1, h, c⟩ := reads (s := inState 1 {}) (rq := aqdRq (1 - 1)) (va := 0) (len := 64) (dpa := 0) (ch := 0) (off := 0) (by decide)
    ⟨rfl, by decide +kernel, by decide +kernel, by decide +kernel, by decide +kernel, by decide +kernel⟩
  refine ⟨s1, _, h, ?_, ?_⟩
  · have : ∀ r, s1.setupOk r = (inState 1 {}).setupOk r := fun r => by
      simp only [State.setupOk, State.lpExists, State.split, State.flag, State.fld_of_calmTo c]
    rw [this]; decide +kernel
  · have : s1.netShut 0 = (inState 1 {}).netShut 0 := by
      have h1 : s1.tdi 0 = (inState 1 {}).tdi 0 := by simp only [State.tdi, State.fld_of_calmTo c]
      have h2 : s1.flag F.SEC_NET_PLAIN 0 0 = (inState 1 {}).flag F.SEC_NET_PLAIN 0 0 := by
        simp only [State.flag, State.fld_of_calmTo c]
      rw [State.netShut, h1, h2, State.netShut]
    rw [this]; decide +kernel

/-- The whole of the common pool belongs to the partitions, and partition 0 asks for eight with a quota of none. -/
theorem test_alloc_refused : State.commonFree { owned with pte := { owned.pte with image := { owned.pte.image with
      parts := [⟨1, 1, 1, 1, 1, 16, 0, [0, 0, 0, 0]⟩, ⟨1, 1, 1, 1, 1, 16, 40960, [0, 0, 0, 0]⟩] } } }
    < 2 ^ (3 % 4) - min (2 ^ (3 % 4)) (0 - 0) := by decide +kernel

theorem test_region_commands :
    (flowing {}).flowReady 1 = true ∧ (flowing {}).flag F.AQD_RGN_BUSY 1 0 = false ∧
    1 ≤ (set (flowing {}) [(F.AQD_RGN_LEN, 1, 0, 1)]).fld F.AQD_RGN_LEN 1 0 ∧
    (set (flowing {}) [(F.AQD_RGN_VA, 1, 0, 0xFFFFFFFFF), (F.AQD_RGN_LEN, 1, 0, 1)]).fld F.AQD_RGN_VA 1 0 * 4096
      + (set (flowing {}) [(F.AQD_RGN_VA, 1, 0, 0xFFFFFFFFF), (F.AQD_RGN_LEN, 1, 0, 1)]).fld F.AQD_RGN_LEN 1 0 * 4096 ≤ 2 ^ 48 ∧
    (flowing {}).netShut (1 - 1) = false ∧ (flowing {}).rgnOn = true ∧ (flowing {}).rgnHead = some 1 ∧
    (flowing {}).keySlot (1 - 1) ((flowing {}).fld F.AQD_RGN_KEY 1 0) = some 0 ∧ ((flowing {}).rge 0).state = 1 ∧
    (({ flowing {} with aqd := { regions := [(0, { state := 2 })] } } : State).rge 0).state = 2 ∧
    (({ flowing {} with aqd := { regions := [(0, { state := 2 })] } } : State).rge 0).inflight = 0 ∧
    (({ flowing {} with aqd := { regions := [(0, { state := 3, gen := 255 })] } } : State).rge 0).state = 3 ∧
    ({ flowing {} with aqd := { regions := [(0, { state := 3, gen := 255 })] } } : State).eraLive 0 = false ∧
    bit 0xFFFFFFFFFFFFFFFF 0 = true ∧ owned.flag F.AQD_RGN_EN 0 0 = false ∧ (flowing {}).flag F.AQD_RGN_EN 0 0 = true ∧
    (flowing {}).rgnTail = some 1 ∧
    ({ flowing {} with aqd := { fresh := 10000, regions := [(0, { state := 3 })] } } : State).rgnTail = none ∧
    (set owned [(F.AQD_RGN_INIT_BUSY, 0, 0, 1)]).flag F.AQD_RGN_INIT_BUSY 0 0 = true := by decide +kernel

/-- A probe's reply with its ingress capture and all its times. -/
def replied : Pkt := { pkt 8 with payload := [0, 0, 0, 0, 0, 0, 0, 9, 0, 0, 0, 0, 0, 0, 0, 10, 0, 0, 0, 0, 0, 0, 0, 11] }

def repliedTo : State :=
  { flowing { probes := [(9, true)] } with
    mac := { lps := [(0, { ingress := [⟨.probe, 0, 12⟩] })]
             rx := [⟨0, { okFrame with body := .aqd replied }, some 0⟩] } }

theorem test_probe_sample : repliedTo.stopped = false ∧
    (∃ s0, repliedTo.takeRx (opIs 8) = some (⟨0, { okFrame with body := .aqd replied }, some 0⟩, s0) ∧
      s0.ingressCap ⟨0, { okFrame with body := .aqd replied }, some 0⟩ = some 12 ∧
      (s0.freeIngress 0 (some 0)).fromPeer replied = true) ∧
    (repliedTo.ctx 0).probes.find? (fun q => q.1 = beAt replied.payload 0 8) = some (9, true) ∧
    beAt replied.payload 8 8 ≠ 0 ∧ beAt replied.payload 16 8 ≠ 0 :=
  ⟨by decide +kernel, ⟨{ repliedTo with mac := { lps := [(0, { ingress := [⟨.probe, 0, 12⟩] })] } }, by decide +kernel,
    by decide +kernel, by decide +kernel⟩, by decide +kernel, by decide +kernel, by decide +kernel⟩

/-! ### Witnesses: the Ethernet ports -/

/-- Port 15, of a split pair, is up. -/
def portUp (x : LpSt) : State :=
  set { owned with mac := { lps := [(15, { x with up := true }), (0, { x with up := true })] } }
    [(F.MAC_PORT_EN, 0, 7, 1), (F.MAC_SPLIT, 0, 7, 1), (F.MAC_PHY_TYPE, 0, 7, 5), (F.MAC_LPI_EN, 0, 15, 1)]

def lldpFrame : Frame := { okFrame with dst := 0x0180C200000E, body := .lldp 0 0 120 none }

def full : LpSt := { rxbuf := List.replicate 29 ⟨15, { okFrame with octets := 9036 }, none⟩ }

theorem test_frames_received : (portUp {}).lpExists 15 = true ∧ ((portUp {}).lp 15).up = true ∧
    { okFrame with fec := false }.fec = false ∧ okFrame.fec = true ∧ okFrame.fcs = true ∧
    9238 < { okFrame with octets := 9239 }.octets ∧ { okFrame with octets := 9238 }.octets ≤ 9238 ∧
    ((portUp {}).lp 15).occupancy + { lldpFrame with octets := 9238 }.octets ≤ 262144 ∧
    ((portUp full).lp 15).occupancy + 100 ≤ 262144 ∧ 262144 < ((portUp full).lp 15).occupancy + 101 ∧
    ((portUp full).lp 15).rxbuf = ⟨15, { okFrame with octets := 9036 }, none⟩ :: full.rxbuf.tail ∧
    lldpFrame.dst = 0x0180C200000E := by decide +kernel

/-- Frames that the checks of a port let by, and what they carry. -/
theorem test_frames_dispatched : (∀ b ∈ [FrameBody.control 1 0 [0], .control 0x0101 0 [], .control 2 0 [], .other 0x0800,
      .lldp 0 0 120 none, .ptp (PtpMsg.mk 4 0 0 0 0 0 false 0 0 0 0), .aqd (pkt 1), .aqd { pkt 1 with dport := 319 },
      .aqd { pkt 1 with dport := 0x12B7 }, .aqd { pkt 1 with dport := 0x12B7, ver := 0 }],
      ((portUp {}).lpExists 15 && ((portUp {}).lp 15).up && (portUp {}).filterPass 15 { lldpFrame with body := b }) = true) ∧
    lldpFrame.fec = true ∧ lldpFrame.fcs = true ∧ lldpFrame.octets ≤ 9238 ∧ (portUp {}).filterPass 15 okFrame = false ∧
    ptpUnused { lldpFrame with body := .ptp (PtpMsg.mk 4 0 0 0 0 0 false 0 0 0 0) } = true ∧ ptpUnused lldpFrame = false ∧
    (pkt 1).dport ≠ (portUp {}).fld F.AQD_UDP_PORT 0 0 ∧
    { pkt 1 with dport := 0x12B7 }.dport = (set (portUp {}) [(F.AQD_UDP_PORT, 0, 0, 0x12B7)]).fld F.AQD_UDP_PORT 0 0 ∧
    (portUp {}).stopped = false ∧
    pktOk { pkt 1 with ver := 0x10 } = false ∧ pktOk { pkt 1 with ver := 0x10, csum := 1, udpLen := 56 } = true := by decide +kernel

theorem test_drain_keeps_xoff :
    65536 ≤ LpSt.occupancy { (portUp full).lp 15 with rxbuf := full.rxbuf.tail } := by decide +kernel

/-- A PAUSE frame of `q` quanta on port 15, in mode 1. -/
def pausing (q : Nat) : State :=
  set { portUp {} with mac := { (portUp {}).mac with rx := [⟨15, { okFrame with body := .control 1 0 [q] }, none⟩] } }
    [(F.MAC_FC_MODE, 0, 15, 1)]

def hold (prio : Nat) : Hold := ⟨prio, 0, 0⟩

/-- 65535 µs have passed, and port 15 holds and is held on a priority. -/
def held (n : Nat) : State :=
  let s := portUp { holds := [hold 8], xoff := [hold 0], rxbuf := List.replicate n ⟨15, { okFrame with octets := 8192 }, none⟩ }
  { s with clp := { s.clp with time := 65535000 * 2 ^ 48 } }

/-- A PFC frame of priorities 0 and 1 on port 15, in its mode. -/
def priorities : State :=
  set { portUp {} with mac := { (portUp {}).mac with rx := [⟨15, { okFrame with body := .control 0x0101 3 [0, 7] }, none⟩] } }
    [(F.MAC_FC_MODE, 0, 15, 2), (F.MAC_PFC_PRIO, 0, 15, 3)]

/-- Port 15 rests from its own XOFF of priority 0, with `n` frames in its buffer. -/
def resting (n : Nat) : State :=
  set (portUp { offTx := [0], rxbuf := List.replicate n ⟨15, { okFrame with octets := 8192 }, none⟩ })
    [(F.MAC_FC_MODE, 0, 15, 2), (F.MAC_PFC_PRIO, 0, 15, 3)]

theorem test_pause : (∀ q ∈ [0, 0xFFFF],
      (pausing q).takeRx (fun x => match x.frame.body with | .control _ _ _ => true | _ => false)
        = some (⟨15, { okFrame with body := .control 1 0 [q] }, none⟩, { pausing q with mac := (portUp {}).mac }) ∧
      (pausing q).fcMode 15 = 1 ∧ 8 ∉ ((pausing q).lp 15).offRx) ∧
    (priorities.takeRx (fun x => match x.frame.body with | .control _ _ _ => true | _ => false)
        = some (⟨15, { okFrame with body := .control 0x0101 3 [0, 7] }, none⟩, { priorities with mac := (portUp {}).mac }) ∧
      priorities.fcMode 15 = 2 ∧ bit (3 : Nat) 1 = true ∧ bit (priorities.fld F.MAC_PFC_PRIO 0 15) 1 = true ∧
      1 ∉ (priorities.lp 15).offRx ∧ [0, 7].getD 0 0 = 0 ∧ [0, 7].getD 1 0 ≠ 0) ∧
    (portUp {}).fcMode 15 ≠ 1 ∧ (portUp {}).fcMode 15 ≠ 2 ∧
    0 ∈ ((resting 0).lp 15).offTx ∧ (resting 0).sendsXoff 15 0 = true ∧ ((resting 0).lp 15).occupancy < 131072 ∧
    131072 ≤ ((resting 16).lp 15).occupancy ∧ ((resting 16).lp 15).xoff = [] ∧
    (held 8).ns < ({ hold 0 with until_ := 2 ^ 60 } : Hold).until_ ∧
    ((held 0).lp 15).xoff.find? (fun h => h.prio = 0) = some (hold 0) ∧ ((held 7).lp 15).occupancy < 65536 ∧
    65536 ≤ ((held 8).lp 15).occupancy ∧ (hold 0).until_ ≤ (held 8).ns ∧ 0 ∉ ((held 8).lp 15).offTx ∧
    ((held 0).lp 15).holds.find? (fun h => h.prio = 8) = some (hold 8) ∧
    1000 * max 1 ((held 0).fld F.MAC_PAUSE_WD 0 15) ≤ (held 0).ns - (hold 8).since := by decide +kernel

theorem test_lldp_and_lpi :
    ({ portUp {} with mac := { (portUp {}).mac with rx := [⟨15, { lldpFrame with body := .lldp 0 0 120 (some ⟨9, 9, 0, 0, 0⟩) }, none⟩] } }
      : State).takeRx (fun x => match x.frame.body with | .lldp _ _ _ _ => true | _ => false)
      = some (⟨15, { lldpFrame with body := .lldp 0 0 120 (some ⟨9, 9, 0, 0, 0⟩) }, none⟩, portUp {}) ∧
    (portUp { eee := some (9, 9) }).flag F.MAC_LPI_EN 0 15 = true ∧ offersLpi ((portUp { eee := some (9, 9) }).phy 15) = true ∧
    ((portUp { eee := some (9, 9) }).lp 15).up = true ∧ ((portUp { eee := some (9, 9) }).lp 15).eee.isSome = true ∧
    ((portUp { eee := some (9, 9) }).lp 15).txq = [] ∧ (portUp { eee := some (9, 9) }).portBusy 15 = false := by decide +kernel

/-- An LLDPDU without an EEE TLV. -/
theorem test_lldp_without_eee :
    ({ portUp {} with mac := { (portUp {}).mac with rx := [⟨15, lldpFrame, none⟩] } }
      : State).takeRx (fun x => match x.frame.body with | .lldp _ _ _ _ => true | _ => false)
      = some (⟨15, lldpFrame, none⟩, portUp {}) ∧ lldpFrame.body = .lldp 0 0 120 none := by decide +kernel

theorem test_port_setup :
    (set owned [(F.MAC_PORT_EN, 0, 0, 1), (F.MAC_PHY_TYPE, 0, 0, 1)]).lpExists 0 = true ∧
    (set owned [(F.MAC_PORT_EN, 0, 0, 1), (F.MAC_PHY_TYPE, 0, 0, 1)]).flag F.MAC_PORT_EN 0 (0 / 2) = true ∧
    (set owned [(F.MAC_PORT_EN, 0, 0, 1), (F.MAC_PHY_TYPE, 0, 0, 1)]).phy 0 ≠ 0 ∧
    ((set owned [(F.MAC_PORT_EN, 0, 0, 1), (F.MAC_PHY_TYPE, 0, 0, 1)]).lp 0).up = false ∧
    bit (owned.regN .macPortCfg 0 7) 0 = false ∧ bit (0x41 : Nat) 1 = false ∧ bits (0x41 : Nat) 7 4 = 4 ∧
    bit (0x63 : Nat) 1 = true ∧ bits (0x63 : Nat) 7 4 = 6 ∧ bit (0x71 : Nat) 0 = true ∧ 6 < bits (0x71 : Nat) 7 4 ∧
    bit (0x13 : Nat) 1 = true ∧ bits (0x13 : Nat) 7 4 = 1 ∧ bit (0x51 : Nat) 1 = false ∧ bits (0x51 : Nat) 7 4 = 5 ∧
    bit ((portUp {}).regN .macPortCfg 0 7) 0 = true ∧
    (((portUp {}).regN .macPortCfg 0 7 - 1) &&& 0xFFF3) / 2 = (portUp {}).regN .macPortCfg 0 7 / 2 ∧
    ((0x41 : Nat) &&& 0xFFF3) / 2 ≠ (portUp {}).regN .macPortCfg 0 7 / 2 ∧
    bit (0x10000000000 : Nat) 40 = decide (8 ≤ 8) ∧ bit (0 : Nat) 40 = decide (8 ≤ 7) ∧ bit (0x10000000000 : Nat) 40 = decide (7 < 8) ∧
    bit (0 : Nat) 40 = decide (8 < 8) := by decide +kernel

/-- A queued LLDPDU, a queued control packet, and a packet of a flow with nothing left but a NOP. -/
def queued (w : TxWhat) : TxItem := ⟨64, none, w, none⟩

def sending (w : TxWhat) : State :=
  { portUp { txq := [queued w] } with aqd := { ctxs := [(0, { state := 2, out := [{ sentRead with code := 9 }] })] } }

def sendable (s : State) : State := ((s.txPrune 15).txHeld 15).txCatchUp 15

theorem test_transmit : (∀ w ∈ [TxWhat.whole lldpFrame, .whole { lldpFrame with body := .aqd (pkt 7) }, .seq 0 0 false],
      (sendable (sending w)).txNext 15 = some (queued w) ∧ ((sending w).lpExists 15 && ((sending w).lp 15).up) = true) ∧
    (sendable (portUp {})).txNext 15 = none ∧
    (sending (.seq 0 0 false)).stopped = false ∧
    ((sending (.seq 0 0 false)).ctx 0).entOf 0 = some { sentRead with code := 9 } ∧
    (((sendable (sending (.seq 0 0 false))).setLp 15 { (sendable (sending (.seq 0 0 false))).lp 15 with
      txq := ((sendable (sending (.seq 0 0 false))).lp 15).txq.erase (queued (.seq 0 0 false)) }).txPayload {} 0
        { sentRead with code := 9 } false).1.aqd.notes = [] := by decide +kernel

theorem test_transmit_frames : ∀ p, lldpFrame.body ≠ .aqd p := fun _ h => by cases h

/-! ### Witnesses: the Clepsydra -/

/-- Cluster time follows a source; CLP_STATE tracks. -/
def sourced (src : Nat) : State := set owned [(F.CLP_SRC, 0, 0, src), (F.CLP_STATE, 0, 0, 2)]

theorem test_cluster_time : (sourced 2).clpSrc = 2 ∧ (sourced 3).clpSrc = 3 ∧ (sourced 2).clpSrc ≠ 0 ∧
    (sourced 3).fld F.CLP_STATE 0 0 = 2 ∧ owned.clpSrc ≠ 3 ∧ bits (7 : Nat) 2 0 = 7 ∧ bits (8 : Nat) 2 0 = 0 ∧ bits (3 : Nat) 2 0 = 3 ∧
    owned.fld F.CLP_STATE 0 0 = 0 ∧ (set (sourced 1) [(F.CLP_STATE, 0, 0, 3)]).fld F.CLP_STATE 0 0 = 3 ∧
    owned.fnOpen 1 = true ∧ State.fnOpen { owned with pte := {} } 1 = false ∧ State.vfExists { owned with pte := {} } 1 = true ∧
    ({ owned with clp := { owned.clp with heldLow := some 0xFFFFFFFF } } : State).clp.heldLow = some 0xFFFFFFFF := by
  decide +kernel

def message (kind : Nat) : PtpMsg := ⟨kind, 0, 5, 9, 0, 0, false, 0, 0, 0, 0x011B19000000⟩

def heard (m : PtpMsg) (slot : Option Nat) : RxItem := ⟨0, { okFrame with body := .ptp m }, slot⟩

/-- A message has come from a source followed, or none yet, with an ingress capture in slot 0. -/
def ptp (m : PtpMsg) (c : ClpSt) : State :=
  set { owned with clp := c, mac := { lps := [(0, { ingress := [⟨.ptp, 0, 77⟩] })], rx := [heard m (some 0)] } }
    [(F.CLP_SRC, 0, 0, 1)]

/-- What is left when it has been taken. -/
def ptpTaken (m : PtpMsg) (c : ClpSt) : State := { ptp m c with mac := {} }

theorem test_ptp_discarded : ∀ kind ∈ [0, 8, 9],
    (ptp (message kind) {}).takePtp kind = some (heard (message kind) (some 0), some 77, message kind, ptpTaken (message kind) {}) ∧
    (ptp (message kind) {}).ptpOk 0 (message kind) = false := by decide +kernel

theorem test_ptp_sync : ∀ two ∈ [false, true],
    (ptp { message 0 with twoStep := two } { source := some 5 }).takePtp 0
      = some (heard { message 0 with twoStep := two } (some 0), some 77, { message 0 with twoStep := two },
          ptpTaken { message 0 with twoStep := two } { source := some 5 }) ∧
    (ptp { message 0 with twoStep := two } { source := some 5 }).ptpOk 0 { message 0 with twoStep := two } = true ∧
    (ptp { message 0 with twoStep := two } { source := some 5 }).clp.delays = [] ∧
    (ptp { message 0 with twoStep := two } { source := some 5, delays := [4] }).takePtp 0
      = some (heard { message 0 with twoStep := two } (some 0), some 77, { message 0 with twoStep := two },
          ptpTaken { message 0 with twoStep := two } { source := some 5, delays := [4] }) ∧
    (ptp { message 0 with twoStep := two } { source := some 5, delays := [4] }).meanDelay = some 4 := by decide +kernel

/-- A Sync that was left untimed. -/
theorem test_ptp_untimed :
    ({ ptp (message 0) { source := some 5 } with mac := { rx := [heard (message 0) none] } } : State).takePtp 0
      = some (heard (message 0) none, none, message 0, ptpTaken (message 0) { source := some 5 }) ∧
    State.ptpOk { ptp (message 0) { source := some 5 } with mac := { rx := [heard (message 0) none] } } 0 (message 0) = true := by
  decide +kernel

theorem test_ptp_follow_up_and_announce :
    (ptp (message 8) { source := some 5, twoStep := some (9, 1, 2, 3) }).takePtp 8
      = some (heard (message 8) (some 0), some 77, message 8, ptpTaken (message 8) { source := some 5, twoStep := some (9, 1, 2, 3) }) ∧
    (ptp (message 8) { source := some 5, twoStep := some (9, 1, 2, 3) }).ptpOk 0 (message 8) = true ∧
    (ptp (message 8) { source := some 5, twoStep := some (9, 1, 2, 3) }).clp.twoStep = some ((message 8).seq, 1, 2, 3) ∧
    (∀ o ∈ [none, some 6], (ptp (message 11) { source := o }).takePtp 11
      = some (heard (message 11) (some 0), some 77, message 11, ptpTaken (message 11) { source := o }) ∧
      (ptp (message 11) { source := o }).ptpHere 0 (message 11) = true ∧ (ptp (message 11) { source := o }).clp.source = o) ∧
    (ptp { message 11 with dst := 0 } {}).ptpHere 0 { message 11 with dst := 0 } = false ∧
    6 ≠ (message 11).source ∧ (sourced 1).clpSrc = 1 := by decide +kernel

/-- A Delay_Resp to this module's own request. -/
def answer : PtpMsg := { message 9 with reqSource := Config.ptpIdentity }

theorem test_ptp_delay_resp :
    (∃ s0, (ptp answer { source := some 5, dreq := some (9, 4), sync := some (1, 2, 3) }).takePtp 9
      = some (heard answer (some 0), some 77, answer, s0)) ∧
    (ptp answer { source := some 5, dreq := some (9, 4), sync := some (1, 2, 3) }).ptpOk 0 answer = true ∧
    (ptp answer { source := some 5, dreq := some (9, 4), sync := some (1, 2, 3) }).clp.dreq = some (answer.seq, 4) ∧
    answer.reqSource = (ptp answer {}).ptpSelf := by
  refine ⟨?_, by decide +kernel, rfl, rfl⟩
  have h : ∀ (s : State) (x : RxItem), s.mac.rx = [x] → x.frame.body = .ptp answer →
      ∃ s0 : State, s.takePtp 9 = some (x, s0.ingressCap x, answer, s0.freeIngress x.lp x.slot) ∧ s0.mac.lps = s.mac.lps := by
    intro s x h1 h2
    have h3 : decide (answer.kind = 9) = true := rfl
    exact ⟨{ s with mac := { lps := s.mac.lps } }, by simp [State.takePtp, State.takeRx, h1, h2, h3], rfl⟩
  obtain ⟨s0, h4, h5⟩ := h (ptp answer { source := some 5, dreq := some (9, 4), sync := some (1, 2, 3) })
    (heard answer (some 0)) rfl rfl
  have h6 : s0.ingressCap (heard answer (some 0)) = some 77 := by
    simp only [State.ingressCap, heard, State.lp, h5]; rfl
  rw [h6] at h4
  exact ⟨_, h4⟩

theorem test_pulse : (set owned [(F.CLP_PPS_OUT_EN, 0, 0, 1)]).flag F.CLP_PPS_OUT_EN 0 0 = true ∧
    owned.ns % 1000000000 ≤ 4 ∧ owned.clp.lastPps ≠ some (owned.ns / 1000000000) ∧
    owned.clp.ppsHigh = false ∧ owned.flag F.CLP_PPS_OUT_EN 0 0 = false ∧
    4 < State.ns { owned with clp := { owned.clp with time := 5 * 2 ^ 48 } } % 1000000000 ∧
    State.ns { owned with clp := { owned.clp with lastPps := some 0 } } / 1000000000 = 0 ∧
    ({ owned with clp := { owned.clp with ppsHigh := true } } : State).clp.ppsHigh = true := by decide +kernel

/-- Barrier 3 of partition 0 in a state, over pool 0, its entries due at 1001 ns. -/
def barred (n : Nat) : State :=
  set { owned with clp := { time := 1001 * 2 ^ 48, barriers := [(3, { start := 961, release := 0, ramp := 1, open_ := [0] })]
                            sev := [(0, { kind := 1, time := 1001 }), (1, { kind := 2, time := 1002 })] } }
    [(F.CLP_BAR_STATE, 1, 3, n), (F.CLP_BAR_POOLS, 1, 3, 1)]

theorem test_barriers : owned.fnOpen 1 = true ∧ bit (1 : Nat) 1 = false ∧ bit (2 : Nat) 1 = true ∧
    (barred 1).fld F.CLP_BAR_STATE 1 3 ≠ 0 ∧ (barred 0).fld F.CLP_BAR_STATE 1 3 = 0 ∧
    bit ((barred 0).fld F.CLP_BAR_POOLS 1 3) 0 = true ∧ State.reset.owner 0 ≠ some (1 - 1) ∧
    (∀ p, p < 64 → bit ((barred 0).fld F.CLP_BAR_POOLS 1 3) p = true → (barred 0).nonLead p = true ∨ (barred 0).owner p = some (1 - 1)) ∧
    State.reset.nonLead 0 = false ∧
    (barred 0).sevUsed (1 - 1) + 2 ≤ (barred 0).sevQuota (1 - 1) ∧ (barred 0).clp.sev.length + 2 ≤ 1024 ∧
    (barred 1).fld F.CLP_BAR_STATE 1 3 = 1 ∧ (barred 1).fnOpen 1 = true ∧
    (barred 1).sevDue ((barred 1).barrier (1 - 1) 3).release = true ∧ (barred 2).fld F.CLP_BAR_STATE 1 3 = 2 ∧
    ((barred 2).barrier (1 - 1) 3).start + 40 * 1 ≤ ((barred 2).ns : Int) ∧ 1 ∉ ((barred 2).barrier (1 - 1) 3).open_ ∧
    (barred 2).rampDue (1 - 1) 3 = true ∧ bit (3 : Nat) 0 = true ∧
    (∀ p, p < 64 → bit (owned.fld F.CLP_BAR_POOLS 1 3) p = true → owned.nonLead p = true ∨ owned.owner p = some (1 - 1)) ∧
    State.sevQuota { owned with pte := { owned.pte with image := { owned.pte.image with
      parts := [⟨1, 1, 1, 1, 1, 1, 16, [256, 256, 256, 256]⟩] } } } (1 - 1)
      < State.sevUsed { owned with pte := { owned.pte with image := { owned.pte.image with
      parts := [⟨1, 1, 1, 1, 1, 1, 16, [256, 256, 256, 256]⟩] } } } (1 - 1) + 2 := by decide +kernel

theorem test_ramp_ends : ({ barred 2 with clp := { (barred 2).clp with time := 2 ^ 90 } } : State).fld F.CLP_BAR_STATE 1 3 = 2 ∧
    State.rampDue { barred 2 with clp := { (barred 2).clp with time := 2 ^ 90 } } (1 - 1) 3 = true ∧
    (State.barrier { barred 2 with clp := { (barred 2).clp with time := 2 ^ 90 } } (1 - 1) 3).start
      + State.rampPeriod { barred 2 with clp := { (barred 2).clp with time := 2 ^ 90 } }
      ≤ (State.ns { barred 2 with clp := { (barred 2).clp with time := 2 ^ 90 } } : Int) := by decide +kernel

theorem test_counters :
    (set owned [(F.CLP_SNAP_PENDING, 0, 0, 1)]).flag F.CLP_SNAP_PENDING 0 0 = true ∧
    owned.flag F.CLP_SNAP_PENDING 0 0 = false ∧ owned.sevUsed 64 < owned.sevQuota 64 ∧
    sfree {} owned.clp.sev 0 1024 = some 0 ∧
    (∀ n ∈ [0, 1, 2, 3], State.snapDue { owned with clp := { time := 2 ^ 48, sev := [(1023, { kind := 5, owner := 64, ref := n })] } }
      = some (1023, { kind := 5, owner := 64, ref := n })) ∧
    owned.flag F.PMC_TAG_EN 0 0 = false := by decide +kernel

/-! ### Witnesses: rings, doorbells, interrupts -/

/-- Ring 15 of virtual function 1, of 64 descriptors, in a state, with MMIO doorbells. -/
def ringIn (n : Nat) (g : Ring) : State :=
  set { mapped owned with que := { rings := [(32, g)] } }
    [(F.QUE_RING_STATE, 1, 15, n), (F.QUE_RING_EN, 1, 15, 1), (F.QUE_RING_DBMMIO, 1, 15, 1), (F.QUE_RING_LOG2, 1, 15, 6),
     (F.QUE_RING_HEAD, 1, 15, 0xFFFF)]

theorem test_doorbells :
    (ringIn 1 {}).fnOpen 1 = true ∧ (ringIn 1 {}).ringEn 1 15 = true ∧ (ringIn 1 {}).ringMmio 1 15 = true ∧
    (ringIn 1 {}).stopped = false ∧ (ringIn 1 {}).ringState 1 15 = 1 ∧ (ringIn 2 {}).ringState 1 15 = 2 ∧
    diff16 63 ((ringIn 1 {}).fld F.QUE_RING_HEAD 1 15) ≤ (ringIn 1 {}).ringSize 1 15 ∧
    beyond16 7 ((ringIn 1 { cqHead := 5, cqNext := 7 }).ring 1 15).cqNext = false ∧
    (ringIn 1 {}).ringSize 1 15 < diff16 64 ((ringIn 1 {}).fld F.QUE_RING_HEAD 1 15) ∧
    owned.ringEn 1 15 = false ∧ owned.ringMmio 1 15 = false ∧
    ((ringIn 1 { lineReading := true }).ring 1 15).lineReading = true ∧
    (({ owned with que := { rings := [(32, { lineReading := true })] } } : State).ring 1 15).lineReading = true ∧
    State.ringEn { owned with que := { rings := [(32, { lineReading := true })] } } 1 15 = false ∧
    leAt (toLe 2 63 ++ toLe 2 7 ++ zeros 60) 0 2 = 63 ∧ leAt (toLe 2 63 ++ toLe 2 7 ++ zeros 60) 2 2 = 7 ∧
    ((ringIn 1 { lineHeld := true }).ring 1 15).lineHeld = true ∧ ((ringIn 1 {}).ring 1 15).lineHeld = false := by decide +kernel

/-- The event queue of virtual function 1, with an MMIO doorbell. -/
def eventQueue : State :=
  set owned [(F.QUE_EQ_EN, 1, 0, 1), (F.QUE_EQ_STATE, 1, 0, 1), (F.QUE_EQ_DBMMIO, 1, 0, 1), (F.QUE_EQ_TAIL, 1, 0, 1),
    (F.QUE_EQ_HEAD, 1, 0, 0xFFFF)]

theorem test_event_queue_doorbell : eventQueue.fld F.QUE_EQ_STATE 1 0 = 1 ∧ eventQueue.flag F.QUE_EQ_EN 1 0 = true ∧
    eventQueue.ringEn 1 16 = true ∧ eventQueue.ringMmio 1 16 = true ∧ eventQueue.flag F.QUE_EQ_DBMMIO 1 0 = true ∧
    beyond16 1 (eventQueue.fld F.QUE_EQ_TAIL 1 0) = false := by decide +kernel

/-- A descriptor of index 0xFFFF: kind, target, not-before time. -/
def descOf (kind target time : Nat) : List Byte := bytesOf 64 [(0, 2, 0xFFFF), (2, 1, kind), (4, 2, target), (16, 8, time)]

def fetchedOf (d : List Byte) (visible : Bool) : Ring := { fetched := [{ idx := 0xFFFF, bytes := d, visible := visible, at_ := 0 }] }

theorem test_descriptor_reads :
    (∀ g ∈ [{ reading := [0xFFFF] }, { fetchedOf (zeros 64) false with reading := [0xFFFF], stale := 7 }], ∀ n ∈ [1, 2],
      (ringIn n g).stopped = false ∧ (ringIn n g).ringEn 1 15 = true ∧ (ringIn n g).ringState 1 15 = n ∧
      0xFFFF ∈ ((ringIn n g).ring 1 15).reading) ∧
    leAt (fit 64 (descOf 0 0 0)) 0 2 = 0xFFFF ∧ (qdOf (fit 64 (descOf 0 0 0))).kind ≠ 1 ∧
    leAt (fit 64 (descOf 1 63 1)) 0 2 = 0xFFFF ∧ (qdOf (fit 64 (descOf 1 63 1))).kind = 1 ∧
    (ringIn 1 {}).ns < (qdOf (fit 64 (descOf 1 63 1))).notBefore ∧ (ringIn 1 {}).refusal 1 (fit 64 (descOf 1 63 1)) = none ∧
    leAt (fit 64 (zeros 64)) 0 2 ≠ 0xFFFF ∧ 7 ≤ ({ fetchedOf (zeros 64) false with stale := 7 } : Ring).stale ∧
    (((ringIn 1 {}).ring 1 15).fetched.any fun f => f.idx = 0xFFFF) = false ∧
    (((ringIn 1 (fetchedOf (zeros 64) false)).ring 1 15).fetched.any fun f => f.idx = 0xFFFF) = true ∧
    (ringIn 1 {}).ringLive 1 15 = true ∧
    ((ringIn 1 { fetchedOf (zeros 64) false with rereads := 7 }).ring 1 15).rereads < 8 ∧
    (((ringIn 1 (fetchedOf (zeros 64) false)).ring 1 15).fetched.any fun f =>
      f.idx = (ringIn 1 (fetchedOf (zeros 64) false)).fld F.QUE_RING_HEAD 1 15 && !f.visible) = true := by decide +kernel

/-- The scheduled-event entry of an order, and its refusal. -/
theorem test_descriptor_entries :
    ((ringIn 1 {}).sevTake (1 - 1) { time := 1, kind := 1, ref := 15, aux := 0xFFFF }).2 = some 0 ∧
    (State.sevTake { ringIn 1 {} with pte := {} } (1 - 1) { time := 1, kind := 1, ref := 15, aux := 0xFFFF }).2 = none := by
  decide +kernel

/-- A NOP, a malformed descriptor, one of another partition's pool, posts, and an order to dispatch; and orders that hold an
entry or were refused one. -/
def posts : List Fetched :=
  ([descOf 0 0 0, descOf 4 0 0, descOf 1 64 0, descOf 2 0 0, descOf 3 0 0, descOf 1 63 0].map fun d => ⟨0xFFFF, d, true, 0, none, false⟩)
    ++ [⟨0xFFFF, descOf 1 63 1, true, 0, some 0, false⟩, ⟨0xFFFF, descOf 1 63 1, true, 0, none, true⟩]

theorem test_descriptors_at_head : ∀ f ∈ posts, (ringIn 1 { fetched := [f] }).atHead 1 15 f := by
  unfold State.atHead; decide +kernel

/-- The lead of pool 63 has no room. -/
def noRoom : State := { ringIn 1 {} with pool := [(63, { inbox := List.replicate 32 workOrder })] }

theorem test_descriptors_dispatched :
    ((ringIn 1 {}).refusal 1 (descOf 4 0 0)).isSome = true ∧ ((ringIn 1 {}).refusal 1 (descOf 1 64 0)).isSome = true ∧
    (qdOf (descOf 0 0 0)).kind = 0 ∧ (∀ k ∈ [2, 3], (qdOf (descOf k 0 0)).kind = k ∧ (ringIn 1 {}).refusal 1 (descOf k 0 0) = none) ∧
    (ringIn 1 {}).refusal 1 (descOf 1 63 0) = none ∧ (qdOf (descOf 1 63 0)).kind = 1 ∧
    (ringIn 1 {}).isGuestWork 1 (qdOf (descOf 1 63 0)) = false ∧
    (ringIn 1 {}).workRoom 1 (qdOf (descOf 1 63 0)) = true ∧ noRoom.workRoom 1 (qdOf (descOf 1 63 0)) = false ∧
    (ringIn 1 {}).refusal 1 (descOf 1 63 1) = none := by decide +kernel

/-- An order whose entry is due at 1 ns. -/
def heldOrder : Fetched := ⟨0xFFFF, descOf 1 63 1, true, 0, some 0, false⟩

def released : State :=
  { ringIn 1 { fetched := [heldOrder] } with
    clp := { time := 2 ^ 48, sev := [(0, { time := 1, kind := 1, owner := 0, ref := 15, aux := 0xFFFF })] } }

theorem test_not_before_release : (sget {} released.clp.sev 0).kind = 1 ∧ released.sevDue 0 = true ∧
    (sget {} released.clp.sev 0).ref = 15 ∧ released.atHead ((sget {} released.clp.sev 0).owner + 1) 15 heldOrder ∧
    released.refusal ((sget {} released.clp.sev 0).owner + 1) heldOrder.bytes = none ∧ (qdOf heldOrder.bytes).kind = 1 ∧
    released.isGuestWork ((sget {} released.clp.sev 0).owner + 1) (qdOf heldOrder.bytes) = false ∧
    released.workRoom ((sget {} released.clp.sev 0).owner + 1) (qdOf heldOrder.bytes) = true := by
  unfold State.atHead; decide +kernel

theorem test_completion_record : (ringIn 1 {}).recordsOff 1 = false ∧ ((ringIn 1 {}).ring 1 15).cqDead = false ∧
    (ringIn 1 {}).tdi (1 - 1) ≠ 2 ∧
    ((ringIn 1 {}).fld F.QUE_RING_CQ_BUS 1 15 * 4096
      + 32 * (((ringIn 1 {}).ring 1 15).cqNext % 2 ^ (ringIn 1 {}).fld F.QUE_RING_LOG2 1 15)) / 64 ∉ ({} : Env).hostFail := by
  decide +kernel

theorem test_rings_interrupts_peers :
    owned.fnOpen 1 = true ∧ owned.flag F.QUE_RING_EN 1 15 = false ∧ owned.fld F.QUE_RING_STATE 1 15 = 0 ∧
    6 ≤ bits (0x6000100 : Nat) 27 24 ∧ bit (0x6000100 : Nat) 8 = true ∧ bits (0x5000100 : Nat) 27 24 < 6 ∧
    bit (0x6000000 : Nat) 8 = false ∧ (set owned [(F.QUE_CXL_CACHE, 0, 0, 1)]).flag F.QUE_CXL_CACHE 0 0 = true ∧ owned.tdi (1 - 1) ≠ 2 ∧ (ringIn 1 {}).flag F.QUE_RING_EN 1 15 = true ∧
    ((ringIn 1 {}).ring 1 15).fetched = [] ∧ ((ringIn 1 {}).ring 1 15).inflight = [] ∧
    ((ringIn 1 {}).ring 1 15).lineHeld = false ∧ ((ringIn 1 {}).ring 1 15).lineReading = false ∧
    (({ set owned [(F.MSIX_MASK, 1, 63, 0)] with que := { vecs := [(127, { count := 1, timer := true })] } } : State).vec 1 63).timer = true ∧
    owned.silent 1 = false ∧ State.msixOn { owned with prt := { owned.prt with cfg := [(1, { msixEn := true })] } } 1 = true ∧
    owned.msixOn 1 = false ∧ owned.flag F.MSIX_MASK 1 63 = true ∧ bit (owned.regN .msixPba 1 0) 63 = false ∧
    (set owned [(F.SEC_TDI_STATE, 0, 0, 2)]).teeRefused 1 false = true ∧ (set owned [(F.MSIX_MASK, 1, 63, 0)]).flag F.MSIX_MASK 1 63 = false ∧
    bit ((owned.setRegN .msixPba 1 0 (2 ^ 63)).regN .msixPba 1 0) 63 = true ∧ owned.teeRefused 1 false = false ∧
    owned.p2pEntry 1 0 0 = none ∧
    (set owned [(F.QUE_P2P_V, 1, 15, 1), (F.QUE_P2P_ANY, 1, 15, 1)]).p2pEntry 1 0xFFFFFF 9 = some 0xFFFFF ∧
    (set owned [(F.QUE_P2P_V, 1, 15, 1), (F.QUE_P2P_ANY, 1, 15, 1)]).stopped = false := by decide +kernel

/-! ### Witnesses: DMA -/

/-- Channel 7 of pool 0 is programmed to fill one element, or does the transfer `r`. The second gigabyte of addresses lies in host
memory. -/
def dmaSet (r : Option DmaRun) : State :=
  set { mapped running with dma := { runs := (r.map fun r => (dmaKey 0 7, some r)).toList }
                            memc := { tlb := [⟨0, 0, 2, 7⟩, ⟨0, 1, 2, 15⟩] } }
    [(F.DMA_MODE, 0, dmaKey 0 7, 1), (F.DMA_CH_CNT0, 0, dmaKey 0 7, 1), (F.DMA_CH_CNT1, 0, dmaKey 0 7, 1),
     (F.DMA_CH_CNT2, 0, dmaKey 0 7, 1)]

/-- A transfer of a mode between addresses of host memory. -/
def run (mode : Nat) : DmaRun :=
  { part := 0, guest := false, mode := mode, esize := 0, src := 2 ^ 30, dst := 2 ^ 30 + 64, fill := 0, scl := 0, cells := 1, stsVa := 0,
    tag := 0, cnt := [2, 1, 1], ss := [1, 16, 0], ds := [1, 16, 0], sclStep := 0, sfmt := 4, dfmt := 4, ceil := 0, irq := true,
    vec := 0 }

theorem test_dma_go : (dmaSet none).stopped = false ∧ (dmaSet none).dmaOpen 0 7 = true ∧
    (dmaSet none).dmaOwner 0 7 = some (0, false) ∧ (dmaSet none).dmaRun 0 7 = none ∧
    (dmaSet none).dmaBad 0 ((dmaSet none).dmaRegs 0 7 0 false) = false ∧
    running.dmaBad 0 (running.dmaRegs 0 7 0 false) = true ∧ running.dmaOpen 0 7 = true ∧ running.dmaRun 0 7 = none ∧
    (dmaSet (some (run 1))).dmaRun 0 7 = some (run 1) ∧ (run 1).status = 0 ∧ (run 1).idx < (run 1).total ∧
    (dmaSet (some (run 1))).dmaTurn 0 = some 7 ∧ (dmaSet (some (run 1))).dmaTurn 0 ≠ some 0 := by decide +kernel

/-- A write of a burst of zeros, and its failure without tables. -/
def burstWrite (s : State) (n : Nat) : Option (Nat × Resp) :=
  (s.writeResps {} (dmaRq 0 0) (2 ^ 30 + 64) (zeros n) ((2 ^ 30 + 64) / 64 * 64) (unitsOf (2 ^ 30 + 64) n)).2

/-- Without translation. -/
def unmapped (s : State) : State := set s [(F.MEM_PT_EN, 0, 0, 0)]

/-- Fills and copies: the burst's length and addresses, a read and a write that succeed, a read and a write that fail. -/
theorem test_dma_bursts : (run 1).burstLen 0 1 255 = 2 ∧ (run 0).burstLen 0 1 255 = 2 ∧ vaOf ((run 1).dAddr 0) = 2 ^ 30 + 64 ∧
    vaOf ((run 1).sAddr 0) = 2 ^ 30 ∧ ((upFrom 0 2).flatMap fun _ => toLe (run 1).e (run 1).fill) = zeros 2 ∧
    burstWrite ((dmaSet (some (run 1))).dmaServed 0 7) 2 = none ∧
    burstWrite (unmapped ((dmaSet (some (run 1))).dmaServed 0 7)) 2 ≠ none ∧
    (unmapped (dmaSet (some (run 1)))).dmaTurn 0 = some 7 ∧
    (((dmaSet (some (run 0))).dmaServed 0 7).readResps {} (dmaRq 0 0) (2 ^ 30) 2).2.1 = zeros 2 ∧
    firstBad (((dmaSet (some (run 0))).dmaServed 0 7).readResps {} (dmaRq 0 0) (2 ^ 30) 2).2.2 1 2 = none ∧
    burstWrite (((dmaSet (some (run 0))).dmaServed 0 7).readResps {} (dmaRq 0 0) (2 ^ 30) 2).1 2 = none ∧
    firstBad (((dmaSet (some (run 0))).dmaServed 0 7).readResps { hostFail := [0] } (dmaRq 0 0) (2 ^ 30) 2).2.2 1 2 = some (0, .ue) := by
  decide +kernel

/-- What a compare of two bytes finds where host memory holds `h`, and a unit fails. -/
def compared (e : Env) : List Byte × List Resp × List Byte × List Resp :=
  match ((dmaSet (some (run 2))).dmaServed 0 7).readResps e (dmaRq 0 0) (2 ^ 30) 2 with
  | (s, sd, sr) => match s.readResps e (dmaRq 0 0) (2 ^ 30 + 64) 2 with
    | (_, dd, dr) => (sd, sr, dd, dr)

/-- The same everywhere; a difference at element 1; a failure at element 0. -/
theorem test_dma_compare : compared {} = ([0, 0], [.okay, .okay], [0, 0], [.okay, .okay]) ∧
    compared { host := [(1, 9)] } = ([0, 9], [.okay, .okay], [0, 0], [.okay, .okay]) ∧
    (compared { hostFail := [0] }).2.1 = [.ue, .ue] ∧ (dmaSet (some (run 2))).dmaTurn 0 = some 7 := by decide +kernel

/-- A load of a tile of an NB8 format from device memory, and a row-major one without tables. -/
def loading : State := dmaSet (some { run 3 with src := 0 })

theorem test_dma_load : ∃ s0 s1 d e,
    (loading.dmaServed 0 7).readVa {} (cellRq 0 0) (vaOf (((0 : Nat) : Int) + (((0 : Nat) : Int)) * 16 + ((0 : Nat) : Int) * 1)) 256 = (s0, .okay, d) ∧
    s0.readVa {} (cellRq 0 0) (vaOf (((0 : Nat) : Int) + ((0 : Nat) : Int) * 0 + 8 * ((0 : Nat) : Int))) 8 = (s1, .okay, e) := by
  have h : ∀ x ∈ [((0, 0, 0), 0), ((64, 0, 64), 1), ((128, 0, 128), 2), ((192, 0, 192), 3)],
      (loading.dmaServed 0 7).calmAt (cellRq 0 0) (0 / 64 * 64 + 64 * x.2) x.1.1 x.1.2.1 x.1.2.2 false := by
    intro x hx
    have hx' : x = ((0, 0, 0), 0) ∨ x = ((64, 0, 64), 1) ∨ x = ((128, 0, 128), 2) ∨ x = ((192, 0, 192), 3) := by simpa using hx
    rcases hx' with rfl | rfl | rfl | rfl <;>
      exact ⟨rfl, by decide +kernel, by decide +kernel, by decide +kernel, by decide +kernel, by decide +kernel⟩
  have hr := (loading.dmaServed 0 7).readVa_units_calm {} (cellRq 0 0) 0 256 [(0, 0, 0), (64, 0, 64), (128, 0, 128), (192, 0, 192)] rfl
    (by decide) h
  obtain ⟨s1, h1, -⟩ := reads (s := ((loading.dmaServed 0 7).readVa {} (cellRq 0 0) 0 256).1) (rq := cellRq 0 0) (va := 0) (len := 8)
    (by decide) (State.calmAt_of_calmTo hr.1 (h ((0, 0, 0), 0) (by simp)))
  exact ⟨_, s1, _, _, Prod.ext rfl hr.2, h1⟩

theorem test_dma_load_runs : loading.dmaRun 0 7 = some { run 3 with src := 0 } ∧ loading.dmaTurn 0 = some 7 ∧ (run 3).mode = 3 ∧
    (run 3).rowMajor = false ∧ (run 3).idx / (run 3).n 0 = 0 ∧ (run 3).idx % (run 3).n 0 = 0 ∧
    { run 3 with sfmt := 1, cnt := [1, 16, 1] }.rowMajor = true ∧
    ((unmapped (dmaSet (some { run 3 with sfmt := 1, cnt := [1, 16, 1] }))).loadRows {} 0 { run 3 with sfmt := 1, cnt := [1, 16, 1] } 0 0).2.1
      ≠ .okay ∧
    (unmapped (dmaSet (some { run 3 with sfmt := 1, cnt := [1, 16, 1] }))).dmaTurn 0 = some 7 := by decide +kernel

theorem test_dma_completes : ∀ r ∈ [{ run 1 with status := 2 }, { run 1 with idx := 2 }, { run 1 with status := 1 }, { run 1 with status := 4, irq := false }],
    (dmaSet (some r)).dmaRun 0 7 = some r ∧ (r.status ≠ 0 ∨ r.total ≤ r.idx) ∧ (dmaSet (some r)).resetting 0 = false ∧
    State.resetting { dmaSet (some r) with prt := { resets := [(0, { phase := 2 })] } } 0 = true := by decide +kernel

/-! ### Witnesses: the Host Memory Port -/

/-- Channel 1 is presented, with row 255 of its last bank open and the last page of the aperture in a mode. -/
def hmpState (mode : Nat) (x : HmpChan) : State :=
  set { mapped owned with hmp := { chans := [(1, { x with rows := [(31, 256)] })] } }
    [(F.HMP_EN, 0, 1, 1), (F.HMP_MAP_MODE, 0, 8191, mode)]

/-- The same while the reset of partition 0 stands at step 2. -/
def hmpReset : State := { hmpState 1 {} with prt := { owned.prt with resets := [(0, { phase := 2 })] } }

/-- A word of the last unit of channel 1's window in error. -/
def wordBad (u : Bool) : Env := { sram := [(.window 1 0x1FFFFF, u)] }

theorem test_hmp_writes :
    (hmpState 1 {}).hmpAt 1 1 15 2047 0xFFFFE0 ∧ (0xFFFFE0 : Nat) / 4096 = 4095 ∧
    (hmpState 1 {}).hmpMapOf F.HMP_MAP_MODE 1 4095 = 1 ∧ (hmpState 0 {}).hmpMapOf F.HMP_MAP_MODE 1 4095 ≠ 1 ∧
    (hmpState 0 {}).hmpAt 1 1 15 2047 0xFFFFE0 ∧ hmpReset.hmpAt 1 1 15 2047 0xFFFFE0 ∧
    (sget {} (hmpState 1 {}).prt.resets ((hmpState 1 {}).hmpMapOf F.HMP_MAP_PART 1 4095)).phase < 2 ∧
    2 ≤ (sget {} hmpReset.prt.resets (hmpReset.hmpMapOf F.HMP_MAP_PART 1 4095)).phase := by
  unfold State.hmpAt; decide +kernel

/-- Bank 0 of sub-channel 0 of channel 1 has a row open. -/
def rowOpen (row : Nat) : State := { hmpState 1 {} with hmp := { chans := [(1, { rows := [(0, row + 1)] })] } }

theorem test_hmp_rows : (rowOpen 7936).hmpAt 1 0 0 (32 * 2) 0x1F000080 ∧ (rowOpen 7936).hmpAt 1 0 0 0 0x1F000000 ∧
    (rowOpen 7936).hmpAt 1 0 0 32 0x1F000040 ∧ (rowOpen 7936).hmpAt 1 0 0 (32 * 15) 0x1F0003C0 ∧
    (rowOpen 7936).hmpAt 1 0 0 (32 * 8) 0x1F000200 ∧ (rowOpen 256).hmpAt 1 0 0 0 0x1000000 ∧
    (rowOpen 7938).hmpAt 1 0 0 0 0x1F020000 ∧ (([true] : List Bool).take 8).any (fun b => b) = true ∧
    ((List.replicate 8 false ++ [true]).take 8).any (fun b => b) = false := by
  unfold State.hmpAt; decide +kernel

theorem test_hmp_reads :
    (hmpState 2 { filled := [(4095, true)] }).hmpAt 1 1 15 2047 0xFFFFE0 ∧ (hmpState 2 { filled := [(4095, true)] }).shows 1 0xFFFFE0 ∧
    upset {} true (winSites 1 (0xFFFFE0 / 32)) = false ∧ upset {} false (winSites 1 (0xFFFFE0 / 32)) = false ∧
    upset (wordBad false) false (winSites 1 (0xFFFFE0 / 32)) = true ∧ upset (wordBad false) true (winSites 1 (0xFFFFE0 / 32)) = false ∧
    upset (wordBad true) true (winSites 1 (0xFFFFE0 / 32)) = true ∧
    ¬ (hmpState 2 {}).shows 1 0xFFFFE0 ∧ ¬ (hmpState 1 { filled := [(4095, true)] }).shows 1 0xFFFFE0 ∧
    (hmpState 2 {}).hmpAt 1 1 15 2047 0xFFFFE0 ∧ 4095 ∉ ((hmpState 2 {}).hch 1).raised ∧
    4095 ∈ ((hmpState 2 { raised := [4095] }).hch 1).raised ∧ (hmpState 2 { raised := [4095] }).hmpAt 1 1 15 2047 0xFFFFE0 := by
  unfold State.hmpAt State.shows; decide +kernel

theorem test_hmp_fences_and_fills : (hmpState 2 {}).hmpOn 1 = true ∧ (hmpState 2 {}).hmpAwake 1 = true ∧
    (((hmpState 2 {}).hch 1).dirty ++ ((hmpState 2 {}).hch 1).out.map (·.unit)).eraseDups.length = 0 ∧
    (((hmpState 1 { dirty := [0x7FFFF], out := [⟨0x7FFFF, 0, 0, .okay⟩] }).hch 1).dirty
      ++ ((hmpState 1 { dirty := [0x7FFFF], out := [⟨0x7FFFF, 0, 0, .okay⟩] }).hch 1).out.map (·.unit)).eraseDups.length = 1 ∧
    (hmpState 1 { dirty := [0x7FFFF], out := [⟨0x7FFFF, 0, 0, .okay⟩] }).hmpOn 1 = true ∧
    ((hmpState 2 {}).hch 1).pass = none ∧ ((hmpState 2 { pass := some 0 }).hch 1).pass ≠ none := by decide +kernel

/-- Draining: a unit the fence covers, one of several that no fence covers, one with a word in error. -/
theorem test_hmp_drains :
    (∀ x ∈ [({ dirty := [0x7FFFF], fenced := [0x7FFFF] } : HmpChan), { dirty := [0x7FFFF, 0] }],
      (hmpState 1 x).stopped = false ∧ 0x7FFFF ∈ ((hmpState 1 x).hch 1).dirty ∧
      (0x7FFFF ∈ ((hmpState 1 x).hch 1).fenced ∨ ∀ y ∈ ((hmpState 1 x).hch 1).dirty, y ∉ ((hmpState 1 x).hch 1).fenced)) ∧
    upset {} true (winSites 1 0x7FFFF) = false ∧ upset {} false (winSites 1 0x7FFFF) = false ∧
    upset (wordBad true) true (winSites 1 0x7FFFF) = true ∧
    (∀ r ∈ [Resp.okay, Resp.ue], ((hmpState 1 { out := [⟨0x7FFFF, 63, 0, r⟩] }).hch 1).out.find? (fun x => x.unit = 0x7FFFF)
      = some ⟨0x7FFFF, 63, 0, r⟩) := by decide +kernel

/-- The page's entry leads to the start of device memory. -/
theorem page_calm : ∀ i, i < 64 → ∃ dpa ch off, (hmpState 2 { pass := some 4000 }).calmAt (hmpRq 0) (0 + (0 + 64 * i)) dpa ch off false := by
  have h : ∀ i < 64, (¬ (64 ≤ (hmpRq 0).part ∨ (!(hmpState 2 { pass := some 4000 }).partEnabled (hmpRq 0).part) = true
        ∨ (!(hmpState 2 { pass := some 4000 }).flag F.MEM_PT_EN 0 (hmpRq 0).part) = true
        ∨ bits ((0 + (0 + 64 * i)) / 64 * 64) 63 48 ≠ 0) ∧
      (hmpState 2 { pass := some 4000 }).tlbFind (hmpRq 0).part ((0 + (0 + 64 * i)) / 64 * 64) = some ⟨0, 0, 2, 7⟩) ∧
      targetOf ((hmpState 2 {}), leafTarget 7 2 ((0 + (0 + 64 * i)) / 64 * 64) false) = (some (.dev (64 * i)), none) ∧
      dpaRoute (hmpState 2 { pass := some 4000 }).part (64 * i) = some ((dpaRoute .gx4 (64 * i)).getD (0, 0)) ∧
      (hmpState 2 { pass := some 4000 }).cut (hmpRq 0).die (chanDie ((dpaRoute .gx4 (64 * i)).getD (0, 0)).1) = false ∧
      ((hmpState 2 { pass := some 4000 }).chan ((dpaRoute .gx4 (64 * i)).getD (0, 0)).1).queue = [] ∧
      (((hmpState 2 { pass := some 4000 }).codeword (physKey ((dpaRoute .gx4 (64 * i)).getD (0, 0)).1
          ((dpaRoute .gx4 (64 * i)).getD (0, 0)).2 / 32)).errs = [] ∧
        ((hmpState 2 { pass := some 4000 }).codeword ((physKey ((dpaRoute .gx4 (64 * i)).getD (0, 0)).1
          ((dpaRoute .gx4 (64 * i)).getD (0, 0)).2 + 32) / 32)).errs = []) := by decide +kernel
  intro i hi
  obtain ⟨hh, ht, hr, hx, hq, hc⟩ := h i hi
  have ht' := Prod.ext_iff.mp (target_ok ht)
  refine ⟨_, _, _, ?_, ⟨hh.1, by rw [hh.2]; rfl⟩, hr, hx, hq, hc⟩
  rw [State.translate_held _ _ _ _ _ _ hh.1 hh.2]
  exact Prod.ext rfl ht'.2

/-- A page that is filled, one that is not, and the end of a pass. -/
theorem test_hmp_fill_page :
    ((hmpState 2 { pass := some 4000 }).pageUnits {} 0 0 0 64).2.2 = none ∧
    (hmpState 2 { pass := some 4000 }).hmpMapOf F.HMP_MAP_PART 1 4095 = 0 ∧
    (hmpState 2 { pass := some 4000 }).hmpMapOf F.HMP_MAP_VA 1 4095 * 4096 = 0 ∧
    (State.pageUnits (set (hmpState 2 { pass := some 4000 }) [(F.MEM_PT_EN, 0, 0, 0)]) {} 0 0 0 64).2.2.isSome = true ∧
    ((hmpState 2 { pass := some 4000 }).hch 1).pass = some 4000 ∧ (hmpState 2 { pass := some 4000 }).nextFill 1 4000 = some 4095 ∧
    State.nextFill (set (hmpState 2 { pass := some 4000 }) [(F.MEM_PT_EN, 0, 0, 0)]) 1 4000 = some 4095 ∧
    (hmpState 1 { pass := some 4000 }).nextFill 1 4000 = none ∧ (hmpState 1 { pass := some 4000 }).stopped = false ∧
    (hmpState 1 { pass := some 4000 }).flag F.HMP_CH_FILL_PENDING 0 1 = false ∧
    State.nextFill (set (hmpState 1 { pass := some 4000 }) [(F.HMP_CH_FILL_PENDING, 0, 1, 1)]) 1 4000 = none ∧
    (set (hmpState 1 { pass := some 4000 }) [(F.HMP_CH_FILL_PENDING, 0, 1, 1)]).flag F.HMP_CH_FILL_PENDING 0 1 = true :=
  ⟨State.pageUnits_calm {} 0 0 rfl 64 _ 0 page_calm, by decide +kernel⟩

theorem test_hmp_map_and_enable :
    bits (0xC : Nat) 3 2 = 3 ∧ bits (0xFC4 : Nat) 3 2 ≠ 0 ∧ owned.partEnabled (bits (0xFC4 : Nat) 11 6) = false ∧
    bits (4 : Nat) 3 2 ≠ 3 ∧ owned.partEnabled (bits (4 : Nat) 11 6) = true ∧ owned.tdi (bits (4 : Nat) 11 6) = 0 ∧
    (set owned [(F.SEC_TDI_STATE, 0, 0, 2)]).tdi (bits (4 : Nat) 11 6) ≠ 0 ∧
    (∀ u ∈ (owned.hch 1).dirty, u / 128 ≠ 4095) ∧ (∀ o ∈ (owned.hch 1).out, o.unit / 128 ≠ 4095) ∧
    owned.flag F.HMP_EN 0 1 = false ∧ owned.flag F.HMP_CH_DRAINING 0 1 = false ∧
    (set owned [(F.HMP_CH_DRAINING, 0, 1, 1)]).flag F.HMP_CH_DRAINING 0 1 = true ∧
    (set owned [(F.HMP_CH_DRAINING, 0, 1, 1)]).flag F.HMP_EN 0 1 = false ∧ (hmpState 1 {}).flag F.HMP_EN 0 1 = true := by
  decide +kernel

/-! ### Witnesses: partition resets -/

/-- Partition 0's reset stands at a step. -/
def atStep (k : Nat) : State := { owned with prt := { owned.prt with resets := [(0, { phase := k })] } }

theorem test_reset_triggers : (64 : Nat) % 64 = 0 ∧ owned.vfExists (0 + 1) = true ∧ owned.partEnabled 0 = true ∧
    owned.resetting 0 = false ∧ (atStep 1).resetting 0 = true ∧ owned.partEnabled 63 = false ∧ owned.vfExists 64 = true ∧
    owned.prt.vfEnable = true ∧ owned.prt.numVfs ≤ 64 ∧ owned.stopped = false := by decide +kernel

/-- The same with a flow context of the partition that a close leaves until it is freed. -/
def flowLeft : State := { atStep 3 with aqd := { ctxs := [(4095, { part := 0, state := 4 })] } }

theorem test_reset_steps : (∀ k ∈ [1, 2, 3, 4, 5, 6], (sget {} (atStep k).prt.resets 0).phase = k ∧ (atStep k).stopped = false) ∧
    (set (atStep 3) [(F.CAS_GRP_STATE, 1, 15, 1)]).revoked 0 = false ∧ (atStep 3).revoked 0 = true ∧
    ((atStep 3).closeFlows {} 0).flowless 0 = true ∧ flowLeft.revoked 0 = true ∧ (sget {} flowLeft.prt.resets 0).phase = 3 ∧
    (flowLeft.closeFlows {} 0).flowless 0 = false ∧
    ({ atStep 4 with pool := [(63, { queue := [op [(0, 1, 5)]] })] } : State).cellsDone 0 = false ∧
    (atStep 4).cellsDone 0 = true ∧ (sget {} (atStep 6).prt.resets 0).held = false ∧
    ({ atStep 6 with prt := { owned.prt with resets := [(0, { phase := 6, held := true })] } } : State).stopped = false ∧
    (set owned [(F.QUE_EQ_STATE, 0, 0, 1)]).fld F.QUE_EQ_STATE 0 0 = 1 ∧ owned.fld F.QUE_EQ_STATE 0 0 ≠ 1 ∧
    owned.resetting 0 = false ∧ 0 ∉ owned.sec.broken ∧
    0 ∈ ({ owned with sec := { broken := [0] } } : State).sec.broken ∧ owned.dma.runs = [] ∧ owned.pool = [] := by decide +kernel

/-- Tables of one leaf: partition 0's virtual addresses from 0 to 1 GiB lie at the start of the far view; the root is at its
start, the next table 4096 bytes on, in channel 1. -/
def tabled (s : State) : State :=
  set (((s.setByte 0 1).setByte 1 0x10).setByte (physKey 1 0) 7) [(F.MEM_PT_EN, 0, 0, 1)]

theorem test_reset_scrubs : dpaRoute .gx4 0x1000 = some (1, 0) ∧ (sget {} (tabled (atStep 4)).prt.resets 0).phase = 4 ∧
    (tabled (atStep 4)).cellsDone 0 = true ∧ bit (7 : Nat) 3 = false ∧ 262143 < 2 ^ (9 * 2) ∧
    dpaRoute .gx4 (bits (7 : Nat) 51 12 * 4096 + 4096 * 262143) = some (15, 8384512) := by decide +kernel

/-- The state whose tables the scrub of `tabled (atStep 4)` walks. -/
def scrubbing : State :=
  let u := State.setPhase ((tabled (atStep 4)).clearCells 0) 0 5
  { u with memc := { u.memc with tlb := u.memc.tlb.filter fun e => e.part ≠ 0 } }

/-- The leaves of partition 0's tables where nothing disturbs the walk. -/
theorem tree_leaves {s : State} {l : List (Nat × Nat × Nat)} (hp : s.flag F.MEM_PT_EN 0 0 = true)
    (h : (s.treeSeen (scrubWalkRq 0) 4 (s.fld F.MEM_PT_DPA 0 0 <<< 12) 0 {}).map (·.leaves) = some l) :
    (State.tree s {} 0).2.leaves = l := by
  obtain ⟨t, ht, hl⟩ := Option.map_eq_some_iff.mp h
  obtain ⟨w, hw, -⟩ := s.treeWalk_calm {} (scrubWalkRq 0) rfl 4 _ 0 s {} t s.calmTo_refl ht
  rw [State.tree, if_pos hp, hw, hl]

theorem test_tables : (State.tree scrubbing {} 0).2.leaves = [(0, 2, 7)] := tree_leaves (by decide +kernel) (by decide +kernel)

/-! ### Witnesses: power and the die links -/

def window (t : Int) : WindowIn := ⟨65536, 20, [(35, some t)]⟩

theorem test_power : 3 ≤ owned.fld F.TOP_STAGE 0 0 ∧
    (∀ i, i < 36 → owned.sensorOk (window 109) i = true → owned.sensor (window 109) i < 110) ∧
    owned.flag F.PWR_MODE 0 0 = false ∧ 31 ∈ sensors owned.part ∧
    owned.sensorOk ⟨0, 20, [(31, some 110)]⟩ 31 = true ∧ 110 ≤ owned.sensor ⟨0, 20, [(31, some 110)]⟩ 31 ∧
    owned.flag F.PWR_TRIPPED 0 0 = false ∧ owned.sensorLimit 31 < owned.sensor ⟨0, 20, [(31, some 109)]⟩ 31 ∧
    owned.top.airflow = true ∧ owned.railsUp = true ∧ owned.flag F.PWR_AIRFLOW_STATE 0 0 = false ∧
    (set owned [(F.TOP_STAGE, 0, 0, 3)]).railsUp = false ∧ owned.flag F.PWR_BRAKE_ON 0 0 = false ∧
    (set owned [(F.PWR_BRAKE_ON, 0, 0, 1)]).flag F.PWR_BRAKE_ON 0 0 = true := by decide +kernel

/-- Group 15 of link 7 in direction 1. -/
def linked (x : LnkGroup) (l : List (Nat × LnkGroup)) : State := { owned with lnk := l ++ [(255, x)] }

/-- The first `n` groups of that direction are retired. -/
def gone (n : Nat) : List (Nat × LnkGroup) := (upFrom 0 n).map fun g => (240 + g, { retired := true })

theorem test_links : owned.linkLive 7 1 15 = true ∧ (owned.grpOf 7 1 15).checking = false ∧
    (set owned [(F.LNK_REPLAY_LIMIT, 0, 0, 1)]).fld F.LNK_REPLAY_LIMIT 0 0 ≤ 1 ∧
    (linked { due := true } []).linkLive 7 1 15 = true ∧ ((linked { due := true } []).grpOf 7 1 15).due = true ∧
    (∀ x ∈ (linked { due := true } []).dirGroups 7 1, x.checking = false) ∧
    { checking := true } ∈ (linked { checking := true } []).dirGroups 7 1 ∧
    ((linked { checking := true } []).grpOf 7 1 15).checking = true ∧
    ((linked { checking := true } []).grpOf 7 1 15).failed = [] ∧ ((linked { checking := true } []).grpOf 7 1 15).roles = [] ∧
    (linked { checking := true } (gone 8)).linkLive 7 1 15 = true ∧ (linked { checking := true } (gone 8)).lost 7 1 = 8 ∧
    (linked { checking := true } (gone 7)).lost 7 1 < 8 ∧ (linked { checking := true } (gone 7)).lost 7 (1 - 1) < 9 := by
  decide +kernel

/-! ### Witnesses: bring-up, resets, configuration -/

/-- The block at a stage of bring-up, which runs as kind `boot`. -/
def staged (n boot : Nat) : State :=
  set { owned with top := { owned.top with boot := boot } } [(F.TOP_STAGE, 0, 0, n)]

def airless (s : State) (w : Option (Nat × Nat)) : State := { s with top := { s.top with airflow := false, waits := w } }

theorem test_cold_starts : owned.top.p54v = true ∧ owned.top.standby = true ∧
    ({ owned with top := { owned.top with p54v := false } } : State).top.standby = true ∧
    ({ owned with top := { owned.top with p54v := false, standby := false } } : State).top.p54v = false := by decide +kernel

/-- A firmware image of no body, of slot 0 and version 0. -/
def copy : List Byte := bytesOf 256 [(0, 4, 0x4D495847), (4, 2, 1)]

/-- The fuses hold the digest of its key, and it has been written to a copy of boot flash. -/
def imaged (base : Nat) : State :=
  State.flashWrite { staged 1 1 with sec := { (staged 1 1).sec with roots := [(0, Config.sha384 (slice copy 16 96))] } } [(base, copy)]

/-- The image passes every check of the boot ROM in either copy when its signature, which the model leaves uninterpreted, is good. -/
theorem test_rom_accepts (h : Config.ecdsaOk (slice copy 16 96) (Config.sha384 (slice copy 0 112 ++ [])) (slice copy 112 96) = true) :
    ∀ base ∈ [copyA, copyB], (imaged base).romCheck base = 0 := by
  intro base hb
  have hf : (imaged base).copyHead base = copy ∧ (imaged base).flashRun (base + 256) (leAt copy 8 4) = [] ∧
      ¬ leAt copy 6 1 ∈ (imaged base).sec.revoked ∧ ¬ leAt copy 7 1 < (imaged base).sec.svn := by
    have : base = copyA ∨ base = copyB := by simpa using hb
    rcases this with rfl | rfl <;> decide +kernel
  have h1 : leAt copy 6 1 = 0 := by decide +kernel
  have h2 : sget [] (imaged base).sec.roots 0 = Config.sha384 (slice copy 16 96) := rfl
  have h3 : ¬ (leAt copy 0 4 ≠ 0x4D495847 ∨ leAt copy 4 2 ≠ 1 ∨ leAt copy 8 4 % 4096 ≠ 0 ∨ 0x1FFF000 < leAt copy 8 4 ∨
      !zeroAt copy 12 4 ∨ !zeroAt copy 208 48 ∨ 3 < leAt copy 6 1 ∨ 64 < leAt copy 7 1) := by decide +kernel
  have h6 : ¬ Config.sha384 (slice copy 16 96) ≠ sget [] (imaged base).sec.roots (leAt copy 6 1) := by
    rw [h1, h2]; exact fun k => k rfl
  rw [State.romCheck]
  simp only [hf.1, hf.2.1]
  rw [if_neg h3, if_neg hf.2.2.1, if_neg h6, if_neg hf.2.2.2, if_pos h]

/-- With the image in the second copy alone the first fails; with none, both do. -/
theorem test_rom_refuses : (imaged copyB).romCheck copyA ≠ 0 ∧ (staged 1 1).romCheck copyA ≠ 0 ∧ (staged 1 1).romCheck copyB ≠ 0 ∧
    (imaged copyB).fld F.TOP_STAGE 0 0 = 1 := by decide +kernel

/-- The operands of a stage: links that lock or one direction of which does not, dies as they should be or a walk that goes astray,
and a channel that fails. -/
def bootOk : BootIn := { ms := 5 }
def bootUnlocked : BootIn := { ms := 5, unlocked := (upFrom 0 9).map fun g => (5, 1, g) }
def bootAstray : BootIn := { ms := 5, hops := 3 }

theorem test_bringup : (staged 1 1).top.boot ≠ 0 ∧ (staged 1 1).top.p54v = true ∧ (staged 1 1).fld F.TOP_STAGE 0 0 = 1 ∧
    (staged 3 1).fld F.TOP_STAGE 0 0 = 3 ∧ (staged 4 1).fld F.TOP_STAGE 0 0 = 4 ∧ (staged 5 2).fld F.TOP_STAGE 0 0 = 5 ∧
    (identity owned.part bootOk).1 = 0 ∧ (identity owned.part bootAstray).1 ≠ 0 ∧
    127 < Config.channels owned.part ∧ (staged 5 2).failed = false ∧ (staged 5 2).top.scrubs = [] ∧ (staged 5 2).top.boot ≠ 1 ∧
    (staged 6 1).fld F.TOP_STAGE 0 0 = 6 ∧ (staged 6 1).top.boot = 1 ∧ (staged 6 2).fld F.TOP_STAGE 0 0 = 6 ∧
    (staged 6 2).top.boot ≠ 1 ∧ (staged 6 2).top.scrubs = [] ∧ owned.top.boot = 0 := by decide +kernel

/-- Stage 4 of the smaller part. -/
def training : State := set { owned with part := .gx2, top := { owned.top with boot := 1 } } [(F.TOP_STAGE, 0, 0, 4)]

theorem test_links_train : (State.trainLinks (training.setFld F.TOP_BOOT_MS 0 0 (satTo 0xFFFF 5)) bootOk).failed = false ∧
    (State.trainLinks (training.setFld F.TOP_BOOT_MS 0 0 (satTo 0xFFFF 5)) bootUnlocked).failed = true ∧
    training.fld F.TOP_STAGE 0 0 = 4 ∧ training.top.boot ≠ 0 ∧ training.top.p54v = true ∧
    (identity training.part bootOk).1 = 0 ∧ (identity training.part { bootOk with stepping := 2, dies := [⟨0, 0, 0, 1, 0⟩] }).1 ≠ 0 := by
  decide +kernel

theorem test_resets : bit (3 : Nat) 2 = false ∧ bit (1 : Nat) 1 = false ∧ (staged 3 0).top.p54v = true ∧
    (staged 3 0).top.boot = 0 ∧ (staged 3 0).top.waits = none ∧ 3 ≤ (staged 3 0).fld F.TOP_STAGE 0 0 ∧
    (staged 3 0).top.airflow = true ∧ (airless (staged 3 0) none).top.airflow = false ∧
    (staged 11 2).top.boot = 2 ∧ (airless (staged 10 0) (some (3, 5))).top.waits = some (3, 5) ∧
    (airless (staged 10 3) none).fld F.TOP_STAGE 0 0 = 10 ∧ (airless (staged 10 3) none).top.boot ≠ 0 ∧
    (staged 11 3).fld F.TOP_STAGE 0 0 = 11 ∧ (staged 11 3).top.boot = 3 ∧ owned.top.perst = true ∧ owned.top.boot = 0 := by
  decide +kernel

theorem test_weaker_resets : (staged 11 1).top.boot ≠ 0 ∧ (staged 11 1).top.boot < 2 ∧ (staged 11 2).top.boot < 3 ∧
    (airless (staged 10 0) (some (2, 4))).top.boot = 0 ∧ (airless (staged 10 0) (some (2, 4))).top.waits = some (2, 4) ∧ (2 : Nat) < 3 ∧
    (staged 3 3).top.boot = 3 ∧ (staged 1 1).top.boot = 1 ∧ (staged 3 3).top.perst = true := by decide +kernel

/-- Partition 0's reset runs, begun by a Function Level Reset or by another trigger. -/
def flrOf (k : Nat) : State := { staged 2 0 with prt := { owned.prt with resets := [(0, { phase := 1, trigger := k })] } }

theorem test_configuration : (staged 0 1).fld F.TOP_STAGE 0 0 = 0 ∧ (staged 1 1).fld F.TOP_STAGE 0 0 = 1 ∧
    2 ≤ (staged 2 0).fld F.TOP_STAGE 0 0 ∧ (staged 2 0).top.p54v = true ∧ (staged 2 0).top.perst = true ∧
    (staged 2 0).vfExists 65 = false ∧ (staged 2 0).vfExists 64 = true ∧ (staged 2 0).resetting (64 - 1) = false ∧
    (flrOf 1).vfExists 1 = true ∧ (flrOf 1).resetting (1 - 1) = true ∧ (sget {} (flrOf 1).prt.resets (1 - 1)).trigger = 1 ∧
    (flrOf 2).resetting (1 - 1) = true ∧ (sget {} (flrOf 2).prt.resets (1 - 1)).trigger ≠ 1 ∧ 2 ≤ (flrOf 1).fld F.TOP_STAGE 0 0 ∧
    (staged 2 0).prt.vfEnable = true ∧ (staged 2 0).prt.numVfs ≤ 64 ∧ 0 < (staged 2 0).prt.numVfs ∧
    (staged 2 0).partEnabled 0 = true := by decide +kernel

/-! ### Witnesses: security -/

/-- The link is up, negotiation is at a step on the mailbox, and there are sessions. -/
def spdm (k : Nat) (l : List Session) (streams : List (Nat × IdeStream)) : State :=
  { owned with que := { owned.que with linkUp := true }
               sec := { owned.sec with spdm := [(0, k)], sessions := l, streams := streams } }

theorem test_spdm : (spdm 0 [] []).spdmOpen 0 = true ∧ (spdm 1 [] []).spdmStage 0 = 1 ∧ (spdm 2 [] []).spdmStage 0 = 2 ∧
    (spdm 0 [] []).spdmStage 0 ≠ 1 ∧ (spdm 3 [] []).spdmOpen 0 = true ∧ (spdm 3 [] []).spdmStage 0 = 3 ∧
    owned.spdmOpen 0 = false ∧ (spdm 3 (List.replicate 7 ⟨0, 0, false, (0, 0)⟩) []).sec.sessions.length < 8 ∧
    8 ≤ (spdm 3 (List.replicate 8 ⟨0, 0, false, (0, 0)⟩) []).sec.sessions.length ∧
    (spdm 3 [⟨5, 0, false, (0, 0)⟩] []).session 0 5 = some ⟨5, 0, false, (0, 0)⟩ ∧
    (spdm 3 [⟨5, 0, true, (0, 0)⟩] []).session 0 5 = some ⟨5, 0, true, (0, 0)⟩ ∧ (spdm 3 [] []).session 0 5 = none ∧
    (spdm 3 [⟨5, 1, true, (0, 0)⟩] []).session 1 5 = some ⟨5, 1, true, (0, 0)⟩ ∧
    State.spdmOpen { spdm 3 [] [] with sec := { (spdm 3 [] []).sec with spdm := [(1, 3)] } } 1 = true ∧
    (zeros 4080).length ≤ spdmRoom := by decide +kernel

/-- The certificate chain is longer than a message holds. -/
theorem test_certificates : 0 < ({ spdm 3 [] [] with sec := { (spdm 3 [] []).sec with makerCerts := zeros 4081 } } : State).chain.length ∧
    spdmRoom < ((State.chain { spdm 3 [] [] with sec := { (spdm 3 [] []).sec with makerCerts := zeros 4081 } }).drop 0
      |>.take (65535 % 65536)).length ∧ ((spdm 3 [] []).chain.length ≤ 0) := by decide +kernel

theorem test_ide : ideKey 1 1 2 ∉ ((spdm 3 [⟨5, 0, true, (0, 0)⟩] []).stream 8).keyed ∧
    ideKey 1 1 2 ∈ ((spdm 3 [⟨5, 0, true, (0, 0)⟩] [(8, { keyed := [11] })]).stream 8).keyed := by decide +kernel

theorem test_chunks : spdmRoom * 1 < (sget [] ({ spdm 3 [] [] with
    sec := { (spdm 3 [] []).sec with chunkOut := [(0, zeros (spdmRoom + 1))] } } : State).sec.chunkOut 0).length := by decide +kernel

/-- A stream that a device interface can be bound to. -/
def secureStream : IdeStream := { enabled := true, tee := true, secure := true }

/-- Partition 0's device interface is in a state, bound to stream 7. -/
def tdiIn (n : Nat) : State := set (spdm 3 [] [(7, secureStream)]) [(F.SEC_TDI_STATE, 0, 0, n), (F.SEC_STREAM, 0, 0, 7)]

theorem test_device_interfaces : (tdiIn 0).tdiOpen 0 = true ∧ (tdiIn 0).tdi 0 = 0 ∧ (tdiIn 0).lockRefused 0 8 = true ∧
    (tdiIn 1).tdi 0 = 1 ∧ (tdiIn 2).tdi 0 = 2 ∧ (tdiIn 3).tdi 0 ≠ 1 ∧ (tdiIn 3).partEnabled 0 = true ∧
    (tdiIn 3).resetting 0 = false ∧ ((tdiIn 2).stream 7).enabled = true ∧ ((tdiIn 2).stream 7).secure = true ∧
    owned.tdiOpen 0 = false ∧ (tdiIn 3).tdi 0 ≠ 2 ∧ ((spdm 3 [] []).stream 7).enabled = false ∧
    (State.setStream (spdm 3 [] []) 7 { enabled := true }).stream 7 = { enabled := true } ∧ (tdiIn 2).dma.runs = [] ∧
    (tdiIn 0).boundTo 7 = [] ∧ (tdiIn 2).boundTo 7 = [0] ∧ (tdiIn 2).pool = [] := by decide +kernel

theorem test_lock_allowed : (tabled (tdiIn 0)).lockRefused 0 7 = false ∧ (tabled (tdiIn 0)).tdi 0 = 0 ∧
    (tabled (tdiIn 0)).tdiOpen 0 = true := by decide +kernel

theorem test_lock_tables : (State.tree (tabled (tdiIn 0)) {} 0).2.leaves = [(0, 2, 7)] :=
  tree_leaves (by decide +kernel) (by decide +kernel)

/-- Partition 0's operation has this block, and its memory holds these bytes. -/
def opBlock (b : List Byte) (st : Option Nat) (slots : List (Nat × Option (List Byte))) (m : List (Nat × Byte)) : State :=
  { mapped owned with mem := m, sec := { owned.sec with ops := [(0, some ⟨b, st⟩)], slots := slots } }

def keyBlock (va : Nat) : List Byte := bytesOf 64 [(0, 1, 1), (1, 1, 3), (8, 8, va)]

def blob : List (Nat × Byte) := [(0, 0x47), (1, 0x58), (2, 0x52), (3, 0x4B), (4, 1)]

/-- The units of the blob. -/
def blobUnits : List (Nat × Nat × Nat) := [(0, 0, 0), (64, 0, 64), (128, 0, 128), (192, 0, 192)]

/-- Several units that nothing disturbs are read. -/
theorem units_read {s : State} {rq : Rq} {va len : Nat} {l : List (Nat × Nat × Nat)} (hu : unitsOf va len = l.length)
    (hs : ∀ x ∈ l.zipIdx, s.calmAt rq (va / 64 * 64 + 64 * x.2) x.1.1 x.1.2.1 x.1.2.2 false) :
    ∃ u, s.readVa {} rq va len = (u, .okay, slice (l.flatMap fun x => s.seen (s.xtsKey rq.part) (physKey x.2.1 x.2.2)
      ++ s.seen (s.xtsKey rq.part) (physKey x.2.1 x.2.2 + 32)) (va % 64) len) :=
  ⟨(s.readVa {} rq va len).1, Prod.ext rfl (s.readVa_units_calm {} rq va len l rfl hu hs).2⟩

/-- A blob at the start of memory is read as it lies there. -/
theorem blob_read {s : State} {v : Bool} (hc : ∀ x ∈ blobUnits.zipIdx,
      s.calmAt (otherRq 0 .plinth) (0 / 64 * 64 + 64 * x.2) x.1.1 x.1.2.1 x.1.2.2 false)
    (hb : blobOk (slice (blobUnits.flatMap fun x => s.seen (s.xtsKey (otherRq 0 .plinth).part) (physKey x.2.1 x.2.2)
      ++ s.seen (s.xtsKey (otherRq 0 .plinth).part) (physKey x.2.1 x.2.2 + 32)) (0 % 64) 256) = v) :
    ∃ u d, s.readVa {} (otherRq 0 .plinth) 0 256 = (u, .okay, d) ∧ blobOk d = v := by
  obtain ⟨u, h⟩ := units_read (len := 256) (l := blobUnits) (by decide) hc
  exact ⟨u, _, h, hb⟩

theorem blob_calm : ∀ m ∈ [blob, []], ∀ x ∈ blobUnits.zipIdx,
    (opBlock (keyBlock 0) none [] m).calmAt (otherRq 0 .plinth) (0 / 64 * 64 + 64 * x.2) x.1.1 x.1.2.1 x.1.2.2 false := by
  intro m hm x hx
  have hm' : m = blob ∨ m = [] := by simpa using hm
  have hx' : x = ((0, 0, 0), 0) ∨ x = ((64, 0, 64), 1) ∨ x = ((128, 0, 128), 2) ∨ x = ((192, 0, 192), 3) := by
    simpa [blobUnits] using hx
  rcases hm' with rfl | rfl <;> rcases hx' with rfl | rfl | rfl | rfl <;>
    exact ⟨rfl, by decide +kernel, by decide +kernel, by decide +kernel, by decide +kernel, by decide +kernel⟩

/-- A blob that is one and a page that is none are read well; without tables the read fails. That a blob opens is left uninterpreted. -/
theorem test_key_install : leAt (keyBlock 0) 8 8 = 0 ∧
    (∃ u d, (opBlock (keyBlock 0) none [] blob).readVa {} (otherRq 0 .plinth) 0 256 = (u, .okay, d) ∧ blobOk d = true) ∧
    (∃ u d, (opBlock (keyBlock 0) none [] []).readVa {} (otherRq 0 .plinth) 0 256 = (u, .okay, d) ∧ blobOk d = false) ∧
    (opBlock (keyBlock 0) none [] blob).sop 0 1 = some (keyBlock 0) ∧
    (unmapped (opBlock (keyBlock 0) none [] [])).sop 0 1 = some (keyBlock 0) ∧
    ((unmapped (opBlock (keyBlock 0) none [] [])).readVa {} (otherRq 0 .plinth) 0 256).2.1 ≠ .okay :=
  ⟨by decide +kernel, blob_read (blob_calm blob (by simp)) (by decide +kernel), blob_read (blob_calm [] (by simp)) (by decide +kernel),
    by decide +kernel⟩

theorem test_ingest_and_fuses : (opBlock (bytesOf 64 [(0, 1, 2)]) none [] []).sop 0 2 = some (bytesOf 64 [(0, 1, 2)]) ∧
    sget none (opBlock (bytesOf 64 [(0, 1, 2)]) none [] []).sec.slots (4 * 0 + leAt (bytesOf 64 [(0, 1, 2)]) 1 1) = none ∧
    sget none (opBlock (bytesOf 64 [(0, 1, 2)]) none [(0, some (zeros 32))] []).sec.slots
      (4 * 0 + leAt (bytesOf 64 [(0, 1, 2)]) 1 1) = some (zeros 32) ∧
    sget none (opBlock (bytesOf 64 [(0, 1, 2)]) (some 5) [] []).sec.ops 0 = some ⟨bytesOf 64 [(0, 1, 2)], some 5⟩ ∧
    0x100 % 256 ≤ owned.fld F.SEC_SVN_IMG 0 0 ∧ owned.fld F.SEC_SVN_IMG 0 0 < 255 % 256 := by decide +kernel

/-! ### Witnesses: the Weir and the management endpoint -/

/-- The Weir holds a command for partition 63, with its link up. -/
def ordered (op arg : Nat) (x : WeirSt) : State :=
  set { owned with weir := { x with order := some ⟨op, 63, arg⟩ } } [(F.WEIR_LINK, 0, 0, 1), (F.WEIR_BUSY, 0, 0, 1)]

def weirSession : WeirSession := { part := 63, number := 1, since := 0 }

theorem test_weir_holds : ∀ op ∈ [1, 2, 3, 4, 5, 6, 7], (ordered op 0 {}).weirHolds op ⟨op, 63, 0⟩ := by
  unfold State.weirHolds; decide +kernel

def waitingRec (k : Nat) : WeirRec := ⟨k, 2, 63, zeros 160⟩

/-- Eight records wait, none of which can make room. -/
def crowd : List WeirRec := (upFrom 0 8).map fun k => ⟨k, 1, 63, zeros 160⟩

theorem test_weir_refusals : (∀ op ∈ [1, 2], (ordered op 0 { waiting := crowd }).weirHolds op ⟨op, 63, 0⟩) ∧
    8 ≤ (ordered 1 0 { waiting := crowd }).weir.waiting.length ∧ (ordered 1 0 { waiting := crowd }).weir.spare = none ∧
    (ordered 1 0 { waiting := crowd }).weir.session 63 = none ∧
    (ordered 1 0 { waiting := crowd }).weir.sessions.length + 4 ≤ (ordered 1 0 { waiting := crowd }).weir.room ∧
    ((ordered 2 0 { waiting := crowd, sessions := [weirSession] }).weir.session 63).isSome = true ∧
    (ordered 2 0 { waiting := crowd, sessions := [weirSession] }).weir.spare = none ∧
    (ordered 2 0 {}).weir.session 63 = none ∧ Config.parts .gx2 ≤ 63 ∧
    (∀ op ∈ [1, 2, 4, 6, 7], (ordered op 0 { fault := true }).weir.order = some ⟨op, 63, 0⟩ ∧
      (ordered op 0 { fault := true }).weir.powered = true ∧ (ordered op 0 { fault := true }).weir.fault = true) ∧
    owned.weir.order = none ∧ (ordered 1 0 {}).weir.order = some ⟨1, 63, 0⟩ ∧ (ordered 1 0 { powered := false }).weir.powered = false := by
  unfold State.weirHolds; decide +kernel

/-- Host memory holds an image at 64. -/
theorem test_weir_host_image : ∀ x ∈ [((0x45575847 : Nat), (0 : Nat)), (0x4C435847, 4096)],
    hostBytes { host := sputRun 0 [] 64 (bytesOf 256 [(0, 4, x.1), (4, 2, 1), (8, 4, x.2)]) } 64 256
      = bytesOf 256 [(0, 4, x.1), (4, 2, 1), (8, 4, x.2)] ∧ (64 : Nat) % 64 = 0 ∧
    (ordered 6 64 {}).weir.sessions.length + 1 ≤ (ordered 6 64 {}).weir.room ∧ (ordered 6 64 {}).weir.waiting.length < 8 := by
  decide +kernel

theorem test_weir_commands : 63 < Config.parts owned.part ∧ (ordered 1 0 {}).weir.session 63 = none ∧
    (ordered 1 0 {}).weir.sessions.length + 4 ≤ (ordered 1 0 {}).weir.room ∧ (ordered 1 0 {}).weir.waiting.length < 8 ∧
    (ordered 1 0 { sessions := [weirSession] }).weir.session 63 = some weirSession ∧ Config.parts owned.part ≤ 64 ∧
    (ordered 3 9 { log := [(9, zeros 160)] }).weir.log.find? (fun e => e.1 = 9 % 2 ^ 32) = some (9, zeros 160) ∧
    (ordered 3 9 {}).weir.log.find? (fun e => e.1 = 9 % 2 ^ 32) = none ∧ 9 % 2 ^ 32 ≤ (ordered 4 9 { highRead := 9 }).weir.highRead ∧
    (ordered 4 9 { highRead := 8 }).weir.highRead < 9 % 2 ^ 32 ∧ ({} : WeirIn).jumper = false ∧
    (ordered 6 64 {}).weir.sealCount < 0xFFFF ∧ (64 : Nat) % 64 = 0 := by decide +kernel

theorem test_weir_log_full :
    State.weirLink (ordered 1 0 { log := (upFrom 0 4093).map fun k => (k, []) }) = true ∧
    WeirSt.room { log := (upFrom 0 4093).map fun k => (k, []) } < ([] : List WeirSession).length + 4 := by decide +kernel

/-- A calibration image of a page, and a firmware image of none, pass their checks when key and signature are good. -/
def weirHeader (magic len : Nat) : List Byte := bytesOf 256 [(0, 4, magic), (4, 2, 1), (8, 4, len)]

theorem test_weir_image (magic len : Nat) (body : List Byte) (hm : (magic, len) ∈ [(0x45575847, 0), (0x4C435847, 4096)])
    (h1 : Config.sha384 (slice (weirHeader magic len) 16 96) = Config.weirRoot)
    (h2 : Config.ecdsaOk (slice (weirHeader magic len) 16 96) (Config.sha384 (slice (weirHeader magic len) 0 112 ++ body))
      (slice (weirHeader magic len) 112 96) = true) :
    weirImageOk (weirHeader magic len) body magic = true ∧ leAt (weirHeader magic len) 8 4 = len := by
  have h : ∀ x ∈ [((0x45575847 : Nat), (0 : Nat)), (0x4C435847, 4096)],
      (decide (leAt (weirHeader x.1 x.2) 0 4 = x.1) && decide (leAt (weirHeader x.1 x.2) 4 2 = 1)
        && decide (leAt (weirHeader x.1 x.2) 6 1 = 0) && zeroAt (weirHeader x.1 x.2) 12 4 && zeroAt (weirHeader x.1 x.2) 208 48) = true ∧
      leAt (weirHeader x.1 x.2) 8 4 = x.2 := by decide +kernel
  obtain ⟨h3, h4⟩ := h _ hm
  exact ⟨by simp only [weirImageOk, h3, h1, h2, decide_true, Bool.and_self], h4⟩

theorem test_weir_by_itself : (ordered 0 0 { waiting := [waitingRec 0] }).weir.waiting = waitingRec 0 :: [] ∧
    (ordered 0 0 { waiting := [waitingRec 0] }).weir.commit = none ∧ (ordered 0 0 {}).weir.fault = false ∧
    (ordered 0 0 {}).weir.powered = true ∧ ({ uj := 3600 } : WeirIn).uj = 3600 ∧ ({ uj := 3599 } : WeirIn).uj < 3600 ∧
    (ordered 0 0 {}).weir.deferring = false ∧ (ordered 0 0 {}).weirLink = true ∧
    (ordered 0 0 { waiting := [waitingRec 0], commit := some 1 }).weir.commit = some 1 ∧
    (set (ordered 0 0 { sessions := [weirSession] }) [(F.WEIR_INTERVAL_MIN, 0, 0, 1)]).fld F.WEIR_INTERVAL_MIN 0 0 ≠ 0 ∧
    weirSession.since + (set owned [(F.WEIR_INTERVAL_MIN, 0, 0, 1)]).fld F.WEIR_INTERVAL_MIN 0 0 * 60000
      ≤ (ordered 0 0 {}).weir.wtime + ({ ms := 60000 } : WeirIn).ms ∧
    (set owned [(F.WEIR_LINK, 0, 0, 0)]).weirLink = false ∧ (set owned [(F.WEIR_LINK, 0, 0, 0)]).weir.powered = true ∧
    (ordered 0 0 { powered := false }).weir.powered = false ∧ (ordered 0 0 { powered := false }).top.standby = true ∧
    (ordered 0 0 { powered := false }).weir.sessions.length + 1 ≤ (ordered 0 0 { powered := false }).weir.room := by decide +kernel

theorem test_management : owned.top.standby = true ∧ 3 ≤ owned.fld F.TOP_STAGE 0 0 ∧
    ({ owned with top := { owned.top with standby := false } } : State).top.standby = false ∧ owned.firmware = true ∧
    (staged 0 1).fld F.TOP_STAGE 0 0 < 3 ∧ (staged 0 1).top.standby = true ∧ (staged 0 1).firmware = false ∧
    owned.debugOn = false ∧ (set owned [(F.SEC_DEBUG, 0, 0, 1)]).debugOn = true ∧
    (set owned [(F.SEC_DEBUG, 0, 0, 1)]).firmware = true := by decide +kernel


/-! ### Values from the spec's worked examples -/

/-- The staging buffer of R169's example: tier 0, channel 7, offset 0x24_6678, by the far view and by the near one. -/
theorem test_memory_hash : dpaRoute .gx4 0x12345678 = some (7, 0x246678) ∧
    dpaRoute .gx4 0x200048D3678 = some (7, 0x246678) := by decide +kernel

/-- The windows of the example of spec/19: a cap of 900 W at level 16 reading 1480, 935 and 872 W. -/
theorem test_power_windows : powerStep false 6 1480 900 16 6 = (9, 6) ∧ powerStep false 6 935 900 9 6 = (8, 6) ∧
    powerStep false 6 872 900 8 6 = (8, 6) := by decide +kernel

/-- The scale entry of the example of spec/02, read transposed (R40). -/
theorem test_transposed_entry : transposeEntry (toLe 8 0x3DFEF9E482) = toLe 8 0x3FFEF96482 := by decide +kernel

/-- An IPv4 flow with FSR_MTU 9000 has an MSS of 8896 (R242). -/
theorem test_mss : ({ setup := bytesOf 64 [(14, 2, 9000)] } : FlowCtx).mss = 8896 := by decide +kernel

/-- The replaced elements of the example of spec/02, in a block of zeros. -/
def sparseBlock : List Nat := (upFrom 0 256).map fun k =>
  if k = 51 then 0x417E6666 else if k = 100 then 0x40466666 else if k = 13 then 0x3F8C0000 else
  if k = 92 then 0x3C23D70A else if k = 93 then 0x39D1B717 else if k = 204 then 0x80000000 else 0

/-- Their codes, the scale entry that their sub-blocks give, one saturated and one flushed (R41, R43). -/
theorem test_quantise : [51, 100, 13, 92, 93, 204].map (fun k => (quantise (elemFmt 4) 0xFE sparseBlock).codes.getD k 0)
      = [0x7F, 0x79, 0x72, 0x0A, 0x00, 0x80] ∧
    (quantise (elemFmt 4) 0xFE sparseBlock).entry = toLe 8 0xC8C082 ∧ (quantise (elemFmt 4) 0xFE sparseBlock).sat = 1 ∧
    (quantise (elemFmt 4) 0xFE sparseBlock).flush = 1 := by decide +kernel

/-- A step of cluster time moves a ramp that has begun with it, starts one that it passes, and leaves a later one (R291). -/
theorem test_ramps_stepped : (Barrier.stepped { start := 640 } 700 5000).start = 4940 ∧
    (Barrier.stepped { start := 1280 } 700 5000).start = 5000 ∧ (Barrier.stepped { start := 6400 } 700 5000).start = 6400 := by
  decide +kernel

end Sys2Proof.Tests
end

/-! Obligation O35, the Ethernet ports: an accepted write of a port's configuration does what R266 and R268 ask on each of the
eight physical ports of R265, and the statement, which bounds no port number, fails for one out of that range. -/

namespace Sys2Proof.Machine

/-! ### What an event leaves of the register file -/

/-- What changes neither the register file nor the part leaves what every register reads. -/
theorem State.regN_of_changes {s t : State} {l : List Comp} (h : s.changes l t) (hr : .regs ∉ l) (hp : .part ∉ l)
    (r : Reg) (v i : Nat) : t.regN r v i = s.regN r v i :=
  State.regN_congr (h .regs hr) (h .part hp) r v i

theorem State.msixSend_regN (s : State) (fn vec : Nat) {r : Reg} {v i : Nat} (h : regKey r v i ≠ regKey .msixPba fn 0) :
    (s.msixSend fn vec).regN r v i = s.regN r v i := by
  unfold State.msixSend
  split
  · rfl
  · split
    · exact State.regN_setRegN_ne _ _ _ _ _ _ _ _ h
    · rw [State.regN_of_changes (State.count_changes _ _ _ _ _) (by decide) (by decide),
        State.regN_of_changes (State.emit_changes _ _) (by decide) (by decide)]

theorem State.vecRecord_regN (s : State) (fn vec : Nat) (irq : Bool) {r : Reg} {v i : Nat}
    (h : regKey r v i ≠ regKey .msixPba fn 0) : (s.vecRecord fn vec irq).regN r v i = s.regN r v i := by
  unfold State.vecRecord
  dsimp only
  split
  · rfl
  · split
    · rw [State.msixSend_regN _ _ _ h, State.regN_of_changes (State.setVec_changes _ _ _ _) (by decide) (by decide)]
    · exact State.regN_of_changes (State.setVec_changes _ _ _ _) (by decide) (by decide) _ _ _

/-- An event writes no register but the event queue's tail and count of losses, and the pending bits of the vectors. -/
theorem State.eventTo_regN (s : State) (fn src code : Nat) (d : List Byte) {r : Reg} {v i : Nat}
    (hl : regKey r v i ≠ regKey .queEqLost fn 0) (ht : regKey r v i ≠ regKey .queEqIdx fn 0)
    (hm : regKey r v i ≠ regKey .msixPba fn 0) : (s.eventTo fn src code d).regN r v i = s.regN r v i := by
  unfold State.eventTo
  dsimp only
  split
  · unfold State.loseEvent
    rw [State.regN_of_changes (State.setRing_changes _ _ _ _) (by decide) (by decide)]
    exact State.regN_setFld_other s F.QUE_EQ_LOST r fn 0 v i _ hl
  · split
    · exact State.regN_of_changes (s.countUnwritten_changes fn) (by decide) (by decide) _ _ _
    · rw [State.vecRecord_regN _ _ _ _ hm, State.regN_setFld_other _ F.QUE_EQ_TAIL r fn 0 v i _ ht,
        State.regN_of_changes (State.setRing_changes _ _ _ _) (by decide) (by decide),
        State.regN_of_changes (State.emitFn_changes _ _ _) (by decide) (by decide)]

/-! ### The state of a logical port -/

@[simp] theorem State.lp_setLp_same (s : State) (n : Nat) (x : LpSt) : (s.setLp n x).lp n = x :=
  sget_sput_same _ _ _ _

theorem State.lp_setLp_ne (s : State) {n j : Nat} (x : LpSt) (h : j ≠ n) : (s.setLp n x).lp j = s.lp j :=
  sget_sput_ne _ _ _ _ h

/-- What leaves the ports alone leaves the state of each logical port. -/
theorem State.lp_of_changes {s t : State} {l : List Comp} (h : s.changes l t) (hm : .mac ∉ l) (j : Nat) : t.lp j = s.lp j := by
  have hmac : t.mac = s.mac := h .mac hm
  simp only [State.lp, hmac]

theorem State.setLp_changes (s : State) (n : Nat) (x : LpSt) : s.changes [.mac] (s.setLp n x) := by
  intro c hc
  cases c with
  | mac => exact absurd (by decide) hc
  | _ => rfl

/-! ### A link that falls (R269) -/

theorem State.portEvent_changes (s : State) (lp up : Nat) :
    s.changes [.emitted, .regs, .prt, .que, .pmc] (s.portEvent lp up) := s.eventPf_changes _ _

theorem State.macErr_changes (s : State) (b lp prio held : Nat) : s.changes [.regs] (s.macErr b lp prio held) :=
  s.errOne_changes _ _ _ _ _ _

/-- All that follows the port's own state when its link falls leaves every port's state. -/
theorem State.linkFall_after_changes (s : State) (lp : Nat) :
    s.changes [.emitted, .regs, .prt, .que, .pmc] (((s.setFld F.MAC_LPI_ACTIVE 0 lp 0).macErr 1 lp 0 0).portEvent lp 0) :=
  State.changes_trans (State.changes_mono (by simp) (s.setFld_changes _ _ _ _))
    (State.changes_trans (State.changes_mono (by simp) (State.macErr_changes _ _ _ _ _)) (State.portEvent_changes _ _ _))

theorem State.linkFall_changes (s : State) (lp : Nat) :
    s.changes [.emitted, .regs, .prt, .que, .pmc, .mac] (s.linkFall lp) := by
  unfold State.linkFall
  exact State.changes_ite
    (State.changes_trans (State.changes_mono (by simp) (s.setLp_changes lp _))
      (State.changes_mono (by simp) (State.linkFall_after_changes _ lp)))
    (s.changes_refl _)

/-- A link that fell is down. -/
theorem State.linkFall_up (s : State) (lp : Nat) : ((s.linkFall lp).lp lp).up = false := by
  unfold State.linkFall
  dsimp only
  split
  · rw [State.lp_of_changes (State.linkFall_after_changes _ lp) (by decide), State.lp_setLp_same]
  · next h => exact Bool.eq_false_iff.mpr h

theorem State.linkFall_lp_ne (s : State) {lp j : Nat} (h : j ≠ lp) : (s.linkFall lp).lp j = s.lp j := by
  unfold State.linkFall
  dsimp only
  split
  · rw [State.lp_of_changes (State.linkFall_after_changes _ lp) (by decide), State.lp_setLp_ne _ _ h]
  · rfl

/-- The fall of a link leaves the configuration of every port that exists. -/
theorem State.linkFall_macPortCfg (s : State) {lp n : Nat} (hlp : lp < 16) (hn : n < 8) :
    (s.linkFall lp).regN .macPortCfg 0 n = s.regN .macPortCfg 0 n := by
  have other : ∀ {r : Reg} {i : Nat}, i < 16 → r.ctorIdx ≠ Reg.macPortCfg.ctorIdx → regKey .macPortCfg 0 n ≠ regKey r 0 i :=
    fun hi hr h => hr ((regKey_inj (by omega) (by omega) (by omega) (by omega)).mp h).1.symm
  unfold State.linkFall
  dsimp only
  split
  · unfold State.portEvent State.eventPf State.macErr
    rw [State.eventTo_regN _ _ _ _ _ (other (by omega) (by decide)) (other (by omega) (by decide))
        (other (by omega) (by decide)),
      State.errOne_other _ _ _ _ _ _ _ _ _ _ (other (by omega) (by decide)) (other (by omega) (by decide)),
      State.regN_setFld_other _ F.MAC_LPI_ACTIVE _ 0 lp 0 n _ (other hlp (by decide)),
      State.regN_of_changes (State.setLp_changes _ _ _) (by decide) (by decide)]
  · rfl

/-! ### A write of a port's configuration (R266, R268) -/

/-- The bits that a write of MAC_PORT_CFG takes hold every field that its acceptance depends on. -/
theorem bit_portMask (value : Nat) {i : Nat} (h : i < 2) : bit (value &&& 0xFFF3) i = bit value i := by
  have hmask : ∀ i < 2, (0xFFF3 : Nat).testBit i = true := by decide
  have key : ∀ w : Nat, bit w i = w.testBit i := fun w => by
    simp only [bit, Nat.testBit_eq_decide_div_mod_eq, Nat.shiftRight_eq_div_pow]
  rw [key, key, Nat.testBit_and, hmask i h, Bool.and_true]

theorem bits_portMask (value : Nat) : bits (value &&& 0xFFF3) 7 4 = bits value 7 4 := by
  have hmask : ∀ i < 4, (0xFFF3 : Nat).testBit (4 + i) = true := by decide
  refine Nat.eq_of_testBit_eq fun i => ?_
  simp only [bits, Nat.testBit_mod_two_pow, Nat.testBit_shiftRight, Nat.testBit_and]
  by_cases h : i < 4
  · rw [hmask i h, Bool.and_true]
  · simp [h]

/-- A write that is not refused stores what it takes, and takes the links of a port down that it leaves disabled or without
a PHY type. -/
theorem doMacPortCfgWrite_accepted (n value : Nat) (s : State)
    (hsame : bit (s.regN .macPortCfg 0 n) 0 = true → (value &&& 0xFFF3) / 2 = s.regN .macPortCfg 0 n / 2)
    (hphy : bit (s.regN .macPortCfg 0 n) 0 = false → bit value 0 = true →
      phyMatches (bits value 7 4) (bit value 1) = true) :
    doMacPortCfgWrite n value s =
      if bit value 0 = true ∧ bits value 7 4 ≠ 0 then s.setRegN .macPortCfg 0 n (value &&& 0xFFF3)
      else ((s.setRegN .macPortCfg 0 n (value &&& 0xFFF3)).linkFall (2 * n)).linkFall (2 * n + 1) := by
  unfold doMacPortCfgWrite
  simp only [bit_portMask value (show 0 < 2 by decide), bit_portMask value (show 1 < 2 by decide), bits_portMask]
  cases hold : bit (s.regN .macPortCfg 0 n) 0 with
  | true => simp [hsame hold]
  | false => cases hen : bit value 0 with
    | true => simp [hphy hold hen]
    | false => simp

/-- On each physical port of R265 an accepted write of the configuration does all that R266 and R268 ask: the two clauses of O35
that fail for a number out of range hold there. -/
theorem State.portWritten_of_accepted {n : Nat} (hn : n < 8) (value : Nat) (s : State)
    (hsame : bit (s.regN .macPortCfg 0 n) 0 = true → (value &&& 0xFFF3) / 2 = s.regN .macPortCfg 0 n / 2)
    (hphy : bit (s.regN .macPortCfg 0 n) 0 = false → bit value 0 = true →
      phyMatches (bits value 7 4) (bit value 1) = true) : s.portWritten n value := by
  have hexec : exec (.macPortCfgWrite n value) s = .next (doMacPortCfgWrite n value s) := rfl
  rw [doMacPortCfgWrite_accepted n value s hsame hphy] at hexec
  have hlt : (value &&& 0xFFF3) % 2 ^ 64 = value &&& 0xFFF3 :=
    Nat.mod_eq_of_lt (Nat.lt_of_le_of_lt Nat.and_le_right (by decide))
  have hstored : (s.setRegN .macPortCfg 0 n (value &&& 0xFFF3)).regN .macPortCfg 0 n = value &&& 0xFFF3 := by
    rw [State.regN_setRegN_same, hlt]
  refine ⟨_, hexec, ?_⟩
  by_cases hup : bit value 0 = true ∧ bits value 7 4 ≠ 0
  · rw [if_pos hup]
    refine ⟨hstored, fun _ => ⟨fun r v i h => ?_, s.setRegN_changes _ _ _ _⟩, fun h => ?_,
      State.changes_mono (by simp) (s.setRegN_changes _ _ _ _)⟩
    · exact State.regN_setRegN_ne _ _ _ _ _ _ _ _ (by simpa using h)
    · rcases h with h | h
      · exact absurd (h.symm.trans hup.1) (by decide)
      · exact absurd h hup.2
  · rw [if_neg hup]
    refine ⟨?_, fun h => absurd h hup, fun _ => ⟨?_, State.linkFall_up _ _⟩, ?_⟩
    · rw [State.linkFall_macPortCfg _ (by omega) hn, State.linkFall_macPortCfg _ (by omega) hn, hstored]
    · rw [State.linkFall_lp_ne _ (by omega)]
      exact State.linkFall_up _ _
    · exact State.changes_trans (State.changes_mono (by simp) (s.setRegN_changes _ _ _ _))
        (State.changes_trans (State.linkFall_changes _ _) (State.linkFall_changes _ _))

/-! ### A port number out of range -/

/-- MAC_PORT_CFG of the number 2 ^ 20, which no port has, is the register that holds MAC_ERR_STS: a register's key leaves room for
8192 numbers in each of 128 views, and MAC_ERR_STS follows MAC_PORT_CFG. -/
theorem State.regN_macPortCfg_out_of_range (s : State) : s.regN .macPortCfg 0 (2 ^ 20) = s.regN .macErrSts 0 0 := by
  have hkey : regKey .macPortCfg 0 (2 ^ 20) = regKey .macErrSts 0 0 := by decide
  have hreset : regReset s.part .macPortCfg = regReset s.part .macErrSts := by cases s.part <;> rfl
  simp only [State.regN, State.reg, hkey, hreset]

/-- The reset state with a link up on the first logical port that the number 2 ^ 20 would have. -/
def strayLink : State := { State.reset with mac := { lps := [(2 ^ 21, { up := true })] } }

/-- Disabling that port stores 0, and the link that it takes down then sets MAC_E_LINK in the same register. -/
theorem macErrSts_disable_strayLink :
    (doMacPortCfgWrite (2 ^ 20) 0 strayLink).regN .macErrSts 0 0 = 2 := by decide +kernel

/-- Refutes O35: no clause on a write of MAC_PORT_CFG bounds the port's number. Number 2 ^ 20 names the register of MAC_ERR_STS,
so a write of 0 to it, with its link up, reads back as the MAC_E_LINK of the link that fell and not as what was written. -/
theorem not_portsAndLinks : ¬ Obligations.PortsAndLinks := by
  unfold Obligations.PortsAndLinks
  rintro ⟨⟨-, -, hwrite, -⟩, -⟩
  have hdisabled : bit (strayLink.regN .macPortCfg 0 (2 ^ 20)) 0 = false := by decide +kernel
  obtain ⟨t, hexec, hstored, -⟩ := hwrite (2 ^ 20) 0 strayLink hdisabled (.inl (by decide))
  obtain rfl : doMacPortCfgWrite (2 ^ 20) 0 strayLink = t := Host.Outcome.next.inj hexec
  rw [State.regN_macPortCfg_out_of_range, macErrSts_disable_strayLink] at hstored
  exact absurd hstored (by decide)

end Sys2Proof.Machine

/-! Obligation O39, the barriers of the Clepsydra (R294, R298 to R300): what arming, releasing and ending a barrier do, what a
write of CLP_BAR_CTRL then does with its two bits, and the commands from these. -/

namespace Sys2Proof.Machine

/-! ### Single bits of a word -/

theorem bit_eq_bits (w i : Nat) : bit w i = decide (bits w i i = 1) := by
  simp only [bit, bits, Nat.add_sub_cancel_left, Nat.pow_one]

theorem bit_setBits_one (w i : Nat) : bit (setBits w i i 1) i = true := by
  rw [bit_eq_bits, bits_setBits_same _ _ _ _ (Nat.le_refl i), Nat.add_sub_cancel_left]
  rfl

theorem bit_setBits_ne (w v : Nat) {i j : Nat} (h : j ≠ i) : bit (setBits w i i v) j = bit w j := by
  simp only [bit_eq_bits]
  rcases Nat.lt_or_gt_of_ne h with h | h
  · rw [bits_setBits_below _ _ _ _ _ _ (Nat.le_refl i) (Nat.le_refl j) h]
  · rw [bits_setBits_above _ _ _ _ _ _ (Nat.le_refl i) h]

theorem mem_upFrom {p a n : Nat} : p ∈ upFrom a n ↔ a ≤ p ∧ p < a + n := by
  induction n generalizing a with
  | zero => simp [upFrom]
  | succ n ih => rw [upFrom, List.mem_cons, ih]; omega

/-! ### Frames -/

theorem State.withClp_changes (s : State) (f : ClpSt → ClpSt) : s.changes [.clp] (s.withClp f) := by
  intro c hc
  cases c with
  | clp => exact absurd (by decide) hc
  | _ => rfl

theorem State.changesRegs_of_changes {s t : State} {l : List Comp} (h : s.changes l t) (hr : .regs ∉ l) (hp : .part ∉ l)
    (rs : List (Reg × Nat × Nat)) : s.changesRegs rs t :=
  fun r v i _ => State.regN_of_changes h hr hp r v i

theorem State.setFld_changesRegs (s : State) (f : Fld) (v i w : Nat) : s.changesRegs [(f.reg, v, i)] (s.setFld f v i w) :=
  fun _ _ _ h => State.regN_setFld_other _ _ _ _ _ _ _ _ (by simpa using h)

/-! ### The registers of a barrier -/

@[simp] theorem State.barState_setFld_same (s : State) (v b w : Nat) :
    (s.setFld F.CLP_BAR_STATE v b w).fld F.CLP_BAR_STATE v b = w % 4 :=
  State.fld_setFld_same s F.CLP_BAR_STATE v b w (by decide) (by decide)

@[simp] theorem State.barResult_setFld_same (s : State) (v b w : Nat) :
    (s.setFld F.CLP_BAR_RESULT v b w).fld F.CLP_BAR_RESULT v b = w % 256 :=
  State.fld_setFld_same s F.CLP_BAR_RESULT v b w (by decide) (by decide)

@[simp] theorem State.barState_setFld_barResult (s : State) (v b w : Nat) :
    (s.setFld F.CLP_BAR_RESULT v b w).fld F.CLP_BAR_STATE v b = s.fld F.CLP_BAR_STATE v b :=
  State.fld_setFld_disj s F.CLP_BAR_RESULT F.CLP_BAR_STATE v b w rfl (by decide) (by decide) (by decide) (by decide)

@[simp] theorem State.barResult_setFld_barState (s : State) (v b w : Nat) :
    (s.setFld F.CLP_BAR_STATE v b w).fld F.CLP_BAR_RESULT v b = s.fld F.CLP_BAR_RESULT v b :=
  State.fld_setFld_disj s F.CLP_BAR_STATE F.CLP_BAR_RESULT v b w rfl (by decide) (by decide) (by decide) (by decide)

@[simp] theorem State.barrier_setFld (s : State) (f : Fld) (v i w part b : Nat) :
    (s.setFld f v i w).barrier part b = s.barrier part b := rfl

@[simp] theorem State.barrier_setBarrier_same (s : State) (part b : Nat) (x : Barrier) :
    (s.setBarrier part b x).barrier part b = x := sget_sput_same _ _ _ _

theorem State.setBarrier_changes (s : State) (part b : Nat) (x : Barrier) : s.changes [.clp] (s.setBarrier part b x) :=
  s.withClp_changes _

/-! ### Errors of the Clepsydra, and the entries of its table -/

/-- An error leaves every register that is neither its status nor its capture in one of the views. -/
theorem State.errIn_other (s : State) (sts first r : Reg) (b cap : Nat) (vs : List Nat) (i v' i' : Nat)
    (h : ∀ v ∈ vs, regKey r v' i' ≠ regKey sts v i ∧ regKey r v' i' ≠ regKey first v i) :
    (s.errIn sts first b cap vs i).regN r v' i' = s.regN r v' i' := by
  induction vs generalizing s with
  | nil => rfl
  | cons v vs ih =>
    obtain ⟨hsts, hfirst⟩ := h v List.mem_cons_self
    exact (ih (s.errOne sts first b cap v i) fun w hw => h w (List.mem_cons_of_mem _ hw)).trans
      (State.errOne_other _ _ _ _ _ _ _ _ _ _ hsts hfirst)

theorem State.clpErr_changes (s : State) (b part kind owner : Nat) (o : Int) :
    s.changes [.regs] (s.clpErr b part kind owner o) := s.errIn_changes _ _ _ _ _ _

/-- The views in which an error of a partition shows: the physical function's, and perhaps its own. -/
theorem State.clpErr_views (s : State) (part : Nat) :
    (if part < 64 then s.views part else [0]) = [0] ∨ (if part < 64 then s.views part else [0]) = [0, part + 1] := by
  unfold State.views
  split
  · split
    · exact .inr rfl
    · exact .inl rfl
  · exact .inl rfl

/-- An error of the Clepsydra leaves CLP_BAR_CTRL of every barrier. -/
theorem State.clpErr_barCtrl (s : State) (c kind owner : Nat) (o : Int) {part v b : Nat} (hp : part < 127) (hv : v < 128)
    (hb : b < 8192) : (s.clpErr c part kind owner o).regN .clpBarCtrl v b = s.regN .clpBarCtrl v b := by
  have other : ∀ {r : Reg} {w : Nat}, w < 128 → r.ctorIdx ≠ Reg.clpBarCtrl.ctorIdx → regKey .clpBarCtrl v b ≠ regKey r w 0 :=
    fun hw hr h => hr ((regKey_inj hv hw hb (by decide)).mp h).1.symm
  refine State.errIn_other _ _ _ _ _ _ _ _ _ _ fun w hw => ?_
  have hw : w < 128 := by
    rcases s.clpErr_views part with h | h <;> rw [h] at hw <;> simp at hw <;> omega
  exact ⟨other hw (by decide), other hw (by decide)⟩

theorem State.errOne_noEntry (s : State) (cap : Nat) :
    (s.errOne .clpErrSts .clpErrFirst 1 cap 0 0).fld F.CLP_E_NOENTRY 0 0 = 1 := by
  have hset : (s.errOne .clpErrSts .clpErrFirst 1 cap 0 0).regN .clpErrSts 0 0 = s.regN .clpErrSts 0 0 ||| 2 ^ 1 := by
    rw [State.errOne_sts, Nat.mod_eq_of_lt (Nat.or_lt_two_pow (s.regN_lt _ _ _) (by decide))]
  have hbit : (s.regN .clpErrSts 0 0 ||| 2 ^ 1).testBit 1 = true := by
    rw [Nat.testBit_or, Nat.testBit_two_pow_self, Bool.or_true]
  rw [Nat.testBit_eq_decide_div_mod_eq, decide_eq_true_eq] at hbit
  simp only [State.fld, F.CLP_E_NOENTRY, hset, bits, Nat.shiftRight_eq_div_pow]
  exact hbit

/-- A partition's error of cause 1 sets CLP_E_NOENTRY in the physical function's view. -/
theorem State.clpErr_noEntry (s : State) (kind owner : Nat) (o : Int) {part : Nat} (hp : part < 127) :
    (s.clpErr 1 part kind owner o).fld F.CLP_E_NOENTRY 0 0 = 1 := by
  unfold State.clpErr
  rcases s.clpErr_views part with h | h
  · rw [h]
    exact State.errOne_noEntry _ _
  · have other : ∀ r : Reg, regKey .clpErrSts 0 0 ≠ regKey r (part + 1) 0 := fun r h => by
      have := ((regKey_inj (by decide) (by omega) (by decide) (by decide)).mp h).2.1
      omega
    rw [h]
    exact (congrArg (bits · 1 1) (State.errOne_other _ _ _ _ _ _ _ _ _ _ (other _) (other _))).trans
      (State.errOne_noEntry _ _)

/-- Taking an entry changes the table, or the error registers where none is left. -/
theorem State.sevTake_changes (s : State) (part : Nat) (e : SevEnt) : s.changes [.regs, .clp] (s.sevTake part e).1 := by
  unfold State.sevTake
  dsimp only
  split
  · exact State.changes_mono (by simp) (s.clpErr_changes _ _ _ _ _)
  · split
    · exact State.changes_mono (by simp) (s.clpErr_changes _ _ _ _ _)
    · exact State.changes_mono (by simp) (s.withClp_changes _)

/-! ### Arming a barrier (R298) -/

theorem State.armBarrier_busy {s : State} {part b : Nat} (h : s.fld F.CLP_BAR_STATE (part + 1) b ≠ 0) :
    s.armBarrier part b = s.setFld F.CLP_BAR_RESULT (part + 1) b 3 := by
  simp only [State.armBarrier, if_pos h]

/-- Every pool that the barrier names is the partition's own; in a composed basin only the lead pool's bit counts. -/
def State.poolsOwned (s : State) (part b : Nat) : Prop :=
  ∀ p, p < 64 → bit (s.fld F.CLP_BAR_POOLS (part + 1) b) p = true → s.nonLead p = true ∨ s.owner p = some part

theorem State.poolsOwned_iff (s : State) (part b : Nat) : s.poolsOwned part b ↔
    ((upFrom 0 64).all fun p => !bit (s.fld F.CLP_BAR_POOLS (part + 1) b) p || s.nonLead p || s.owner p = some part) = true := by
  simp only [State.poolsOwned, List.all_eq_true, mem_upFrom, Bool.or_eq_true, Bool.not_eq_true', decide_eq_true_eq,
    Nat.zero_le, true_and, Nat.zero_add]
  refine forall₂_congr fun p _ => ?_
  cases bit (s.fld F.CLP_BAR_POOLS (part + 1) b) p <;> simp

theorem State.armBarrier_foreign {s : State} {part b : Nat} (h : s.fld F.CLP_BAR_STATE (part + 1) b = 0)
    (hp : ¬ s.poolsOwned part b) : s.armBarrier part b = s.setFld F.CLP_BAR_RESULT (part + 1) b 2 := by
  rw [State.poolsOwned_iff, Bool.not_eq_true] at hp
  simp only [State.armBarrier, h, hp, ne_eq, not_true_eq_false, if_false, Bool.not_false, if_true]

theorem State.armBarrier_noEntry {s : State} {part b : Nat} (h : s.fld F.CLP_BAR_STATE (part + 1) b = 0)
    (hp : s.poolsOwned part b) (hn : s.sevQuota part < s.sevUsed part + 2 ∨ 1024 < s.clp.sev.length + 2) :
    s.armBarrier part b = (s.clpErr 1 part 2 (sevOwner part) 0).setFld F.CLP_BAR_RESULT (part + 1) b 1 := by
  rw [State.poolsOwned_iff] at hp
  simp only [State.armBarrier, h, hp, if_pos hn, ne_eq, not_true_eq_false, if_false, Bool.not_true, Bool.false_eq_true]

/-- Arming an idle barrier takes entries, and leaves the barrier armed over the pools that its register names. -/
theorem State.armBarrier_armed {s : State} {part b : Nat} (h : s.fld F.CLP_BAR_STATE (part + 1) b = 0)
    (hp : s.poolsOwned part b) (hq : s.sevUsed part + 2 ≤ s.sevQuota part) (hl : s.clp.sev.length + 2 ≤ 1024) :
    ∃ u i j, s.changes [.regs, .clp] u ∧ s.armBarrier part b =
      ((u.setBarrier part b { pools := s.fld F.CLP_BAR_POOLS (part + 1) b, release := i, ramp := j }).setFld
        F.CLP_BAR_RESULT (part + 1) b 0).setFld F.CLP_BAR_STATE (part + 1) b 1 := by
  have hn : ¬ (s.sevQuota part < s.sevUsed part + 2 ∨ 1024 < s.clp.sev.length + 2) := by omega
  rw [State.poolsOwned_iff] at hp
  simp only [State.armBarrier, h, hp, if_neg hn, ne_eq, not_true_eq_false, if_false, Bool.not_true, Bool.false_eq_true]
  refine ⟨_, _, _, ?_, rfl⟩
  exact State.changes_trans (s.sevTake_changes _ _) (State.sevTake_changes _ _ _)

/-! ### Releasing a barrier (R299) -/

theorem State.rampPeriod_pos (s : State) : 0 < s.rampPeriod := by
  unfold State.rampPeriod
  cases s.part <;> decide

/-- A ramp begins at a multiple of the period. -/
theorem State.rampAt_mod (s : State) (t : Nat) : s.rampAt t % s.rampPeriod = 0 := Nat.mul_mod_left _ _

theorem State.le_rampAt (s : State) (t : Nat) : t ≤ s.rampAt t := by
  have hpos := s.rampPeriod_pos
  have hdiv := Nat.lt_div_mul_add (a := t + s.rampPeriod - 1) hpos
  unfold State.rampAt cdiv
  omega

/-- No earlier multiple of the period will do. -/
theorem State.rampAt_lt (s : State) (t : Nat) : s.rampAt t < t + s.rampPeriod := by
  have hpos := s.rampPeriod_pos
  have hdiv := Nat.div_mul_le_self (t + s.rampPeriod - 1) s.rampPeriod
  unfold State.rampAt cdiv
  omega

@[simp] theorem State.releaseBarrier_state (s : State) (part b t : Nat) :
    (s.releaseBarrier part b t).fld F.CLP_BAR_STATE (part + 1) b = 2 := by
  unfold State.releaseBarrier
  rw [State.barState_setFld_same]

theorem State.releaseBarrier_barrier (s : State) (part b t : Nat) :
    (s.releaseBarrier part b t).barrier part b = { s.barrier part b with start := (s.rampAt t : Nat) } := by
  simp only [State.barrier, State.releaseBarrier, State.setFld_clp, State.withClp_clp, State.setBarrier, sget_sput_same]

/-- A release moves the time of the ramp's entry and of no other. -/
theorem State.releaseBarrier_sev (s : State) (part b t : Nat) {k : Nat} (h : k ≠ (s.barrier part b).ramp) :
    sget {} (s.releaseBarrier part b t).clp.sev k = sget {} s.clp.sev k := by
  simp only [State.releaseBarrier, State.setFld_clp, State.withClp_clp, State.setBarrier, sget_sput_ne _ _ _ _ h]

/-- What a release passes through: the barrier and the ramp's entry are stored before the state is. -/
theorem State.releaseBarrier_eq (s : State) (part b t : Nat) : ∃ u, s.changes [.clp] u ∧
    s.releaseBarrier part b t = u.setFld F.CLP_BAR_STATE (part + 1) b 2 :=
  ⟨_, State.changes_trans (s.setBarrier_changes _ _ _) (State.withClp_changes _ _), rfl⟩

/-- A frame for the Clepsydra and one barrier's state: what stores in the Clepsydra and then writes the state. -/
theorem State.changes_clp_barState {s u : State} (h : s.changes [.clp] u) (v b w : Nat) :
    s.changesRegs [(.clpBarCtrl, v, b)] (u.setFld F.CLP_BAR_STATE v b w) ∧
      s.changes [.regs, .clp] (u.setFld F.CLP_BAR_STATE v b w) :=
  ⟨State.changesRegs_trans (State.changesRegs_of_changes h (by decide) (by decide) _)
      (u.setFld_changesRegs F.CLP_BAR_STATE _ _ _),
    State.changes_trans (State.changes_mono (by simp) h) (State.changes_mono (by simp) (u.setFld_changes _ _ _ _))⟩

theorem State.releaseBarrier_changes (s : State) (part b t : Nat) :
    s.changesRegs [(.clpBarCtrl, part + 1, b)] (s.releaseBarrier part b t) ∧
      s.changes [.regs, .clp] (s.releaseBarrier part b t) := by
  obtain ⟨u, hu, heq⟩ := s.releaseBarrier_eq part b t
  rw [heq]
  exact State.changes_clp_barState hu _ _ _

/-! ### A write of CLP_BAR_CTRL (R300) -/

/-- The cancel of a write: it releases an armed barrier, and does nothing to any other. -/
def State.cancelBarrier (s : State) (part b : Nat) : State :=
  if s.fld F.CLP_BAR_STATE (part + 1) b = 1 then s.releaseBarrier part b s.ns else s

theorem State.cancelBarrier_armed {s : State} {part b : Nat} (h : s.fld F.CLP_BAR_STATE (part + 1) b = 1) :
    s.cancelBarrier part b = s.releaseBarrier part b s.ns := if_pos h

theorem State.cancelBarrier_other {s : State} {part b : Nat} (h : s.fld F.CLP_BAR_STATE (part + 1) b ≠ 1) :
    s.cancelBarrier part b = s := if_neg h

/-- A cancel leaves a barrier idle only if it was. -/
theorem State.cancelBarrier_state_ne {s : State} {part b : Nat} (h : s.fld F.CLP_BAR_STATE (part + 1) b ≠ 0) :
    (s.cancelBarrier part b).fld F.CLP_BAR_STATE (part + 1) b ≠ 0 := by
  by_cases h1 : s.fld F.CLP_BAR_STATE (part + 1) b = 1
  · rw [State.cancelBarrier_armed h1, State.releaseBarrier_state]
    decide
  · rwa [State.cancelBarrier_other h1]

theorem exec_clpBarArm_eq (vf b value : Nat) (s : State) :
    exec (.clpBarArm vf b value) s = .next (s.barCtrl vf b (setBits value 0 0 1)) := rfl

theorem exec_clpBarCancel_eq (vf b value : Nat) (s : State) :
    exec (.clpBarCancel vf b value) s = .next (s.barCtrl vf b (setBits value 1 1 1)) := rfl

section
variable {s : State} {part b : Nat} (ho : s.fnOpen (part + 1) = true)
include ho

/-- The cancel of a write comes first, then the arm. -/
theorem State.barCtrl_open (value : Nat) : s.barCtrl (part + 1) b value =
    let u := if bit value 1 then s.cancelBarrier part b else s
    if bit value 0 then u.armBarrier part b else u := by
  simp only [State.barCtrl, State.cancelBarrier, ho, Nat.add_one_ne_zero, Bool.not_true, Bool.false_eq_true, or_self, if_false,
    Nat.add_one_sub_one]
  cases bit value 1 <;> simp

theorem exec_clpBarArm {value : Nat} (hc : bit value 1 = false) :
    exec (.clpBarArm (part + 1) b value) s = .next (s.armBarrier part b) := by
  rw [exec_clpBarArm_eq, State.barCtrl_open ho, bit_setBits_one, bit_setBits_ne value 1 (by decide), hc]
  rfl

theorem exec_clpBarCancel {value : Nat} (ha : bit value 0 = false) :
    exec (.clpBarCancel (part + 1) b value) s = .next (s.cancelBarrier part b) := by
  rw [exec_clpBarCancel_eq, State.barCtrl_open ho, bit_setBits_one, bit_setBits_ne value 1 (by decide), ha]
  rfl

/-- One write of both bits, by whichever of the two commands: the arm applies to the state that the cancel leaves. -/
theorem exec_clpBar_both {value : Nat} {c : Instr}
    (hc : c = .clpBarCancel (part + 1) b value ∧ bit value 0 = true ∨ c = .clpBarArm (part + 1) b value ∧ bit value 1 = true) :
    exec c s = .next ((s.cancelBarrier part b).armBarrier part b) := by
  rcases hc with ⟨rfl, ha⟩ | ⟨rfl, hb⟩
  · rw [exec_clpBarCancel_eq, State.barCtrl_open ho, bit_setBits_one, bit_setBits_ne value 1 (by decide), ha]
    rfl
  · rw [exec_clpBarArm_eq, State.barCtrl_open ho, bit_setBits_one, bit_setBits_ne value 1 (by decide), hb]
    rfl

end

/-! ### The ramp and its end (R294, R299) -/

section
variable {s : State} {part b : Nat}

theorem exec_barrierRelease (h : s.fld F.CLP_BAR_STATE (part + 1) b = 1) (hd : s.sevDue (s.barrier part b).release = true) :
    exec (.barrierRelease (part + 1) b) s = .next (s.releaseBarrier part b s.ns) := by
  show Host.Outcome.next (doBarrierRelease (part + 1) b s) = _
  simp only [doBarrierRelease, Nat.add_one_ne_zero, Nat.add_one_sub_one, h, hd, decide_true, Bool.and_self, if_true, if_false]

variable (h : s.fld F.CLP_BAR_STATE (part + 1) b = 2) (hd : s.rampDue part b = true)
include h hd

theorem exec_rampGroupStart {g : Nat} (ht : (s.barrier part b).start + 40 * g ≤ (s.ns : Int))
    (hg : g ∉ (s.barrier part b).open_) :
    exec (.rampGroupStart (part + 1) b g) s =
      .next (s.setBarrier part b { s.barrier part b with open_ := (s.barrier part b).open_ ++ [g] }) := by
  show Host.Outcome.next (doRampGroupStart (part + 1) b g s) = _
  simp only [doRampGroupStart, Nat.add_one_ne_zero, Nat.add_one_sub_one, h, hd, ht, hg, not_false_eq_true, decide_true,
    Bool.and_self, if_true, if_false]

theorem exec_rampEnd (ht : (s.barrier part b).start + s.rampPeriod ≤ (s.ns : Int)) :
    exec (.rampEnd (part + 1) b) s = .next (s.endBarrier part b) := by
  show Host.Outcome.next (doRampEnd (part + 1) b s) = _
  simp only [doRampEnd, Nat.add_one_ne_zero, Nat.add_one_sub_one, h, hd, ht, decide_true, Bool.and_self, if_true, if_false]

end

/-- What ends a barrier clears its two entries and then itself in the Clepsydra, and its state last. -/
theorem State.endBarrier_busy {s : State} {part b : Nat} (h : s.fld F.CLP_BAR_STATE (part + 1) b ≠ 0) :
    s.endBarrier part b = ((s.withClp fun c => { c with
        sev := sput {} (sput {} c.sev (s.barrier part b).release {}) (s.barrier part b).ramp {} }).setBarrier part b {}).setFld
      F.CLP_BAR_STATE (part + 1) b 0 := if_neg h

/-- A returned entry reads as free, whichever of the two was returned last. -/
theorem sget_sput_sput_default {α : Type} [DecidableEq α] (d : α) (m : List (Nat × α)) (i j : Nat) :
    sget d (sput d (sput d m i d) j d) i = d := by
  by_cases h : i = j
  · rw [h, sget_sput_same]
  · rw [sget_sput_ne _ _ _ _ h, sget_sput_same]

theorem State.endBarrier_sev {s : State} {part b : Nat} (h : s.fld F.CLP_BAR_STATE (part + 1) b ≠ 0) :
    (s.endBarrier part b).clp.sev
      = sput {} (sput {} s.clp.sev (s.barrier part b).release {}) (s.barrier part b).ramp {} := by
  rw [State.endBarrier_busy h]
  rfl

theorem State.endBarrier_idle {s : State} {part b : Nat} (h : s.fld F.CLP_BAR_STATE (part + 1) b ≠ 0) :
    (s.endBarrier part b).fld F.CLP_BAR_STATE (part + 1) b = 0 ∧ (s.endBarrier part b).barrier part b = {} ∧
      sget {} (s.endBarrier part b).clp.sev (s.barrier part b).release = {} ∧
      sget {} (s.endBarrier part b).clp.sev (s.barrier part b).ramp = {} := by
  rw [State.endBarrier_sev h, State.endBarrier_busy h]
  refine ⟨State.barState_setFld_same _ _ _ _, ?_, sget_sput_sput_default _ _ _ _, sget_sput_same _ _ _ _⟩
  rw [State.barrier_setFld, State.barrier_setBarrier_same]

theorem State.endBarrier_changes {s : State} {part b : Nat} (h : s.fld F.CLP_BAR_STATE (part + 1) b ≠ 0) :
    s.changesRegs [(.clpBarCtrl, part + 1, b)] (s.endBarrier part b) ∧ s.changes [.regs, .clp] (s.endBarrier part b) := by
  rw [State.endBarrier_busy h]
  exact State.changes_clp_barState (State.changes_trans (s.withClp_changes _) (State.setBarrier_changes _ _ _ _)) _ _ _

/-! ### The statement -/

/-- A refused arm stores its code in CLP_BAR_RESULT and changes nothing else. -/
theorem State.setFld_barResult (s : State) (v b : Nat) {code : Nat} (h : code < 256) :
    (s.setFld F.CLP_BAR_RESULT v b code).fld F.CLP_BAR_RESULT v b = code ∧
      s.changesRegs [(.clpBarCtrl, v, b)] (s.setFld F.CLP_BAR_RESULT v b code) ∧
      s.changes [.regs] (s.setFld F.CLP_BAR_RESULT v b code) := by
  rw [State.barResult_setFld_same, Nat.mod_eq_of_lt h]
  exact ⟨rfl, s.setFld_changesRegs F.CLP_BAR_RESULT _ _ _, s.setFld_changes _ _ _ _⟩

section
variable {s : State} {part b : Nat}

theorem armBarrier_noEntry_outcome (hp : part < 127) (hb : b < 4) (h : s.fld F.CLP_BAR_STATE (part + 1) b = 0)
    (ho : s.poolsOwned part b) (hn : s.sevQuota part < s.sevUsed part + 2 ∨ 1024 < s.clp.sev.length + 2) :
    (s.armBarrier part b).fld F.CLP_BAR_RESULT (part + 1) b = 1 ∧ (s.armBarrier part b).fld F.CLP_BAR_STATE (part + 1) b = 0 ∧
      (s.armBarrier part b).fld F.CLP_E_NOENTRY 0 0 = 1 ∧ (s.armBarrier part b).clp = s.clp ∧
      s.changes [.regs] (s.armBarrier part b) := by
  rw [State.armBarrier_noEntry h ho hn]
  have herr : s.changes [.regs] (s.clpErr 1 part 2 (sevOwner part) 0) := s.clpErr_changes _ _ _ _ _
  have hne : regKey .clpErrSts 0 0 ≠ regKey .clpBarCtrl (part + 1) b := fun e => by
    have := ((regKey_inj (by decide) (by omega) (by decide) (by omega)).mp e).2.1
    omega
  refine ⟨State.barResult_setFld_same _ _ _ _, ?_, ?_, (State.setFld_clp _ _ _ _ _).trans (herr .clp (by decide)),
    State.changes_trans herr (State.setFld_changes _ _ _ _ _)⟩
  · rw [State.barState_setFld_barResult]
    exact (congrArg (bits · 31 30) (s.clpErr_barCtrl _ _ _ _ hp (by omega) (by omega))).trans h
  · exact (State.fld_setFld_other _ F.CLP_BAR_RESULT F.CLP_E_NOENTRY _ _ _ _ _ hne).trans (s.clpErr_noEntry _ _ _ hp)

theorem armBarrier_armed_outcome (h : s.fld F.CLP_BAR_STATE (part + 1) b = 0) (ho : s.poolsOwned part b)
    (hq : s.sevUsed part + 2 ≤ s.sevQuota part) (hl : s.clp.sev.length + 2 ≤ 1024) :
    (s.armBarrier part b).fld F.CLP_BAR_RESULT (part + 1) b = 0 ∧ (s.armBarrier part b).fld F.CLP_BAR_STATE (part + 1) b = 1 ∧
      ((s.armBarrier part b).barrier part b).pools = s.fld F.CLP_BAR_POOLS (part + 1) b ∧
      ((s.armBarrier part b).barrier part b).open_ = [] ∧ s.changes [.regs, .clp] (s.armBarrier part b) := by
  obtain ⟨u, i, j, hu, heq⟩ := State.armBarrier_armed h ho hq hl
  rw [heq]
  refine ⟨?_, State.barState_setFld_same _ _ _ _, ?_, ?_, State.changes_trans hu ?_⟩
  · rw [State.barResult_setFld_barState, State.barResult_setFld_same]
  · rw [State.barrier_setFld, State.barrier_setFld, State.barrier_setBarrier_same]
  · rw [State.barrier_setFld, State.barrier_setFld, State.barrier_setBarrier_same]
  · exact State.changes_trans (State.changes_mono (by simp) (u.setBarrier_changes _ _ _))
      (State.changes_trans (State.changes_mono (by simp) (State.setFld_changes _ _ _ _ _))
        (State.changes_mono (by simp) (State.setFld_changes _ _ _ _ _)))

/-- A write that cancels a barrier that is not armed and does not arm it is ignored, whatever function it names. -/
theorem exec_clpBarCancel_ignored {vf value : Nat} (h : s.fld F.CLP_BAR_STATE vf b ≠ 1) (ha : bit value 0 = false) :
    exec (.clpBarCancel vf b value) s = .next s := by
  by_cases hv : vf = 0 ∨ s.fnOpen vf = false
  · rw [exec_clpBarCancel_eq, State.barCtrl, if_pos (by simpa using hv)]
  · obtain ⟨hvf, ho⟩ := not_or.mp hv
    obtain ⟨part, rfl⟩ := Nat.exists_eq_add_one_of_ne_zero hvf
    rw [exec_clpBarCancel (Bool.not_eq_false _ |>.mp ho) ha, State.cancelBarrier_other h]

end

/-- Settles O39: each command is one of the operations on a barrier, and each clause reads off what that operation does. -/
theorem barrierCommands : Obligations.BarrierCommands := by
  unfold Obligations.BarrierCommands
  refine ⟨?arm, ?release, fun _ _ _ _ => exec_clpBarCancel_ignored, ?both, ?group, ?ramp⟩
  case arm =>
    intro vf b value s hvf hlt hb ho hc
    obtain ⟨part, rfl⟩ := Nat.exists_eq_add_one_of_ne_zero hvf
    have hexec := exec_clpBarArm (b := b) ho hc
    refine ⟨fun h => ?busy, fun h p hp hbit hlead howner => ?foreign, fun h hown hn => ?noEntry, fun h hown hq hl => ?armed⟩
    case busy =>
      obtain ⟨hres, hregs, hframe⟩ := State.setFld_barResult s (part + 1) b (show 3 < 256 by decide)
      exact ⟨_, hexec.trans (congrArg _ (State.armBarrier_busy h)), hres, State.setFld_clp _ _ _ _ _, hregs, hframe⟩
    case foreign =>
      have hpools : ¬ s.poolsOwned part b := fun hown => by
        rcases hown p hp hbit with h | h
        · exact absurd (hlead.symm.trans h) (by decide)
        · exact howner h
      obtain ⟨hres, -, hframe⟩ := State.setFld_barResult s (part + 1) b (show 2 < 256 by decide)
      exact ⟨_, hexec.trans (congrArg _ (State.armBarrier_foreign h hpools)), hres,
        (State.barState_setFld_barResult _ _ _ _).trans h, State.setFld_clp _ _ _ _ _, hframe⟩
    case noEntry => exact ⟨_, hexec, armBarrier_noEntry_outcome (by omega) hb h hown hn⟩
    case armed => exact ⟨_, hexec, armBarrier_armed_outcome h hown hq hl⟩
  case release =>
    intro vf b value s c hvf h hc
    obtain ⟨part, rfl⟩ := Nat.exists_eq_add_one_of_ne_zero hvf
    have hexec : exec c s = .next (s.releaseBarrier part b s.ns) := by
      rcases hc with ⟨rfl, ho, ha⟩ | ⟨rfl, hd⟩
      · rw [exec_clpBarCancel ho ha, State.cancelBarrier_armed h]
      · exact exec_barrierRelease h hd
    obtain ⟨hregs, hframe⟩ := s.releaseBarrier_changes part b s.ns
    exact ⟨_, hexec, s.releaseBarrier_state _ _ _, s.releaseBarrier_barrier _ _ _, s.rampAt_mod _, s.le_rampAt _,
      s.rampAt_lt _, s.releaseBarrier_sev _ _ _, hregs, hframe⟩
  case both =>
    intro vf b value s c hvf hlt hb ho hc
    obtain ⟨part, rfl⟩ := Nat.exists_eq_add_one_of_ne_zero hvf
    have hexec := exec_clpBar_both ho hc
    refine ⟨fun h => ?_, fun h => ?_⟩
    · rw [hexec, exec_clpBarArm ho (by decide), State.cancelBarrier_other (by omega)]
    · obtain ⟨hres, hregs, hframe⟩ := State.setFld_barResult (s.cancelBarrier part b) (part + 1) b (show 3 < 256 by decide)
      exact ⟨s.cancelBarrier part b, _, fun _ => exec_clpBarCancel ho (by decide), State.cancelBarrier_other,
        hexec.trans (congrArg _ (State.armBarrier_busy (State.cancelBarrier_state_ne h))), hres, State.setFld_clp _ _ _ _ _,
        State.barState_setFld_barResult _ _ _ _, hregs, hframe⟩
  case group =>
    intro vf b g s hvf h hd ht hg
    obtain ⟨part, rfl⟩ := Nat.exists_eq_add_one_of_ne_zero hvf
    exact ⟨_, exec_rampGroupStart h hd ht hg, State.barrier_setBarrier_same _ _ _ _, s.setBarrier_changes _ _ _⟩
  case ramp =>
    intro vf b s hvf h hd ht
    obtain ⟨part, rfl⟩ := Nat.exists_eq_add_one_of_ne_zero hvf
    have hne : s.fld F.CLP_BAR_STATE (part + 1) b ≠ 0 := by omega
    obtain ⟨hstate, hbar, hrelease, hramp⟩ := State.endBarrier_idle hne
    obtain ⟨hregs, hframe⟩ := State.endBarrier_changes hne
    exact ⟨_, exec_rampEnd h hd ht, hstate, hbar, hrelease, hramp, hregs, hframe⟩

end Sys2Proof.Machine

/-! Obligation O41, the doorbells (R316 to R319, R321): what a doorbell that fits and one out of range do to a ring, what the
error of a ring sets, and the four commands from these. -/

namespace Sys2Proof.Machine

/-! ### Little-endian fields -/

theorem leNat_lt (bs : List Byte) : leNat bs < 256 ^ bs.length := by
  induction bs with
  | nil => decide
  | cons b bs ih =>
    have hb := b.isLt
    rw [leNat, List.length_cons, Nat.pow_succ]
    omega

theorem leAt_lt (bs : List Byte) (o n : Nat) : leAt bs o n < 256 ^ n := by
  have h := leNat_lt (slice bs o n)
  rwa [slice_length] at h

/-! ### What a ring holds -/

@[simp] theorem State.ring_setRing_same (s : State) (fn r : Nat) (g : Ring) : (s.setRing fn r g).ring fn r = g :=
  sget_sput_same _ _ _ _

theorem State.ring_setRing_ne (s : State) {fn r fn' r' : Nat} (g : Ring) (h : 17 * fn' + r' ≠ 17 * fn + r) :
    (s.setRing fn r g).ring fn' r' = s.ring fn' r' := sget_sput_ne _ _ _ _ h

/-- What leaves the queues leaves what every ring holds. -/
theorem State.ring_of_changes {s t : State} {l : List Comp} (h : s.changes l t) (hq : .que ∉ l) (fn r : Nat) :
    t.ring fn r = s.ring fn r := by
  have hque : t.que = s.que := h .que hq
  simp only [State.ring, hque]

@[simp] theorem State.ring_setFld (s : State) (f : Fld) (v i w fn r : Nat) : (s.setFld f v i w).ring fn r = s.ring fn r := rfl

@[simp] theorem State.ring_setVec (s : State) (v k : Nat) (x : Vec) (fn r : Nat) : (s.setVec v k x).ring fn r = s.ring fn r := rfl

theorem State.emitCxl_changes (s : State) (fn r : Nat) (op : CxlOp) : s.changes [.emitted] (s.emitCxl fn r op) :=
  s.emit_changes _

/-! ### The registers of a submission ring -/

section
variable {fn r : Nat} (hr : r < 16)
include hr

theorem State.ringState_submission (s : State) : s.ringState fn r = s.fld F.QUE_RING_STATE fn r := if_neg (by omega)

theorem State.ringSize_submission (s : State) : s.ringSize fn r = 2 ^ s.fld F.QUE_RING_LOG2 fn r := by
  rw [State.ringSize, if_neg (by omega)]

theorem State.setRingState_submission (s : State) (w : Nat) : s.setRingState fn r w = s.setFld F.QUE_RING_STATE fn r w :=
  if_neg (by omega)

end

/-- The index register and the control register of a ring are two registers. -/
theorem regKey_queRingCtrl_ne (fn r : Nat) : regKey .queRingCtrl fn r ≠ regKey .queRingIdx fn r := by
  have h : Reg.queRingCtrl.ctorIdx ≠ Reg.queRingIdx.ctorIdx := by decide
  unfold regKey
  omega

theorem State.ringTail_setFld_same (s : State) (fn r w : Nat) :
    (s.setFld F.QUE_RING_TAIL fn r w).fld F.QUE_RING_TAIL fn r = w % 65536 :=
  State.fld_setFld_same s F.QUE_RING_TAIL fn r w (by decide) (by decide)

theorem State.ringHead_setFld_ringTail (s : State) (fn r w : Nat) :
    (s.setFld F.QUE_RING_TAIL fn r w).fld F.QUE_RING_HEAD fn r = s.fld F.QUE_RING_HEAD fn r :=
  State.fld_setFld_disj s F.QUE_RING_TAIL F.QUE_RING_HEAD fn r w rfl (by decide) (by decide) (by decide) (by decide)

/-- A ring's new tail leaves every field of its control register. -/
theorem State.ringCtrl_setFld_ringTail (s : State) (fn r w : Nat) {f : Fld} (hf : f.reg = .queRingCtrl) :
    (s.setFld F.QUE_RING_TAIL fn r w).fld f fn r = s.fld f fn r :=
  State.fld_setFld_other _ _ _ _ _ _ _ _ (by rw [hf]; exact regKey_queRingCtrl_ne fn r)

theorem State.ringState_setFld_same (s : State) (fn r w : Nat) :
    (s.setFld F.QUE_RING_STATE fn r w).fld F.QUE_RING_STATE fn r = w % 4 :=
  State.fld_setFld_same s F.QUE_RING_STATE fn r w (by decide) (by decide)

/-- A ring's new state leaves both of its indices. -/
theorem State.ringIdx_setFld_ringState (s : State) (fn r w : Nat) {f : Fld} (hf : f.reg = .queRingIdx) :
    (s.setFld F.QUE_RING_STATE fn r w).fld f fn r = s.fld f fn r :=
  State.fld_setFld_other _ _ _ _ _ _ _ _ (by rw [hf]; exact (regKey_queRingCtrl_ne fn r).symm)

/-! ### Frames -/

theorem State.changesRegs_mono {s t : State} {l l' : List (Reg × Nat × Nat)} (h : ∀ x ∈ l, x ∈ l')
    (h1 : s.changesRegs l t) : s.changesRegs l' t :=
  fun r v i hk => h1 r v i fun hm => hk (List.map_subset _ h hm)

/-! ### Fetching (R311) -/

theorem State.fetchAhead_changes (s : State) (fn r i n : Nat) : s.changes [.emitted, .que] (s.fetchAhead fn r i n) := by
  induction n generalizing s i with
  | zero => exact s.changes_refl _
  | succ n ih =>
    unfold State.fetchAhead
    dsimp only
    split
    · exact s.changes_refl _
    · refine State.changes_trans (State.changes_ite (s.changes_refl _) ?_) (ih _ _)
      exact State.changes_trans (State.changes_mono (by simp) (s.emitFn_changes _ _))
        (State.changes_mono (by simp) (State.setRing_changes _ _ _ _))

/-- Reading ahead notes the reads under way in the ring, and changes nothing else that it holds. -/
theorem State.fetchAhead_ring (s : State) (fn r i n : Nat) :
    ∃ reading, (s.fetchAhead fn r i n).ring fn r = { s.ring fn r with reading := reading } := by
  induction n generalizing s i with
  | zero => exact ⟨_, rfl⟩
  | succ n ih =>
    unfold State.fetchAhead
    dsimp only
    split
    · exact ⟨_, rfl⟩
    · split
      · exact ih _ _
      · obtain ⟨reading, h⟩ := ih ((s.emitFn fn (.hostRead (s.slotAddr fn r i) 64 true)).setRing fn r
          { s.ring fn r with reading := (s.ring fn r).reading ++ [i] }) ((i + 1) % 65536)
        rw [State.ring_setRing_same] at h
        exact ⟨reading, h⟩

theorem State.fetch_changes (s : State) (fn r : Nat) : s.changes [.emitted, .que] (s.fetch fn r) :=
  State.changes_ite (s.fetchAhead_changes _ _ _ _) (s.changes_refl _)

theorem State.fetch_ring (s : State) (fn r : Nat) :
    ∃ reading, (s.fetch fn r).ring fn r = { s.ring fn r with reading := reading } := by
  unfold State.fetch
  split
  · exact s.fetchAhead_ring _ _ _ _
  · exact ⟨_, rfl⟩

theorem State.fld_of_changes {s t : State} {l : List Comp} (h : s.changes l t) (hr : .regs ∉ l) (hp : .part ∉ l)
    (f : Fld) (v i : Nat) : t.fld f v i = s.fld f v i :=
  State.fld_congr (h .regs hr) (h .part hp) f v i

/-! ### A doorbell that fits (R316, R319, R321) -/

section
variable {s t : State} {fn r tail head : Nat}

/-- A ring that took a doorbell has taken it also once it reads its descriptors. -/
theorem State.bellTaken_fetch (hr : r < 16) (h : s.bellTaken t fn r tail head) :
    s.bellTaken (t.fetch fn r) fn r tail head := by
  obtain ⟨htail, hcq, hstate, hhead, hregs, hframe⟩ := h
  have hfetch := t.fetch_changes fn r
  have hfld : ∀ f v i, (t.fetch fn r).fld f v i = t.fld f v i := State.fld_of_changes hfetch (by decide) (by decide)
  obtain ⟨reading, hring⟩ := t.fetch_ring fn r
  rw [State.ringState_submission hr] at hstate
  refine ⟨(hfld _ _ _).trans htail, ?_, ?_, (hfld _ _ _).trans hhead,
    State.changesRegs_trans hregs (State.changesRegs_of_changes hfetch (by decide) (by decide) _),
    State.changes_trans hframe (State.changes_mono (by simp) hfetch)⟩
  · rw [hring]
    exact hcq
  · rw [State.ringState_submission hr, hfld, hstate]

/-- What the ring holds before a doorbell is no part of what taking it means. -/
theorem State.bellTaken_of_setRing {g : Ring} (h : (s.setRing fn r g).bellTaken t fn r tail head) :
    s.bellTaken t fn r tail head := by
  obtain ⟨htail, hcq, hstate, hhead, hregs, hframe⟩ := h
  have hset := s.setRing_changes fn r g
  exact ⟨htail, hcq, hstate, hhead.trans (State.fld_of_changes hset (by decide) (by decide) _ _ _),
    State.changesRegs_trans (State.changesRegs_of_changes hset (by decide) (by decide) _) hregs,
    State.changes_trans (State.changes_mono (by simp) hset) hframe⟩

/-- A doorbell fits by the ring's registers and its completion index alone. -/
theorem State.bellFits_setRing {g : Ring} (h : s.bellFits fn r tail head) (hg : g.cqNext = (s.ring fn r).cqNext) :
    (s.setRing fn r g).bellFits fn r tail head := by
  obtain ⟨hr, hfn, hstop, hen, hstate, hsize, hcq⟩ := h
  exact ⟨hr, hfn, hstop, hen, hstate, hsize, by rw [State.ring_setRing_same, hg]; exact hcq⟩

end

/-- The tail and the completion head of the ring are stored; its state is as before. -/
def State.bellStored (s t : State) (fn r tail head : Nat) : Prop :=
  t.fld F.QUE_RING_TAIL fn r = tail ∧ (t.ring fn r).cqHead = head ∧ t.ringState fn r = s.ringState fn r ∧
  t.fld F.QUE_RING_HEAD fn r = s.fld F.QUE_RING_HEAD fn r ∧ s.changesRegs [(.queRingIdx, fn, r)] t ∧ s.changes [.regs, .que] t

section
variable {s t : State} {fn r tail head : Nat}

theorem State.bellStored_setRing {g : Ring} (hr : r < 16) (ht : tail < 65536) (hg : g.cqHead = head) :
    s.bellStored ((s.setFld F.QUE_RING_TAIL fn r tail).setRing fn r g) fn r tail head := by
  have hset := (s.setFld F.QUE_RING_TAIL fn r tail).setRing_changes fn r g
  have hfld : ∀ f v i, ((s.setFld F.QUE_RING_TAIL fn r tail).setRing fn r g).fld f v i
      = (s.setFld F.QUE_RING_TAIL fn r tail).fld f v i := State.fld_of_changes hset (by decide) (by decide)
  refine ⟨?_, ?_, ?_, ?_, State.changesRegs_trans (s.setFld_changesRegs F.QUE_RING_TAIL _ _ _)
      (State.changesRegs_of_changes hset (by decide) (by decide) _),
    State.changes_trans (State.changes_mono (by simp) (s.setFld_changes _ _ _ _)) (State.changes_mono (by simp) hset)⟩
  · rw [hfld, State.ringTail_setFld_same, Nat.mod_eq_of_lt ht]
  · rw [State.ring_setRing_same, hg]
  · rw [State.ringState_submission hr, State.ringState_submission hr, hfld,
      State.ringCtrl_setFld_ringTail _ _ _ _ rfl]
  · rw [hfld, State.ringHead_setFld_ringTail]

/-- A running ring that stored a doorbell has taken it. -/
theorem State.bellTaken_running (h : s.bellStored t fn r tail head) (hrun : s.ringState fn r = 1) :
    s.bellTaken t fn r tail head := by
  obtain ⟨htail, hcq, hstate, hhead, hregs, hframe⟩ := h
  exact ⟨htail, hcq, hstate.trans hrun, hhead, State.changesRegs_mono (by simp) hregs, State.changes_mono (by simp) hframe⟩

/-- A ring that stored a doorbell and is let run has taken it (R321). -/
theorem State.bellTaken_resumed (hr : r < 16) (h : s.bellStored t fn r tail head) :
    s.bellTaken (t.setRingState fn r 1) fn r tail head := by
  obtain ⟨htail, hcq, -, hhead, hregs, hframe⟩ := h
  rw [State.setRingState_submission hr]
  refine ⟨(t.ringIdx_setFld_ringState fn r 1 rfl).trans htail, by rw [State.ring_setFld, hcq], ?_,
    (t.ringIdx_setFld_ringState fn r 1 rfl).trans hhead,
    State.changesRegs_trans (State.changesRegs_mono (by simp) hregs)
      (State.changesRegs_mono (by simp [F.QUE_RING_STATE]) (t.setFld_changesRegs F.QUE_RING_STATE _ _ _)),
    State.changes_trans (State.changes_mono (by simp) hframe) (State.changes_mono (by simp) (t.setFld_changes _ _ _ _))⟩
  rw [State.ringState_submission hr, State.ringState_setFld_same]

/-- A doorbell acts on an enabled ring that runs or is STALE. -/
theorem State.ringBell_live (hr : r < 16) (hen : s.ringEn fn r = true) (hstate : s.ringState fn r = 1 ∨ s.ringState fn r = 2) :
    s.ringBell fn r tail head =
      let u := s.setFld F.QUE_RING_TAIL fn r tail
      if s.ringSize fn r < diff16 tail (s.fld F.QUE_RING_HEAD fn r) then u.ringError fn r 1 tail
      else if beyond16 head (s.ring fn r).cqNext then u.ringError fn r 1 head
      else
        let g := { s.ring fn r with cqHead := head % 65536, tailAt := s.ns }
        if s.ringState fn r = 2 then
          ((u.setRing fn r { g with
            rereads := 0, stale := 0, fetched := g.fetched.filter fun f => f.idx ≠ s.fld F.QUE_RING_HEAD fn r }).setRingState
              fn r 1).fetch fn r
        else (u.setRing fn r g).fetch fn r := by
  have hlive : ¬ ((!s.ringEn fn r) = true ∨ s.ringState fn r = 0 ∨ s.ringState fn r = 3) := by
    rw [hen]
    simp only [Bool.not_true, Bool.false_eq_true, false_or]
    omega
  have hsize : (s.setFld F.QUE_RING_TAIL fn r tail).ringSize fn r = s.ringSize fn r := by
    rw [State.ringSize_submission hr, State.ringSize_submission hr, State.ringCtrl_setFld_ringTail _ _ _ _ rfl]
  unfold State.ringBell
  dsimp only
  rw [if_neg hlive, hsize]
  rfl

theorem State.bell_submission (hr : r < 16) (hstop : s.stopped = false) : s.bell fn r tail head = s.ringBell fn r tail head := by
  rw [State.bell, if_neg (show r ≠ 16 by omega), hstop, if_neg (by decide)]

/-- What fetching notes in a ring is neither of what it knows of its doorbell line. -/
theorem State.fetch_line (s : State) (fn r : Nat) : ((s.fetch fn r).ring fn r).lineHeld = (s.ring fn r).lineHeld ∧
    ((s.fetch fn r).ring fn r).lineReading = (s.ring fn r).lineReading := by
  obtain ⟨reading, h⟩ := s.fetch_ring fn r
  rw [h]
  exact ⟨rfl, rfl⟩

/-- A doorbell that fits is taken, by a ring that runs and by one that is STALE, and leaves what the ring knows of its line. -/
theorem State.bell_fits (ht : tail < 65536) (hh : head < 65536) (h : s.bellFits fn r tail head) :
    s.bellTaken (s.bell fn r tail head) fn r tail head ∧
      ((s.bell fn r tail head).ring fn r).lineHeld = (s.ring fn r).lineHeld ∧
      ((s.bell fn r tail head).ring fn r).lineReading = (s.ring fn r).lineReading := by
  obtain ⟨hr, -, hstop, hen, hstate, hsize, hcq⟩ := h
  rw [State.bell_submission hr hstop, State.ringBell_live hr hen hstate]
  simp only [if_neg (Nat.not_lt.mpr hsize), hcq, Bool.false_eq_true, if_false]
  rcases hstate with hrun | hstale
  · rw [if_neg (by omega)]
    refine ⟨State.bellTaken_fetch hr (State.bellTaken_running (State.bellStored_setRing hr ht ?_) hrun), ?_⟩
    · exact Nat.mod_eq_of_lt hh
    · rw [(State.fetch_line _ _ _).1, (State.fetch_line _ _ _).2, State.ring_setRing_same]
      exact ⟨rfl, rfl⟩
  · rw [if_pos hstale]
    refine ⟨State.bellTaken_fetch hr (State.bellTaken_resumed hr (State.bellStored_setRing hr ht ?_)), ?_⟩
    · exact Nat.mod_eq_of_lt hh
    · rw [(State.fetch_line _ _ _).1, (State.fetch_line _ _ _).2, State.setRingState_submission hr, State.ring_setFld,
        State.ring_setRing_same]
      exact ⟨rfl, rfl⟩

/-- A doorbell out of range stores its tail and puts the ring in ERROR with cause 1. -/
theorem State.bell_outOfRange (hr : r < 16) (hstop : s.stopped = false) (hen : s.ringEn fn r = true)
    (hstate : s.ringState fn r = 1 ∨ s.ringState fn r = 2)
    (hout : s.ringSize fn r < diff16 tail (s.fld F.QUE_RING_HEAD fn r) ∨ beyond16 head (s.ring fn r).cqNext = true) :
    ∃ i, s.bell fn r tail head = (s.setFld F.QUE_RING_TAIL fn r tail).ringError fn r 1 i := by
  rw [State.bell_submission hr hstop, State.ringBell_live hr hen hstate]
  dsimp only
  split
  · exact ⟨_, rfl⟩
  · next hsize => exact ⟨_, if_pos (hout.resolve_left hsize)⟩

end

/-! ### The error of a ring (R319) -/

/-- An error sets its bit of the status register. -/
theorem State.errOne_sets (s : State) (sts first : Reg) {b : Nat} (cap v i : Nat) (hb : b < 64) :
    (s.errOne sts first b cap v i).fld ⟨sts, b, b⟩ v i = 1 := by
  have hset : (s.errOne sts first b cap v i).regN sts v i = s.regN sts v i ||| 2 ^ b := by
    rw [State.errOne_sts, Nat.mod_eq_of_lt (Nat.or_lt_two_pow (s.regN_lt _ _ _) (Nat.pow_lt_pow_right (by decide) hb))]
  have hbit : (s.regN sts v i ||| 2 ^ b).testBit b = true := by
    rw [Nat.testBit_or, Nat.testBit_two_pow_self, Bool.or_true]
  rw [Nat.testBit_eq_decide_div_mod_eq, decide_eq_true_eq] at hbit
  simpa only [State.fld, hset, bits, Nat.shiftRight_eq_div_pow, Nat.add_sub_cancel_left, Nat.pow_one] using hbit

theorem State.queErr_sets (s : State) (fn ring index stamp : Nat) :
    (s.queErr fn 1 ring index stamp).fld F.QUE_E_RING fn 0 = 1 := by
  unfold State.queErr
  exact State.errOne_sets _ _ _ _ _ _ (by decide)

/-- An error of the queues leaves the control register of every ring. -/
theorem State.queErr_ringState (s : State) (b ring index stamp : Nat) {fn r : Nat} (hfn : fn < 128) (hr : r < 8192) :
    (s.queErr fn b ring index stamp).fld F.QUE_RING_STATE fn r = s.fld F.QUE_RING_STATE fn r := by
  have other : ∀ {q : Reg}, q.ctorIdx ≠ Reg.queRingCtrl.ctorIdx → regKey .queRingCtrl fn r ≠ regKey q fn 0 := fun hq h =>
    hq ((regKey_inj hfn hfn hr (by decide)).mp h).1.symm
  exact congrArg (bits · 31 30) (State.errOne_other _ _ _ _ _ _ _ _ _ _ (other (by decide)) (other (by decide)))

theorem State.ring_queErr (s : State) (v b ring index stamp fn r : Nat) :
    (s.queErr v b ring index stamp).ring fn r = s.ring fn r :=
  State.ring_of_changes (State.queErr_changes _ _ _ _ _ _) (by decide) _ _

/-- A vector's record leaves what every ring holds. -/
theorem State.vecRecord_ring (s : State) (v k : Nat) (irq : Bool) (fn r : Nat) :
    (s.vecRecord v k irq).ring fn r = s.ring fn r := by
  unfold State.vecRecord
  dsimp only
  split
  · rfl
  · split
    · rw [State.ring_of_changes (State.msixSend_changes _ _ _) (by decide), State.ring_setVec]
    · rfl

/-- An event leaves what every submission ring holds. -/
theorem State.eventTo_ring (s : State) (v src code : Nat) (d : List Byte) {fn r : Nat} (hr : r < 16) :
    (s.eventTo v src code d).ring fn r = s.ring fn r := by
  have hne : 17 * fn + r ≠ 17 * v + 16 := by omega
  unfold State.eventTo
  dsimp only
  split
  · exact State.ring_setRing_ne _ _ hne
  · split
    · exact State.ring_of_changes (s.countUnwritten_changes v) (by decide) _ _
    · rw [State.vecRecord_ring, State.ring_setFld, State.ring_setRing_ne _ _ hne,
        State.ring_of_changes (State.emitFn_changes _ _ _) (by decide)]

theorem State.drive_le (s : State) (part : Nat) : s.drive part ≤ part + 1 := by
  unfold State.drive
  split <;> omega

/-- A submission ring enters ERROR by its state and the error of its function; the event that says so may go to a function, or be
dropped. -/
theorem State.ringError_enters {s : State} {fn r : Nat} (cause index : Nat) (hfn : fn < 65) (hr : r < 16)
    (h : s.ringState fn r ≠ 3) :
    let u := (s.setFld F.QUE_RING_STATE fn r 3).queErr fn 1 r index 0
    s.ringError fn r cause index = u ∨ ∃ v src code d, v < 65 ∧ s.ringError fn r cause index = u.eventTo v src code d := by
  rw [State.ringState_submission hr] at h
  simp only [State.ringError, if_neg (show r ≠ 16 by omega), if_neg h]
  split
  · exact .inr ⟨0, _, _, _, by decide, rfl⟩
  · unfold State.event
    split
    · exact .inr ⟨_, _, _, _, Nat.lt_of_le_of_lt (State.drive_le _ _) (by omega), rfl⟩
    · exact .inl rfl

/-- The registers of a ring and of its function's errors are none that an event writes. -/
theorem State.eventTo_fld (s : State) (v src code : Nat) (d : List Byte) {fn i : Nat} (hfn : fn < 65) (hv : v < 65)
    (hi : i < 16) {f : Fld} (hf : f.reg = .queRingCtrl ∨ f.reg = .queErrSts) :
    (s.eventTo v src code d).fld f fn i = s.fld f fn i := by
  have other : ∀ {q : Reg}, q.ctorIdx ≠ Reg.queRingCtrl.ctorIdx → q.ctorIdx ≠ Reg.queErrSts.ctorIdx →
      regKey f.reg fn i ≠ regKey q v 0 := fun h1 h2 h => by
    have hq := ((regKey_inj (by omega) (by omega) (by omega) (by decide)).mp h).1.symm
    rcases hf with hf | hf <;> rw [hf] at hq
    · exact h1 hq
    · exact h2 hq
  exact congrArg (bits · f.hi f.lo) (State.eventTo_regN _ _ _ _ _ (other (by decide) (by decide)) (other (by decide) (by decide))
    (other (by decide) (by decide)))

section
variable {s : State} {fn r : Nat} (cause index : Nat) (hfn : fn < 65) (hr : r < 16)
include hfn hr

/-- A ring that entered ERROR reads ERROR, its function's error bit is set, and it holds what it held. -/
theorem State.ringError_entered (h : s.ringState fn r ≠ 3) :
    (s.ringError fn r cause index).ringState fn r = 3 ∧ (s.ringError fn r cause index).fld F.QUE_E_RING fn 0 = 1 ∧
      (s.ringError fn r cause index).ring fn r = s.ring fn r := by
  have hevent := State.ringError_enters cause index hfn hr h
  have hstate : ((s.setFld F.QUE_RING_STATE fn r 3).queErr fn 1 r index 0).fld F.QUE_RING_STATE fn r = 3 := by
    rw [State.queErr_ringState _ _ _ _ _ (by omega) (by omega), State.ringState_setFld_same]
  have herr := (s.setFld F.QUE_RING_STATE fn r 3).queErr_sets fn r index 0
  have hring : ((s.setFld F.QUE_RING_STATE fn r 3).queErr fn 1 r index 0).ring fn r = s.ring fn r := by
    rw [State.ring_queErr, State.ring_setFld]
  rw [State.ringState_submission hr]
  rcases hevent with h | ⟨v, src, code, d, hv, h⟩
  · rw [h]
    exact ⟨hstate, herr, hring⟩
  · rw [h, State.eventTo_fld _ _ _ _ _ hfn hv hr (.inl rfl), State.eventTo_fld _ _ _ _ _ hfn hv (by decide) (.inr rfl),
      State.eventTo_ring _ _ _ _ _ hr]
    exact ⟨hstate, herr, hring⟩

/-- After an error a ring is in ERROR, also one that was. -/
theorem State.ringError_state : (s.ringError fn r cause index).ringState fn r = 3 ∧
    (s.ringError fn r cause index).ring fn r = s.ring fn r := by
  by_cases h : s.ringState fn r = 3
  · have hsame : s.ringError fn r cause index = s := if_pos h
    rw [hsame]
    exact ⟨h, rfl⟩
  · obtain ⟨hstate, -, hring⟩ := State.ringError_entered cause index hfn hr h
    exact ⟨hstate, hring⟩

end

/-! ### The commands -/

section
variable {s : State} {fn ring : Nat}

theorem exec_queDb {value : Nat} (ho : s.fnOpen fn = true) (he : s.ringEn fn ring = true) (hm : s.ringMmio fn ring = true) :
    exec (.queDb fn ring value) s = .next (s.bell fn ring (bits value 15 0) (bits value 31 16)) := by
  show Host.Outcome.next (doQueDb fn ring value s) = _
  rw [doQueDb, ho, he, hm]
  rfl

theorem exec_queDb_ignored (value : Nat) (h : s.fnOpen fn = false ∨ s.ringEn fn ring = false ∨ s.ringMmio fn ring = false) :
    exec (.queDb fn ring value) s = .next s := by
  show Host.Outcome.next (doQueDb fn ring value s) = _
  rw [doQueDb, if_neg (by rcases h with h | h | h <;> simp [h])]

/-- The event queue's doorbell gives a head alone. -/
theorem State.bell_eventQueue (s : State) (fn tail head : Nat) : s.bell fn 16 tail head = s.eqBell fn head := if_pos rfl

/-- The event queue's doorbell register acts as that of ring 16. -/
theorem exec_queEqDb (fn value : Nat) (s : State) : exec (.queEqDb fn value) s = exec (.queDb fn 16 value) s := by
  show Host.Outcome.next (doQueEqDb fn value s) = Host.Outcome.next (doQueDb fn 16 value s)
  rw [doQueEqDb, doQueDb, State.bell_eventQueue, State.bell_eventQueue]

section
variable {low high : List Byte} (hl : (s.ring fn ring).lineReading = true)
include hl

theorem exec_doorbellLineRead (he : s.ringEn fn ring = true) :
    exec (.doorbellLineRead fn ring low high true) s = .next (State.bell
      (s.setRing fn ring { s.ring fn ring with lineHeld := true, lineReading := false }) fn ring (leAt (low ++ high) 0 2)
      (leAt (low ++ high) 2 2)) := by
  show Host.Outcome.next (doDoorbellLineRead fn ring low high true s) = _
  simp only [doDoorbellLineRead, hl, he, Bool.not_true, Bool.false_eq_true, if_false, if_true]

theorem exec_doorbellLineRead_failed (he : s.ringEn fn ring = true) :
    ∃ i, exec (.doorbellLineRead fn ring low high false) s =
      .next ((s.setRing fn ring { s.ring fn ring with lineReading := false }).ringError fn ring 2 i) := by
  refine ⟨if ring = 16 then s.fld F.QUE_EQ_TAIL fn 0 else s.fld F.QUE_RING_HEAD fn ring, ?_⟩
  show Host.Outcome.next (doDoorbellLineRead fn ring low high false s) = _
  simp only [doDoorbellLineRead, hl, he, Bool.not_true, Bool.false_eq_true, if_false]

/-- The line of a ring disabled while it was read is given up as it arrives (R319). -/
theorem exec_doorbellLineRead_disabled (ok : Bool) (he : s.ringEn fn ring = false) :
    let u := s.setRing fn ring { s.ring fn ring with lineReading := false }
    exec (.doorbellLineRead fn ring low high ok) s = .next (if ok then u.emitCxl fn ring .cleanEvict else u) := by
  show Host.Outcome.next (doDoorbellLineRead fn ring low high ok s) = _
  simp only [doDoorbellLineRead, hl, he, Bool.not_true, Bool.not_false, Bool.false_eq_true, if_false, if_true]

end

theorem exec_doorbellSnoop_unheld (k : Snoop) (h : (s.ring fn ring).lineHeld = false) :
    exec (.doorbellSnoop fn ⟨ring, k⟩) s = .next (s.emitCxl fn ring (.snoopAnswer false)) := by
  show Host.Outcome.next (doDoorbellSnoop fn ⟨ring, k⟩ s) = _
  simp only [doDoorbellSnoop, h, Bool.not_false, if_true]

theorem exec_doorbellSnoop_inv (h : (s.ring fn ring).lineHeld = true) :
    exec (.doorbellSnoop fn ⟨ring, .inv⟩) s =
      .next (((s.emitCxl fn ring (.snoopAnswer false)).emitCxl fn ring .rdShared).setRing fn ring
        { s.ring fn ring with lineHeld := false, lineReading := true }) := by
  show Host.Outcome.next (doDoorbellSnoop fn ⟨ring, .inv⟩ s) = _
  simp only [doDoorbellSnoop, h, Bool.not_true, Bool.false_eq_true, if_false]

theorem exec_doorbellSnoop_shared {k : Snoop} (h : (s.ring fn ring).lineHeld = true) (hk : k ≠ .inv) :
    exec (.doorbellSnoop fn ⟨ring, k⟩) s = .next (s.emitCxl fn ring (.snoopAnswer true)) := by
  show Host.Outcome.next (doDoorbellSnoop fn ⟨ring, k⟩ s) = _
  simp only [doDoorbellSnoop, h, Bool.not_true, Bool.false_eq_true, if_false]
  cases k with
  | inv => exact absurd rfl hk
  | data => rfl
  | cur => rfl

end

/-! ### The statement -/

/-- Settles O41: each command is a doorbell, the error of a ring or a message about its line, and each clause reads off what that
operation does. -/
theorem doorbells : Obligations.Doorbells := by
  unfold Obligations.Doorbells
  refine ⟨?register, fun _ _ _ _ _ => exec_doorbellLineRead, ?disabled, ?ignored, ?fits, ?outOfRange, ?line, ?unread, ?events,
    ?snoop⟩
  case register =>
    intro fn ring value s ho he hm
    refine ⟨fun _ => exec_queDb ho he hm, fun h tail => ?_⟩
    subst h
    rw [exec_queEqDb, exec_queDb ho he hm, State.bell_eventQueue, State.bell_eventQueue]
  case disabled =>
    intro fn ring low high ok s hl he
    refine ⟨_, exec_doorbellLineRead_disabled hl ok he, ?_⟩
    have hset := s.setRing_changes fn ring { s.ring fn ring with lineReading := false }
    cases ok with
    | true =>
      exact ⟨State.ring_setRing_same _ _ _ _, rfl, State.changes_trans (State.changes_mono (by simp) hset)
        (State.changes_mono (by simp) (State.emitCxl_changes _ _ _ _))⟩
    | false => exact ⟨State.ring_setRing_same _ _ _ _, (List.append_nil _).symm, State.changes_mono (by simp) hset⟩
  case ignored =>
    intro fn ring value s h
    refine ⟨exec_queDb_ignored value h, fun hr => ?_⟩
    subst hr
    rw [exec_queEqDb, exec_queDb_ignored value h]
  case fits =>
    intro fn ring value s ho hm h
    have ⟨_, _, _, he, _⟩ := h
    exact ⟨_, exec_queDb ho he hm, (State.bell_fits (bits_lt value 15 0) (bits_lt value 31 16) h).1⟩
  case outOfRange =>
    intro fn ring value s hfn hr hstop ho he hm hstate hout
    obtain ⟨i, hbell⟩ := State.bell_outOfRange hr hstop he hstate hout
    have hlive : (s.setFld F.QUE_RING_TAIL fn ring (bits value 15 0)).ringState fn ring ≠ 3 := by
      rw [State.ringState_submission hr] at hstate ⊢
      rw [State.ringCtrl_setFld_ringTail _ _ _ _ rfl]
      omega
    obtain ⟨herror, hbit, -⟩ := State.ringError_entered 1 i hfn hr hlive
    refine ⟨_, exec_queDb ho he hm, ?_⟩
    rw [hbell]
    exact ⟨herror, hbit, State.changes_trans (State.changes_mono (by simp) (s.setFld_changes _ _ _ _))
      (State.ringError_changes _ _ _ _ _)⟩
  case line =>
    intro fn ring low high s hl h
    have ⟨_, _, _, he, _⟩ := h
    obtain ⟨htaken, hheld, hreading⟩ := State.bell_fits (leAt_lt (low ++ high) 0 2) (leAt_lt (low ++ high) 2 2)
      (State.bellFits_setRing (g := { s.ring fn ring with lineHeld := true, lineReading := false }) h rfl)
    rw [State.ring_setRing_same] at hheld hreading
    exact ⟨_, exec_doorbellLineRead hl he, State.bellTaken_of_setRing htaken, hheld, hreading⟩
  case unread =>
    intro fn ring low high s hfn hr hl he
    obtain ⟨i, hexec⟩ := exec_doorbellLineRead_failed (low := low) (high := high) hl he
    obtain ⟨hstate, hring⟩ := State.ringError_state (s := s.setRing fn ring { s.ring fn ring with lineReading := false })
      2 i hfn hr
    rw [State.ring_setRing_same] at hring
    exact ⟨_, hexec, hstate, by rw [hring]⟩
  case events =>
    intro fn value s ho he hstate hm hb
    have hbell : s.eqBell fn (bits value 31 16) = s.setFld F.QUE_EQ_HEAD fn 0 (bits value 31 16) := by
      simp only [State.eqBell, hstate, hb, ne_eq, not_true_eq_false, Bool.false_eq_true, if_false]
    have hexec : exec (.queEqDb fn value) s = .next (s.setFld F.QUE_EQ_HEAD fn 0 (bits value 31 16)) := by
      rw [exec_queEqDb, exec_queDb (ring := 16) ho he hm, State.bell_eventQueue, hbell]
    refine ⟨_, hexec, ?_, ?_, s.setFld_changesRegs F.QUE_EQ_HEAD _ _ _, s.setFld_changes _ _ _ _⟩
    · exact (State.fld_setFld_same s F.QUE_EQ_HEAD _ _ _ (by decide) (by decide)).trans (Nat.mod_eq_of_lt (bits_lt value 31 16))
    · exact State.fld_setFld_disj s F.QUE_EQ_HEAD F.QUE_EQ_TAIL _ _ _ rfl (by decide) (by decide) (by decide) (by decide)
  case snoop =>
    intro fn ring k s
    refine ⟨fun h hk => ?_, fun h hk => ?_, fun h => ?_⟩
    · subst hk
      exact ⟨_, exec_doorbellSnoop_inv h, State.ring_setRing_same _ _ _ _, rfl,
        State.changes_trans (State.changes_mono (by simp) (s.emitCxl_changes _ _ _))
          (State.changes_trans (State.changes_mono (by simp) (State.emitCxl_changes _ _ _ _))
            (State.changes_mono (by simp) (State.setRing_changes _ _ _ _)))⟩
    · exact ⟨_, exec_doorbellSnoop_shared h hk, rfl, s.emitCxl_changes _ _ _⟩
    · exact ⟨_, exec_doorbellSnoop_unheld k h, rfl, s.emitCxl_changes _ _ _⟩

end Sys2Proof.Machine
